-- ==== Sys2Proof/Word.lean ====
section
/-! DEFINITION. The 16-bit word of the WF7220 (spec/00_scope.md, "Numbers and words"). -/

namespace Sys2Proof

/-- A word is 16 bits. The same word is read as unsigned (`toNat`) or as signed 16 (`toInt`),
as the rule that reads it says. -/
abbrev Word := BitVec 16

end Sys2Proof
end

