-- ==== Sys2Proof/Config.lean ====
section
/-! DEFINITION. The sizes and limits of the part, each fixed by a rule of spec/. The spec leaves no
value of the part open that a later step could depend on, so no constant here is without a body. -/

namespace Sys2Proof.Config

/-- Entries of a lane's reference ring (R17, section 1.7). -/
@[simp, reducible] def ringLength : Nat := 64
/-- Entries of a lane's sibling history (R19). -/
@[simp, reducible] def siblingLength : Nat := 24
/-- Coefficient sets of the bank (R21). -/
@[simp, reducible] def setCount : Nat := 48
/-- Words of a set (section 2.1). -/
@[simp, reducible] def setWords : Nat := 50
/-- BANK addresses from one set to the next (R21). -/
@[simp, reducible] def setStride : Nat := 64
/-- First tap word of a set: words 0 to 9 are the header (section 2.1). -/
@[simp, reducible] def firstTap : Nat := 10
/-- First sibling tap word of a set (section 2.1). -/
@[simp, reducible] def firstSiblingTap : Nat := 42
/-- Words the Response Queue holds (R156). -/
@[simp, reducible] def responseRoom : Nat := 32
/-- Transfer words the Response Queue admits at most (R158). -/
@[simp, reducible] def transferRoom : Nat := 24
/-- Words a return frame takes from the Response Queue at most (R138). -/
@[simp, reducible] def payloadMax : Nat := 4
/-- Records the Notice Queue holds (R178). -/
@[simp, reducible] def noticeRoom : Nat := 16
/-- End of a repeat count and of the lost count (R178, R179). -/
@[simp, reducible] def repeatMax : Nat := 255
/-- End of a 16-bit counter (R182). -/
@[simp, reducible] def counterMax : Nat := 65535
/-- End of the stale count (R11). -/
@[simp, reducible] def staleMax : Nat := 1023
/-- Fill count that ends priming (R116). -/
@[simp, reducible] def fillFull : Nat := 64
/-- Settle count after a sensor gap, a clipped frame or a recovery (R13). -/
@[simp, reducible] def settleLong : Nat := 64
/-- Settle count after a wedge gap (R13). -/
@[simp, reducible] def settleShort : Nat := 32
/-- Saturation run that faults a lane (R71). -/
@[simp, reducible] def saturationLimit : Nat := 32
/-- Divergence count that rolls a set back (R92). -/
@[simp, reducible] def divergenceLimit : Nat := 64
/-- Argument age that drops a pending command (R148). -/
@[simp, reducible] def argumentAgeLimit : Nat := 16
/-- Wait count that ends a waiting transfer (R168). -/
@[simp, reducible] def waitLimit : Nat := 4096
/-- First undefined command code (R146). -/
@[simp, reducible] def undefinedFrom : Nat := 22

end Sys2Proof.Config
end

