-- ==== Sys2Proof/Syntax.lean ====
section
/-! DEFINITION. The commands of the part: one constructor of `Instr` for each row of
spec/opcode_table.json, with the operands the row's rule gives it. -/

namespace Sys2Proof

/-- A lane: one actuator and its servo loop (spec/00_scope.md, "Histories and lanes"). -/
inductive Lane where
  | zero
  | one
  deriving DecidableEq, Repr

/-- A set number, 0 to 47. -/
abbrev SetNo := Fin 48

/-- A word number within a set, 0 to 49. -/
abbrev WordNo := Fin 50

/-- The lane parameters of LANE addresses 0 and 2 to 7 (section 7.4). Address 1, the fallback
setting, is a command of its own (R43). -/
inductive LaneParam where
  | alignment
  | wedgesPerRev
  | seekFeedForward
  | adaptMode
  | pesGate
  | staleLimit
  | holdLength
  deriving DecidableEq, Repr

/-- The conditioner parameters of COND addresses 0 to 9 (section 1.4). -/
inductive CondParam where
  | polarity1
  | polarity2
  | trim1
  | trim2
  | threshold1
  | threshold2
  | threshold3
  | hysteresis
  | startBand
  | retain
  deriving DecidableEq, Repr

/-- How many movements of the Transfer Engine fall after each stage of a servo frame (R130: "A word
movement or appending of the Transfer Engine may also fall between the stages of a servo frame's
handling"). The spec fixes no number, so the sender of the command gives it (log entry 4, DESIGN CHOICE). -/
structure EngineSlots where
  afterLaneControl : Nat
  afterConditioner : Nat
  afterSelector : Nat
  afterFilter : Nat
  afterProbe : Nat
  afterAdaptation : Nat
  deriving DecidableEq, Repr

/-- No movement of the Transfer Engine falls within the frame. -/
def EngineSlots.none : EngineSlots := ⟨0, 0, 0, 0, 0, 0⟩

/-- What the reset line cuts short (R141; log entry 16, DESIGN CHOICE): the words received of a frame under
reception, and how many words of the last frame begun on each outgoing port had left the part, `none` where that
frame had left whole: "no drive frame or return frame begun before the assertion is completed". -/
structure CutShort where
  received : List Word
  drive : Option Nat
  upstream : Option Nat
  deriving DecidableEq, Repr

/-- No frame under reception, and every frame begun had left whole. -/
def CutShort.whole : CutShort := ⟨[], none, none⟩

/-- The commands the block takes: the rows of spec/opcode_table.json, in the table's order. -/
inductive Instr where
  /-- POWER_ON_RESET (R141); the frames the reset line cuts short. -/
  | powerOnReset (cutShort : CutShort)
  /-- SENSOR_FRAME (R1, R140); the words received on the sensor port. -/
  | sensorFrame (words : List Word)
  /-- SERVO_FRAME (R134); the words received on the servo link, the check word last. -/
  | servoFrame (words : List Word) (slots : EngineSlots)
  /-- REFERENCE_LOST (R12). -/
  | referenceLost (lane : Lane)
  /-- PRIMING_COMPLETE (R116). -/
  | primingComplete (lane : Lane)
  /-- CAMPAIGN_DONE (R105). -/
  | campaignDone (lane : Lane)
  /-- DIVERGENCE_ROLLBACK (R92). -/
  | divergenceRollback (lane : Lane)
  /-- WINDOW_CLOSE (R86). -/
  | windowClose (lane : Lane)
  /-- LANE_FAULT (R71). -/
  | laneFault (lane : Lane)
  /-- ARGUMENT_EXPIRED (R148). -/
  | argumentExpired
  /-- TRANSFER_TIMEOUT (R168). -/
  | transferTimeout
  /-- DISCARDED_FRAME (R133); the words received on the servo link. -/
  | discardedFrame (words : List Word)
  /-- MANAGEMENT_FRAME (R144); the words received on the servo link, the check word last. -/
  | managementFrame (words : List Word)
  /-- DATA_WORD (R151): a data word offered at the pointer. -/
  | dataWord (value : Word)
  /-- BANK_DATA_WORD (R23). -/
  | bankDataWord (set : SetNo) (word : WordNo) (value : Word)
  /-- MAP_ENTRY_WRITE (R42). -/
  | mapEntryWrite (lane : Lane) (addr : Fin 512) (value : Word)
  /-- FALLBACK_WRITE (R43). -/
  | fallbackWrite (lane : Lane) (value : Word)
  /-- LANE_PARAMETER_WRITE (R124). -/
  | laneParameterWrite (lane : Lane) (param : LaneParam) (value : Word)
  /-- COND_PARAMETER_WRITE (R8). -/
  | condParameterWrite (param : CondParam) (value : Word)
  /-- NOP (R161). -/
  | nop
  /-- UNDEFINED_CODE (R161): a command word with its three fields. -/
  | undefinedCode (code : BitVec 6) (lane : Lane) (imm : BitVec 9)
  /-- POINT (R150); the immediate and the address argument. -/
  | point (imm : BitVec 9) (addr : Word)
  /-- READ (R153); the immediate is the number of words. -/
  | read (imm : BitVec 9)
  /-- PATCH_OPEN (R155). -/
  | patchOpen
  /-- PATCH_CLOSE (R155). -/
  | patchClose
  /-- COMMIT_SET (R24); the immediate names the set. -/
  | commitSet (imm : BitVec 9)
  /-- FREE_SET (R28); the immediate names the set. -/
  | freeSet (imm : BitVec 9)
  /-- UNFREEZE_SET (R32); the immediate names the set. -/
  | unfreezeSet (imm : BitVec 9)
  /-- LANE_ENABLE (R114). -/
  | laneEnable (lane : Lane)
  /-- LANE_START (R115). -/
  | laneStart (lane : Lane)
  /-- LANE_STOP (R117). -/
  | laneStop (lane : Lane)
  /-- LANE_OFF (R118). -/
  | laneOff (lane : Lane)
  /-- ADAPT_WINDOW (R87); the window length argument. -/
  | adaptWindow (lane : Lane) (length : Word)
  /-- PROBE_START (R97); the length and amplitude arguments. -/
  | probeStart (lane : Lane) (length : Word) (amplitude : Word)
  /-- PROBE_STOP (R106). -/
  | probeStop (lane : Lane)
  /-- TRANSFER_START (R166); its two argument words. -/
  | transferStart (first : Word) (second : Word)
  /-- TRANSFER_ABORT (R175). -/
  | transferAbort
  /-- TRANSFER_STATUS (R176). -/
  | transferStatus
  /-- FETCH_NOTICES (R162); the immediate is the number of notices. -/
  | fetchNotices (imm : BitVec 9)
  /-- POLL (R181). -/
  | poll
  /-- COUNTERS_CLEAR (R183). -/
  | countersClear
  /-- PART_RESET (R163). -/
  | partReset
  /-- WORD_MOVEMENT (R169). -/
  | wordMovement
  /-- BLOCK_HEADER_APPEND (R171). -/
  | blockHeaderAppend
  /-- BLOCK_TRAILER_APPEND (R171). -/
  | blockTrailerAppend
  /-- SWEEP_EXAMINE (R173). -/
  | sweepExamine
  /-- WORD_DISTURBED (section 2.7): one stored place of a bank word flips, and perhaps a second.
  Places 0 to 15 are the word's data, places from 16 its check information (log entry 6, DEDUCED). -/
  | wordDisturbed (set : SetNo) (word : WordNo) (place : Nat) (second : Option Nat)
  deriving DecidableEq, Repr

end Sys2Proof
end

