-- ==== Sys2Proof/Decode.lean ====
section
/-! DEFINITION. The word layouts of the ports (R142, R143), the link check (R131), the three checks of
a downstream frame (R132), and `decodeTableWord`. The rows of spec/opcode_table.json give no bits. -/

namespace Sys2Proof

/-- The command a word spells by the bits the opcode table gives its rows. The table gives no row
any bits ("fields" is empty and "fixed" is absent in every row), so no word spells a command. -/
def decodeTableWord (_nbits _w : Nat) : Option Instr := none

/-- The other lane of lane L is lane 1 − L. -/
def Lane.other : Lane → Lane
  | .zero => .one
  | .one => .zero

/-- A lane's number. -/
def Lane.toNat : Lane → Nat
  | .zero => 0
  | .one => 1

/-- The lane a one-bit field names. -/
def Lane.ofBit (b : Bool) : Lane := if b then .one else .zero

/-- The one-bit field that names a lane. -/
def Lane.toBit : Lane → Bool
  | .zero => false
  | .one => true

/-- The set a number names: 0 to 47, or none. -/
def setOfNat (n : Nat) : Option SetNo := if h : n < 48 then some ⟨n, h⟩ else none

/-- A field that names a set holds NONE as 255 (R142). -/
def setField : Option SetNo → Nat
  | some n => n.val
  | none => 255

/-- A field that names a lane in a whole byte holds NONE as 255 (R142). -/
def laneField : Option Lane → Nat
  | some l => l.toNat
  | none => 255

/-- The servo modes (R142). -/
inductive ServoMode where
  | seek
  | settle
  | track
  | idle
  deriving DecidableEq, Repr

/-- Servo mode codes: 0 SEEK, 1 SETTLE, 2 TRACK, 3 IDLE (R142). -/
def ServoMode.ofField (b : BitVec 2) : ServoMode :=
  if b = 0 then .seek else if b = 1 then .settle else if b = 2 then .track else .idle

/-- The code of a servo mode (R142). -/
def ServoMode.toField : ServoMode → BitVec 2
  | .seek => 0
  | .settle => 1
  | .track => 2
  | .idle => 3

/-! ## The link check (R131) -/

/-- One input bit through the check register: the feedback is the register's 32768s place
exclusive-or the bit; the register doubles, and takes 4129 when the feedback is 1. -/
def crcBit (reg : Word) (bit : Bool) : Word :=
  if reg.msb != bit then (reg <<< 1) ^^^ 4129#16 else reg <<< 1

/-- A word through the check register, most significant place first. -/
def crcWord (reg w : Word) : Word :=
  [15, 14, 13, 12, 11, 10, 9, 8, 7, 6, 5, 4, 3, 2, 1, 0].foldl (fun r i => crcBit r (w.getLsbD i)) reg

/-- The check of a sequence of words: the register starts at 65535 (R131). -/
def linkCheck (words : List Word) : Word := words.foldl crcWord 65535#16

/-- The words of a frame with its check word appended (section 8.1). -/
def sealFrame (words : List Word) : List Word := words ++ [linkCheck words]

/-! ## Downstream frames (R132, R134, R136) -/

/-- The fields of a servo frame (R134, R142). -/
structure ServoFields where
  lane : Lane
  mode : ServoMode
  writeActive : Bool
  head : BitVec 4
  zone : BitVec 3
  wedge : Word
  pes : Word
  input : Word
  deriving DecidableEq, Repr

/-- The servo header's fields are read from their places; places 2 to 0 are ignored (R142). -/
def servoFields (header wedge pes input : Word) : ServoFields :=
  { lane := Lane.ofBit (header.getLsbD 13)
    mode := ServoMode.ofField (header.extractLsb' 11 2)
    writeActive := header.getLsbD 10
    head := header.extractLsb' 6 4
    zone := header.extractLsb' 3 3
    wedge := wedge
    pes := pes
    input := input }

/-- The header word of a servo frame with the given fields and unassigned places (R142). -/
def servoHeader (f : ServoFields) (spare : BitVec 3) : Word :=
  (1#2 ++ BitVec.ofBool f.lane.toBit ++ f.mode.toField ++ BitVec.ofBool f.writeActive ++ f.head ++ f.zone ++ spare : BitVec 16)

/-- The five words of a servo frame. -/
def servoWords (f : ServoFields) (spare : BitVec 3) : List Word :=
  sealFrame [servoHeader f spare, f.wedge, f.pes, f.input]

/-- The header word of a management frame: command count C, payload length N and unassigned places. -/
def managementHeader (c n : BitVec 4) (spare : BitVec 6) : Word :=
  (2#2 ++ spare ++ c ++ n : BitVec 16)

/-- The words of a management frame whose payload is the given words. -/
def managementWords (c : BitVec 4) (payload : List Word) (spare : BitVec 6) : List Word :=
  sealFrame (managementHeader c (BitVec.ofNat 4 payload.length) spare :: payload)

/-- The causes for which a downstream frame is discarded (R132). -/
inductive DiscardCause where
  | badCheck
  | undefinedKind
  | malformed
  deriving DecidableEq, Repr

/-- The LINK CHECK detail of a discard cause (R132). -/
def DiscardCause.detail : DiscardCause → Nat
  | .badCheck => 0
  | .undefinedKind => 1
  | .malformed => 2

/-- What the Link Interface makes of a downstream frame received in full (R130, R132). -/
inductive Received where
  | servo (fields : ServoFields)
  | management (commands data : List Word)
  | discarded (cause : DiscardCause)
  deriving DecidableEq, Repr

/-- The form check of a servo frame: exactly 5 words (R132); `body` is the frame less header and check. -/
def receiveServo (header : Word) (body : List Word) : Received :=
  match body with
  | [wedge, pes, input] => .servo (servoFields header wedge pes input)
  | _ => .discarded .malformed

/-- The form check of a management frame: N from 1 to 8, C at most 8, exactly N + 2 words (R132). The
first min(C, N) payload words are command words, the rest data words (R136). -/
def receiveManagement (header : Word) (body : List Word) : Received :=
  let n := (header.extractLsb' 0 4).toNat
  let c := (header.extractLsb' 4 4).toNat
  if 1 ≤ n ∧ n ≤ 8 ∧ c ≤ 8 ∧ body.length = n then .management (body.take c) (body.drop c)
  else .discarded .malformed

/-- The three checks of R132 in their order: link check, kind, form. -/
def receive (words : List Word) : Received :=
  match words with
  | header :: rest@(_ :: _) =>
    if rest.getLast? = some (linkCheck (header :: rest.dropLast)) then
      if header.extractLsb' 14 2 = 1#2 then receiveServo header rest.dropLast
      else if header.extractLsb' 14 2 = 2#2 then receiveManagement header rest.dropLast
      else .discarded .undefinedKind
    else .discarded .badCheck
  | _ => .discarded .badCheck

/-! ## Sensor frames (R140) -/

/-- The fields of a sensor frame (R140, R142). -/
structure SensorFields where
  seq : BitVec 4
  channel1 : Word
  channel2 : Word
  aux : Word
  deriving DecidableEq, Repr

/-- A sensor frame is taken only with exactly four words (R140). -/
def receiveSensor (words : List Word) : Option SensorFields :=
  match words with
  | [w0, w1, w2, w3] => some ⟨w0.extractLsb' 0 4, w1, w2, w3⟩
  | _ => none

/-! ## Command words (R142, R146) -/

/-- The fields of a command word. -/
structure CommandFields where
  code : BitVec 6
  lane : Lane
  imm : BitVec 9
  deriving DecidableEq, Repr

/-- A command word's code is in places 15 to 10, its lane in place 9, its immediate in 8 to 0 (R142). -/
def commandFields (w : Word) : CommandFields :=
  { code := w.extractLsb' 10 6, lane := Lane.ofBit (w.getLsbD 9), imm := w.extractLsb' 0 9 }

/-- A command word's value is code × 1024 + lane × 512 + immediate (R142). -/
def commandWord (code : BitVec 6) (lane : Lane) (imm : BitVec 9) : Word :=
  (code ++ BitVec.ofBool lane.toBit ++ imm : BitVec 16)

end Sys2Proof
end

