-- ==== Sys2Proof/Machine/State.lean ====
section
/-! DEFINITION. The state of the part as plain data, block by block (spec/00_scope.md, "Block
overview"), the reasons a step can stop, and the state after a power-on reset. -/

namespace Sys2Proof.Machine

/-- A fault. The spec describes no event that stops the part, so there is no fault to name: no
command ever answers one (safe). -/
inductive Fault where
  deriving DecidableEq, Repr

/-- A refusal. -/
inductive Refusal where
  /-- Raised by `exec` alone, for a command that has no meaning yet. Safe: the run stops. No arm of
  `exec` raises it, since every command has its meaning. -/
  | notModelled (mnemonic : String)
  deriving DecidableEq, Repr

/-! ## Reference Conditioner (chapter 1) -/

/-- The grade of a lane's reference (R11). -/
inductive RefStatus where
  | good
  | stale
  | lost
  deriving DecidableEq, Repr

/-- The conditioner parameters of the COND region (section 1.4). A polarity of `true` stands for −1. -/
structure CondParams where
  negative1 : Bool
  negative2 : Bool
  trim1 : Word
  trim2 : Word
  threshold1 : Word
  threshold2 : Word
  threshold3 : Word
  hysteresis : Nat
  startBand : Fin 4
  retain : Bool
  deriving DecidableEq, Repr

/-- The part-wide state of the Reference Conditioner (R9). `temperature` is `none` while unknown (R5);
`expectation` is `none` while cleared (R1). -/
structure Conditioner where
  params : CondParams
  baseline : Int
  sample : Word
  temperature : Option Word
  band : Fin 4
  expectation : Option (BitVec 4)
  deriving DecidableEq, Repr

/-- A lane's share of the Reference Conditioner (R20). Place 0 of the ring and of the sibling history
is the newest entry. -/
structure Reference where
  ring : Vector Word 64
  sibling : Vector Word 24
  fresh : Bool
  staleCount : Nat
  status : RefStatus
  settle : Nat
  deriving DecidableEq, Repr

/-! ## Coefficient Bank (chapter 2) -/

/-- The states of a set (section 2.3). -/
inductive SetState where
  | free
  | loading
  | ready
  | live
  | quarantined
  deriving DecidableEq, Repr

/-- The transfer hold of a set (R33). -/
inductive Hold where
  | none
  | source
  | destination
  deriving DecidableEq, Repr

/-- The record the bank keeps beside a set's words (section 2.2). -/
structure SetRecord where
  state : SetState
  frozen : Bool
  hold : Hold
  refCount : Nat
  owner : Option Lane
  deriving DecidableEq, Repr

/-- A stored word of the bank: the value last written, and the stored places, data or check, that the
world has flipped since, in rising order (section 2.7; log entry 6, DEDUCED). -/
structure Cell where
  value : Word
  flipped : List Nat
  deriving DecidableEq, Repr

/-- The Coefficient Bank. `words` lists, by BANK address in rising order, the words that differ from
a zero with valid check information, which is what an unlisted address holds (R39). -/
structure Bank where
  words : List (Nat × Cell)
  records : Vector SetRecord 48
  deriving DecidableEq, Repr

/-! ## Set Selector (chapter 3) -/

/-- How the current set was reached (R48). -/
inductive Route where
  | none
  | primary
  | fallback
  deriving DecidableEq, Repr

/-- A lane's selection state (R54). `map` lists, by MAP address in rising order, the entries that are
not NONE. -/
structure Selection where
  map : List (Nat × Option SetNo)
  fallback : Option SetNo
  band : Fin 4
  current : Option SetNo
  route : Route
  deriving DecidableEq, Repr

/-! ## Cancellation Filter and Adaptation Unit (chapters 4 and 5) -/

/-- The output status of a servo frame (section 4.1). -/
inductive OutStatus where
  | bypass
  | fresh
  | held
  | diag
  deriving DecidableEq, Repr

/-- A lane's filter state (R58, R70). -/
structure Filter where
  held : Word
  saturationRun : Nat
  deriving DecidableEq, Repr

/-- The adaptation modes (R84). -/
inductive AdaptMode where
  | off
  | free
  | window
  deriving DecidableEq, Repr

/-- A captured shadow: the set it was taken from and its 40 taps, w[0..31] then v[0..7] (R89). -/
structure Shadow where
  set : SetNo
  taps : List Word
  deriving DecidableEq, Repr

/-- A lane's adaptation state (R95). -/
structure Adaptation where
  mode : AdaptMode
  pesGate : Nat
  window : Nat
  shadow : Option Shadow
  divergence : Nat
  deriving DecidableEq, Repr

/-! ## Probe Unit (chapter 6) -/

/-- The states of a probe campaign (R96). -/
inductive CampaignState where
  | idle
  | running
  | done
  | aborted
  deriving DecidableEq, Repr

/-- A lane's campaign record (R96). `signs` is the sign history, newest first, `true` for +;
`correlations` are C[0] to C[15]. -/
structure Campaign where
  state : CampaignState
  requested : Nat
  done : Nat
  amplitude : Nat
  generator : Nat
  signs : List Bool
  correlations : Vector Int 16
  deriving DecidableEq, Repr

/-! ## Lane Controller (chapter 7) -/

/-- The lane states (R112). -/
inductive LaneMode where
  | off
  | standby
  | priming
  | running
  | fault
  deriving DecidableEq, Repr

/-- A lane's Lane Controller state (R129). `expectation` is `none` while cleared (R120). -/
structure Control where
  mode : LaneMode
  alignment : Nat
  wedgesPerRev : Nat
  seekFeedForward : Bool
  staleLimit : Nat
  holdLength : Nat
  expectation : Option Nat
  fill : Nat
  deriving DecidableEq, Repr

/-- A lane's counters (section 11.5). -/
structure LaneCounters where
  freshFrame : Nat
  heldFrame : Nat
  bypassFrame : Nat
  correctionClamp : Nat
  commandSaturation : Nat
  adaptedFrame : Nat
  tapClamp : Nat
  wedgeGap : Nat
  wedgeSlip : Nat
  laneFault : Nat
  deriving DecidableEq, Repr

/-- Everything the part keeps for one lane, grouped by the block that owns it. -/
structure LaneState where
  reference : Reference
  selection : Selection
  filter : Filter
  adapt : Adaptation
  campaign : Campaign
  control : Control
  counters : LaneCounters
  deriving DecidableEq, Repr

/-! ## Command Decoder and Response Queue (chapter 9) -/

/-- The regions of the management pointer (R149). -/
inductive Region where
  | bank
  | map
  | lane
  | cond
  | results
  | counters
  | sets
  | lanes
  deriving DecidableEq, Repr

/-- A pointer: a region, a lane and an address (R149). -/
structure Pointer where
  region : Region
  lane : Lane
  addr : Nat
  deriving DecidableEq, Repr

/-- A pending command and the arguments gathered so far (R147). -/
structure PendingCommand where
  fields : CommandFields
  args : List Word
  deriving DecidableEq, Repr

/-- The Command Decoder (R164). `origin` is the patch origin, `none` while no patch window is open. -/
structure Decoder where
  pointer : Pointer
  origin : Option Pointer
  command : Option PendingCommand
  age : Nat
  deriving DecidableEq, Repr

/-- The two sources of the words of the Response Queue (R156). -/
inductive Source where
  | command
  | transfer
  deriving DecidableEq, Repr

/-- A word standing in the Response Queue, with its source. -/
structure QueuedWord where
  source : Source
  word : Word
  deriving DecidableEq, Repr

/-! ## Transfer Engine (chapter 10) -/

/-- The transfer modes. -/
inductive TransferMode where
  | copy
  | dump
  | sweep
  deriving DecidableEq, Repr

/-- The states of the transfer record (R165). -/
inductive TransferState where
  | idle
  | active
  | waiting
  | done
  deriving DecidableEq, Repr

/-- The outcomes of a transfer (R165). -/
inductive TransferOutcome where
  | complete
  | dataError
  | timeout
  | notReady
  | aborted
  | endOfBank
  deriving DecidableEq, Repr

/-- What the engine does next (R171, R173): examine its current set, append the block's header, issue
set words, or append the block's trailer. -/
inductive TransferPhase where
  | examine
  | header
  | words
  | trailer
  deriving DecidableEq, Repr

/-- The Transfer Engine: the transfer record (R165), its two hidden values `waitCount` and
`setBadWords`, and what the rules imply it keeps beside them: the destination of a COPY, what it does
next, and how many words the block under way announced (log entry 7, DEDUCED). -/
structure Transfer where
  state : TransferState
  mode : TransferMode
  skipBad : Bool
  waitBusy : Bool
  outcome : Option TransferOutcome
  remaining : Nat
  current : Option SetNo
  word : Nat
  badWords : Nat
  waitCount : Nat
  setBadWords : Nat
  destination : Option SetNo
  phase : TransferPhase
  announced : Nat
  deriving DecidableEq, Repr

/-! ## Notice Queue and counters (chapter 11) -/

/-- The notice kinds (section 11.1). -/
inductive NoticeKind where
  | setQuarantined
  | storageCorrected
  | diverged
  | laneFault
  | wedgeSlip
  | referenceLost
  | sensorGap
  | sensorClip
  | windowDone
  | probeDone
  | probeAborted
  | transferDone
  | argumentExpired
  | linkCheck
  deriving DecidableEq, Repr

/-- A notice record. -/
structure Notice where
  kind : NoticeKind
  lane : Option Lane
  detail : Nat
  repeats : Nat
  deriving DecidableEq, Repr

/-- The Notice Queue: records oldest first, and the lost count (R178, R179). -/
structure NoticeQueue where
  records : List Notice
  lost : Nat
  deriving DecidableEq, Repr

/-- The part-wide counters (COUNTERS addresses 0 to 5). -/
structure PartCounters where
  sensorGap : Nat
  sensorClip : Nat
  storageCorrection : Nat
  storageError : Nat
  linkCheck : Nat
  turnedAway : Nat
  deriving DecidableEq, Repr

/-! ## Link Interface and ports (chapter 8) -/

/-- The Link Interface: the downstream frame under reception, and servo frame time, the number of
valid servo frames received (spec/00_scope.md, "Time"). -/
structure Link where
  receiving : List Word
  frameTime : Nat
  deriving DecidableEq, Repr

/-- The frames begun on the two outgoing ports, oldest first, each as its words on the wire, and for each port
whether its last frame was begun since the last power-on reset, so that words of it may still be leaving
(R141; log entry 8, DESIGN CHOICE). -/
structure Ports where
  upstream : List (List Word)
  drive : List (List Word)
  upstreamBegun : Bool
  driveBegun : Bool
  deriving DecidableEq, Repr

/-- The state of the part, and the queue of the commands that wait. -/
structure State where
  pending : List Instr
  cond : Conditioner
  lane0 : LaneState
  lane1 : LaneState
  bank : Bank
  decoder : Decoder
  responses : List QueuedWord
  transfer : Transfer
  notices : NoticeQueue
  counters : PartCounters
  link : Link
  ports : Ports
  deriving DecidableEq, Repr

/-! ## The state after a power-on reset -/

/-- The defaults of the conditioner parameters (section 1.4). -/
def CondParams.default : CondParams :=
  { negative1 := false, negative2 := false, trim1 := 16384#16, trim2 := 16384#16
    threshold1 := 480#16, threshold2 := 640#16, threshold3 := 800#16
    hysteresis := 32, startBand := 1, retain := true }

/-- The conditioner after a power-on reset (R9). -/
def Conditioner.reset : Conditioner :=
  { params := CondParams.default, baseline := 0, sample := 0, temperature := none
    band := CondParams.default.startBand, expectation := none }

/-- A lane's reference state after either reset (R20). -/
def Reference.reset : Reference :=
  { ring := Vector.replicate 64 0, sibling := Vector.replicate 24 0, fresh := false
    staleCount := 0, status := .good, settle := 0 }

/-- A set's record after a power-on reset (R39). -/
def SetRecord.reset : SetRecord :=
  { state := .free, frozen := false, hold := .none, refCount := 0, owner := none }

/-- A zero word with valid check information: every bank word after a power-on reset (R39). -/
def Cell.zero : Cell := { value := 0, flipped := [] }

/-- The bank after a power-on reset (R39). -/
def Bank.reset : Bank := { words := [], records := Vector.replicate 48 SetRecord.reset }

/-- A lane's selection state after a power-on reset (R54). -/
def Selection.reset : Selection :=
  { map := [], fallback := none, band := CondParams.default.startBand, current := none, route := .none }

/-- A lane's filter state after either reset (R74). -/
def Filter.reset : Filter := { held := 0, saturationRun := 0 }

/-- A lane's adaptation state after a power-on reset (R95). -/
def Adaptation.reset : Adaptation :=
  { mode := .off, pesGate := 4096, window := 0, shadow := none, divergence := 0 }

/-- A lane's campaign record after a power-on reset (R111). -/
def Campaign.reset : Campaign :=
  { state := .idle, requested := 0, done := 0, amplitude := 0, generator := 127
    signs := [], correlations := Vector.replicate 16 0 }

/-- A lane's Lane Controller state after a power-on reset (R129, section 7.4). -/
def Control.reset : Control :=
  { mode := .off, alignment := 2, wedgesPerRev := 504, seekFeedForward := false
    staleLimit := 4, holdLength := 16, expectation := none, fill := 0 }

/-- A lane's counters after either reset, or COUNTERS CLEAR (R182, R183). -/
def LaneCounters.zero : LaneCounters :=
  { freshFrame := 0, heldFrame := 0, bypassFrame := 0, correctionClamp := 0, commandSaturation := 0
    adaptedFrame := 0, tapClamp := 0, wedgeGap := 0, wedgeSlip := 0, laneFault := 0 }

/-- The part-wide counters after either reset, or COUNTERS CLEAR (R182, R183). -/
def PartCounters.zero : PartCounters :=
  { sensorGap := 0, sensorClip := 0, storageCorrection := 0, storageError := 0, linkCheck := 0, turnedAway := 0 }

/-- A lane after a power-on reset. -/
def LaneState.reset : LaneState :=
  { reference := Reference.reset, selection := Selection.reset, filter := Filter.reset
    adapt := Adaptation.reset, campaign := Campaign.reset, control := Control.reset
    counters := LaneCounters.zero }

/-- The decoder after either reset (R164). -/
def Decoder.reset : Decoder :=
  { pointer := { region := .bank, lane := .zero, addr := 0 }, origin := none, command := none, age := 0 }

/-- The Transfer Engine after either reset (R165, R177). -/
def Transfer.reset : Transfer :=
  { state := .idle, mode := .copy, skipBad := false, waitBusy := false, outcome := none
    remaining := 0, current := none, word := 0, badWords := 0, waitCount := 0, setBadWords := 0
    destination := none, phase := .examine, announced := 0 }

/-- The Notice Queue after either reset (R179). -/
def NoticeQueue.empty : NoticeQueue := { records := [], lost := 0 }

/-- The part right after a power-on reset, with no command waiting. -/
def State.reset : State :=
  { pending := []
    cond := Conditioner.reset
    lane0 := LaneState.reset
    lane1 := LaneState.reset
    bank := Bank.reset
    decoder := Decoder.reset
    responses := []
    transfer := Transfer.reset
    notices := NoticeQueue.empty
    counters := PartCounters.zero
    link := { receiving := [], frameTime := 0 }
    ports := { upstream := [], drive := [], upstreamBegun := false, driveBegun := false } }

end Sys2Proof.Machine
end

