-- ==== Sys2Proof/Machine/Operands.lean ====
section
/-! DEFINITION. The part's arithmetic on operands: fixed-point rounding, saturation and clamping
(spec/00_scope.md, "Conventions"), and the forms in which values are read from and sent as words. -/

namespace Sys2Proof.Machine

/-- Sat16: clamping to −32768..32767. -/
def sat16 (x : Int) : Word := BitVec.ofInt 16 (max (-32768) (min x 32767))

/-- Clamped to ±K. -/
def clampSym (k x : Int) : Int := max (-k) (min x k)

/-- The nearest value within lo..hi. -/
def clampNat (lo hi x : Nat) : Nat := max lo (min x hi)

/-- The nearest value within lo..hi, on signed values. -/
def clampInt (lo hi x : Int) : Int := max lo (min x hi)

/-- Rounding half up by s places, s at least 1: add 2^(s−1), then take the floor of the division by
2^s (the divisor is positive, so Lean's integer division takes the floor). -/
def roundHalfUp (x : Int) (s : Nat) : Int := (x + 2 ^ (s - 1)) / 2 ^ s

/-- Division with truncation toward zero. -/
def truncDiv (x d : Int) : Int := x.tdiv d

/-- A signed-16 word of a value within the signed-16 range. -/
def signedWord (x : Int) : Word := BitVec.ofInt 16 x

/-- A word of an unsigned value. -/
def natWord (n : Nat) : Word := BitVec.ofNat 16 n

/-- A rise of a 16-bit counter: a counter that would pass 65535 stays there (R182). -/
def raised (c k : Nat) : Nat := min Config.counterMax (c + k)

/-- The place of entry `i` in a history of words, 0 beyond its end. -/
def entryAt {n : Nat} (v : Vector Word n) (i : Nat) : Word := v.toList.getD i 0

/-- A push into a history: the new entry at place 0, every entry one place back, the last one
discarded (sections 1.7 and 1.8). -/
def pushEntry {n : Nat} (v : Vector Word n) (x : Word) : Vector Word n :=
  Vector.ofFn fun i => if i.val = 0 then x else entryAt v (i.val - 1)

/-! ## Codes of the fields that the part sends (R142, R143, R109, section 7.5) -/

/-- Output status codes (R142). -/
def OutStatus.code : OutStatus → Nat
  | .bypass => 0
  | .fresh => 1
  | .held => 2
  | .diag => 3

/-- Lane state codes (LANES address 0). -/
def LaneMode.code : LaneMode → Nat
  | .off => 0
  | .standby => 1
  | .priming => 2
  | .running => 3
  | .fault => 4

/-- Route codes (LANES address 2). -/
def Route.code : Route → Nat
  | .none => 0
  | .primary => 1
  | .fallback => 2

/-- Reference status codes (LANES address 3). -/
def RefStatus.code : RefStatus → Nat
  | .good => 0
  | .stale => 1
  | .lost => 2

/-- Set state codes (set-status record, R143). -/
def SetState.code : SetState → Nat
  | .free => 0
  | .loading => 1
  | .ready => 2
  | .live => 3
  | .quarantined => 4

/-- Hold codes (set-status record, R143). -/
def Hold.code : Hold → Nat
  | .none => 0
  | .source => 1
  | .destination => 2

/-- Campaign state codes (RESULTS address 32). -/
def CampaignState.code : CampaignState → Nat
  | .idle => 0
  | .running => 1
  | .done => 2
  | .aborted => 3

/-- Adaptation mode codes (R84). -/
def AdaptMode.code : AdaptMode → Nat
  | .off => 0
  | .free => 1
  | .window => 2

/-- Transfer mode codes (R142). -/
def TransferMode.code : TransferMode → Nat
  | .copy => 0
  | .dump => 1
  | .sweep => 2

/-- Transfer state codes (R143). -/
def TransferState.code : TransferState → Nat
  | .idle => 0
  | .active => 1
  | .waiting => 2
  | .done => 3

/-- Transfer outcome codes (R143). -/
def TransferOutcome.code : TransferOutcome → Nat
  | .complete => 0
  | .dataError => 1
  | .timeout => 2
  | .notReady => 3
  | .aborted => 4
  | .endOfBank => 5

/-- Notice kind codes (R143). -/
def NoticeKind.code : NoticeKind → Nat
  | .setQuarantined => 1
  | .storageCorrected => 2
  | .diverged => 3
  | .laneFault => 4
  | .wedgeSlip => 5
  | .referenceLost => 6
  | .sensorGap => 7
  | .sensorClip => 8
  | .windowDone => 9
  | .probeDone => 10
  | .probeAborted => 11
  | .transferDone => 12
  | .argumentExpired => 13
  | .linkCheck => 14

/-- The region codes of POINT (R142). -/
def Region.ofCode (c : Nat) : Region :=
  match c with
  | 0 => .bank
  | 1 => .map
  | 2 => .lane
  | 3 => .cond
  | 4 => .results
  | 5 => .counters
  | 6 => .sets
  | _ => .lanes

/-- The results of a command (R143). CONFLICT is placed in no header: it is the reason for which a map
or fallback word is refused (R159). -/
inductive Result where
  | ok
  | state
  | range
  | full
  | busy
  | conflict
  | unknown
  | dataError
  deriving DecidableEq, Repr

/-- Result codes (R143). -/
def Result.code : Result → Nat
  | .ok => 0
  | .state => 1
  | .range => 2
  | .full => 3
  | .busy => 4
  | .conflict => 5
  | .unknown => 6
  | .dataError => 7

/-- A command response header (type 0, R143). -/
def responseHeader (code : BitVec 6) (result : Result) (count : Nat) : Word :=
  natWord (code.toNat * 256 + result.code * 32 + count)

/-- A data report header (type 1, R143). -/
def dataReportHeader (refused clamped : Nat) : Word := natWord (16384 + refused * 16 + clamped)

/-- A transfer data header (type 2, R143). -/
def transferHeader (n : SetNo) (count : Nat) : Word := natWord (32768 + n.val * 256 + count)

/-- A transfer trailer (type 3, R143). -/
def transferTrailer (n : SetNo) (bad : Nat) : Word := natWord (49152 + n.val * 256 + bad)

/-- The two words of a notice record (R143). -/
def Notice.words (r : Notice) : List Word :=
  [natWord (laneField r.lane * 256 + r.detail), natWord (r.kind.code * 256 + r.repeats)]

/-- The set-status record of a set (R143): condition, frozen flag, owner lane and reference count. The
owner field is 0 while the count is 0. -/
def SetRecord.word (r : SetRecord) : Word :=
  natWord ((r.state.code + 5 * r.hold.code) * 4096 + (if r.frozen then 2048 else 0)
    + (if r.refCount = 0 then 0 else if r.owner = some .one then 1024 else 0) + r.refCount)

/-- The mode word of the transfer record, as in TRANSFER START's first argument (R143). -/
def Transfer.modeWord (t : Transfer) : Nat :=
  t.mode.code + (if t.skipBad then 4 else 0) + (if t.waitBusy then 8 else 0)

/-- The seven words of the transfer record (R143, R176). -/
def Transfer.recordWords (t : Transfer) : List Word :=
  [natWord t.state.code, natWord t.modeWord,
   natWord (match t.outcome with
     | some o => o.code
     | none => 255),
   natWord t.remaining, natWord (setField t.current), natWord t.word, natWord t.badWords]

end Sys2Proof.Machine
end

