-- ==== Sys2Proof/Machine/Flags.lean ====
section
/-! DEFINITION. Every flag, grade and status mark the rules compute from a value: the grade of a
reference, a clipped frame, saturation, a finding of the word check, the Notice Queue's attention and
poll flags, and the transfer marks of a return frame. -/

namespace Sys2Proof.Machine

/-- The reference status of a stale count under SL and HL (R11). -/
def gradeReference (count staleLimit holdLength : Nat) : RefStatus :=
  if count < staleLimit then .good
  else if count < staleLimit + holdLength then .stale
  else .lost

/-- A channel is at a limit of the converter (R4). -/
def atLimit (a : Word) : Bool := a.toInt == -32768 || a.toInt == 32767

/-- The SENSOR CLIP detail of a frame: 1 channel 1, 2 channel 2, 3 both, 0 when not clipped (R4). -/
def clipDetail (a1 a2 : Word) : Nat := (if atLimit a1 then 1 else 0) + (if atLimit a2 then 2 else 0)

/-- A sum is saturated when it lies outside the signed-16 range (R65). -/
def saturated (sum : Int) : Bool := decide (sum < -32768) || decide (32767 < sum)

/-- What a checked read finds in a word (section 2.7). -/
inductive Finding where
  | clean (value : Word)
  | single (value : Word)
  | double
  deriving DecidableEq, Repr

/-- The finding of a read: no flipped place is clean, one is a single error whose corrected value is
the value last written, two are a double error. Three or more are found as a double error too
(log entry 6, DEDUCED). -/
def Cell.finding (c : Cell) : Finding :=
  match c.flipped with
  | [] => .clean c.value
  | [_] => .single c.value
  | _ :: _ :: _ => .double

/-- The attention flag: the Notice Queue holds at least one record (R139). -/
def NoticeQueue.attention (q : NoticeQueue) : Bool := !q.records.isEmpty

/-- The sources that POLL reports (section 11.4). -/
inductive PollSource where
  | lane0
  | lane1
  | bank
  | transfer
  | link
  deriving DecidableEq, Repr

/-- A record comes from a source (the source column of section 11.1). -/
def Notice.isFrom (r : Notice) (src : PollSource) : Bool :=
  match r.kind, src with
  | .setQuarantined, .bank => true
  | .storageCorrected, .bank => true
  | .sensorGap, .lane0 => true
  | .sensorGap, .lane1 => true
  | .sensorClip, .lane0 => true
  | .sensorClip, .lane1 => true
  | .transferDone, .transfer => true
  | .argumentExpired, .link => true
  | .linkCheck, .link => true
  | _, .lane0 => r.lane == some .zero
  | _, .lane1 => r.lane == some .one
  | _, _ => false

/-- A source's flag of the attention summary (R181). -/
def NoticeQueue.pollFlag (q : NoticeQueue) (src : PollSource) : Bool := q.records.any (·.isFrom src)

/-- The attention summary that POLL returns (R181). -/
def NoticeQueue.summary (q : NoticeQueue) : Word :=
  natWord ((if q.pollFlag .link then 4096 else 0) + (if q.pollFlag .transfer then 2048 else 0)
    + (if q.pollFlag .bank then 1024 else 0) + (if q.pollFlag .lane1 then 512 else 0)
    + (if q.pollFlag .lane0 then 256 else 0) + q.lost)

/-- The transfer marks of a payload: place m is 1 when word m is a transfer word (R142, R156). -/
def transferMarks : List QueuedWord → Nat
  | [] => 0
  | w :: ws => (if w.source = .transfer then 1 else 0) + 2 * transferMarks ws

end Sys2Proof.Machine
end

