-- ==== Sys2Proof/Machine/Ops.lean ====
section
/-! DEFINITION. The named operations every meaning is written over: the addressed stores, the lanes,
the sets, notices, counters, the checked read of a bank word with all that follows a double error
(R35, R36), a lane's departure from RUNNING (R113), the end of a transfer (R174) and the Response
Queue. -/

namespace Sys2Proof.Machine

/-! ## Addressed stores -/

/-- The item an addressed store holds at an address; `d` is what an unlisted address holds. -/
def Memory.read {α : Type} (d : α) : List (Nat × α) → Nat → α
  | [], _ => d
  | (k, v) :: rest, a => if a = k then v else if a < k then d else Memory.read d rest a

/-- A write into an addressed store, in its one canonical form: addresses strictly rising, and no
entry equal to what an unlisted address holds. -/
def Memory.write {α : Type} [DecidableEq α] (d : α) : List (Nat × α) → Nat → α → List (Nat × α)
  | [], a, v => if v = d then [] else [(a, v)]
  | (k, w) :: rest, a, v =>
    if a < k then (if v = d then (k, w) :: rest else (a, v) :: (k, w) :: rest)
    else if a = k then (if v = d then rest else (a, v) :: rest)
    else (k, w) :: Memory.write d rest a v

/-- The canonical form of an addressed store. -/
def Memory.wf {α : Type} [DecidableEq α] (d : α) : List (Nat × α) → Bool
  | [] => true
  | (k, v) :: rest => decide (v ≠ d) && rest.all (fun e => decide (k < e.1)) && Memory.wf d rest

/-! ## Lanes -/

/-- What the part keeps for a lane. -/
def State.lane (s : State) : Lane → LaneState
  | .zero => s.lane0
  | .one => s.lane1

/-- Replace what the part keeps for a lane. -/
def State.setLane (s : State) (l : Lane) (x : LaneState) : State :=
  { s with
    lane0 := match l with
      | .zero => x
      | .one => s.lane0
    lane1 := match l with
      | .zero => s.lane1
      | .one => x }

/-- Change a lane's share of the Reference Conditioner. -/
def State.onReference (s : State) (l : Lane) (f : Reference → Reference) : State :=
  s.setLane l { s.lane l with reference := f (s.lane l).reference }

/-- Change a lane's selection state. -/
def State.onSelection (s : State) (l : Lane) (f : Selection → Selection) : State :=
  s.setLane l { s.lane l with selection := f (s.lane l).selection }

/-- Change a lane's filter state. -/
def State.onFilter (s : State) (l : Lane) (f : Filter → Filter) : State :=
  s.setLane l { s.lane l with filter := f (s.lane l).filter }

/-- Change a lane's adaptation state. -/
def State.onAdapt (s : State) (l : Lane) (f : Adaptation → Adaptation) : State :=
  s.setLane l { s.lane l with adapt := f (s.lane l).adapt }

/-- Change a lane's campaign record. -/
def State.onCampaign (s : State) (l : Lane) (f : Campaign → Campaign) : State :=
  s.setLane l { s.lane l with campaign := f (s.lane l).campaign }

/-- Change a lane's Lane Controller state. -/
def State.onControl (s : State) (l : Lane) (f : Control → Control) : State :=
  s.setLane l { s.lane l with control := f (s.lane l).control }

/-- Change a lane's counters. -/
def State.onCounters (s : State) (l : Lane) (f : LaneCounters → LaneCounters) : State :=
  s.setLane l { s.lane l with counters := f (s.lane l).counters }

/-! ## Sets -/

/-- The record of a set. -/
def State.record (s : State) (n : SetNo) : SetRecord := s.bank.records[n.val]

/-- Change the record of a set. -/
def State.onRecord (s : State) (n : SetNo) (f : SetRecord → SetRecord) : State :=
  { s with bank := { s.bank with records := s.bank.records.set n.val (f s.bank.records[n.val]) } }

/-- Make a set's state the given one. -/
def State.setSetState (s : State) (n : SetNo) (st : SetState) : State :=
  s.onRecord n fun r => { r with state := st }

/-- Word `w` of set `n` is at BANK address n × 64 + w (R21). -/
def wordAddr (n : SetNo) (w : Nat) : Nat := n.val * Config.setStride + w

/-- The stored word at word `w` of set `n`. -/
def State.cell (s : State) (n : SetNo) (w : Nat) : Cell := Memory.read Cell.zero s.bank.words (wordAddr n w)

/-- Replace the stored word at word `w` of set `n`. -/
def State.putCell (s : State) (n : SetNo) (w : Nat) (c : Cell) : State :=
  { s with bank := { s.bank with words := Memory.write Cell.zero s.bank.words (wordAddr n w) c } }

/-- A write of a bank word replaces its whole value and its check information (R21). -/
def State.writeWord (s : State) (n : SetNo) (w : Nat) (v : Word) : State :=
  s.putCell n w { value := v, flipped := [] }

/-- Writes of consecutive words of a set, from word `w` on. -/
def State.writeWords (s : State) (n : SetNo) (w : Nat) : List Word → State
  | [] => s
  | v :: vs => (s.writeWord n w v).writeWords n (w + 1) vs

/-! ## Notices (R178, R179) -/

/-- Two notices are equal when kind, lane and detail all are. -/
def Notice.matches (r : Notice) (kind : NoticeKind) (lane : Option Lane) (detail : Nat) : Bool :=
  decide (r.kind = kind) && decide (r.lane = lane) && decide (r.detail = detail)

/-- A merge raises the matched record's repeat count, up to 255 (R178). -/
def Notice.merged (r : Notice) : Notice := { r with repeats := min Config.repeatMax (r.repeats + 1) }

/-- A notice reaches the queue: it merges into an equal record, or is appended while the queue holds
fewer than 16 records (R178), or is dropped and counted as lost (R179). -/
def NoticeQueue.add (q : NoticeQueue) (kind : NoticeKind) (lane : Option Lane) (detail : Nat) : NoticeQueue :=
  if q.records.any (·.matches kind lane detail) then
    { q with records := q.records.map fun r => if r.matches kind lane detail then r.merged else r }
  else if q.records.length < Config.noticeRoom then
    { q with records := q.records ++ [{ kind := kind, lane := lane, detail := detail, repeats := 1 }] }
  else { q with lost := min Config.repeatMax (q.lost + 1) }

/-- A block queues a notice. -/
def State.notify (s : State) (kind : NoticeKind) (lane : Option Lane) (detail : Nat) : State :=
  { s with notices := s.notices.add kind lane detail }

/-! ## The end of a transfer and the loss of a current set -/

/-- Every transfer hold returns to NONE. The Transfer Engine is the one block that sets holds and it
runs one transfer at a time, so these are the holds that the transfer had set (R33, R174; log entry 13, DEDUCED). -/
def State.releaseHolds (s : State) : State :=
  { s with bank := { s.bank with records := s.bank.records.map fun r => { r with hold := .none } } }

/-- A header word brought into its range at a commit (R25); words 7 and above 9 are not header fields
with a range. -/
def clampHeader (w : Nat) (v : Word) : Word :=
  match w with
  | 0 => signedWord (clampInt 0 32 v.toInt)
  | 1 => signedWord (clampInt 0 8 v.toInt)
  | 2 => signedWord (clampInt 0 15 v.toInt)
  | 3 => signedWord (clampInt 0 32767 v.toInt)
  | 4 => signedWord (clampInt 0 15 v.toInt)
  | 5 => signedWord (clampInt 0 15 v.toInt)
  | 6 => signedWord (clampInt 0 15 v.toInt)
  | 8 => signedWord (clampInt 0 32767 v.toInt)
  | 9 => signedWord (clampInt 1 32767 v.toInt)
  | _ => v

/-- A set word after the commit clamping: a header word in its range, a tap within ±WL, with WL as
clamped (R25). -/
def commitClamp (limit : Word) (w : Nat) (v : Word) : Word :=
  if w < Config.firstTap then clampHeader w v
  else signedWord (clampSym (clampHeader 8 limit).toInt v.toInt)

/-- The commit clamping of a set's stored words, written back (R25). -/
def State.clampSet (s : State) (n : SetNo) : State :=
  s.writeWords n 0 ((List.range Config.setWords).map fun w => commitClamp (s.cell n 8).value w (s.cell n w).value)

/-- A COPY destination that has received its 50 words: clamped, unfrozen and READY (R29, R174). -/
def State.completeCopy (s : State) (d : SetNo) : State :=
  (s.clampSet d).onRecord d fun r => { r with state := .ready, frozen := false }

/-- The bank's part of a COPY that ends COMPLETE (R174, step 2). -/
def State.finishCopy (s : State) (outcome : TransferOutcome) : State :=
  match s.transfer.mode, outcome, s.transfer.destination with
  | .copy, .complete, some d => s.completeCopy d
  | _, _, _ => s

/-- A transfer ends with an outcome: holds released, a completed COPY finished, the record DONE with its
outcome, TRANSFER DONE queued (R174). -/
def State.endTransfer (s : State) (outcome : TransferOutcome) : State :=
  let s1 := s.releaseHolds.finishCopy outcome
  ({ s1 with transfer := { s1.transfer with state := .done, outcome := some outcome } }).notify
    .transferDone none outcome.code

/-- A lane comes to have no current set: no route, held correction 0, shadow discarded, divergence
count 0 (R51, R58, R90). -/
def State.dropCurrent (s : State) (l : Lane) : State :=
  ((s.onSelection l fun x => { x with current := none, route := .none }).onFilter l
    fun x => { x with held := 0 }).onAdapt l fun x => { x with shadow := none, divergence := 0 }

/-- A lane loses the named set if it is the lane's current set. -/
def State.dropCurrentIf (s : State) (n : SetNo) (l : Lane) : State :=
  if (s.lane l).selection.current = some n then s.dropCurrent l else s

/-- A waiting transfer learns that its source is QUARANTINED: a DUMP becomes ACTIVE, a COPY ends
NOT READY (R168). The change comes with the failing read itself, so a COPY's TRANSFER DONE is queued ahead of the
notices of the words that a COMMIT or READ goes on to read; no rule orders them (log entry 12, DEDUCED). -/
def State.sourceQuarantined (s : State) (n : SetNo) : State :=
  if s.transfer.state = .waiting ∧ s.transfer.current = some n then
    if s.transfer.mode = .copy then s.endTransfer .notReady
    else { s with transfer := { s.transfer with state := .active } }
  else s

/-- A waiting transfer learns that its source has become READY (R168). -/
def State.sourceReady (s : State) (n : SetNo) : State :=
  if s.transfer.state = .waiting ∧ s.transfer.current = some n then
    { s with transfer := { s.transfer with state := .active } }
  else s

/-- A set becomes QUARANTINED: the notice is queued, a lane whose current set it was loses it, and a
transfer waiting on it learns of it, its notice after the set's (R36, R51, R168; log entry 12, DEDUCED). -/
def State.quarantine (s : State) (n : SetNo) : State :=
  (((s.setSetState n .quarantined).notify .setQuarantined none n.val).dropCurrentIf n .zero
    |>.dropCurrentIf n .one).sourceQuarantined n

/-! ## The checked read of a bank word (R35, R36) -/

/-- A single error: the corrected value is written back, counted and reported (R35). -/
def State.correctWord (s : State) (n : SetNo) (w : Nat) (v : Word) : State :=
  let s1 := s.writeWord n w v
  ({ s1 with counters := { s1.counters with storageCorrection := raised s1.counters.storageCorrection 1 } }).notify
    .storageCorrected none n.val

/-- A double error: counted; a LOADING, READY or LIVE set is quarantined, a QUARANTINED set stays so and
is reported again, a FREE set is left as it is (R36). -/
def State.doubleError (s : State) (n : SetNo) : State :=
  let s1 := { s with counters := { s.counters with storageError := raised s.counters.storageError 1 } }
  match (s.record n).state with
  | .free => s1
  | .quarantined => s1.notify .setQuarantined none n.val
  | _ => s1.quarantine n

/-- A checked read of one word: the state it leaves, and the value read unless a double error was found. -/
def State.readWord (s : State) (n : SetNo) (w : Nat) : State × Option Word :=
  match (s.cell n w).finding with
  | .clean v => (s, some v)
  | .single v => (s.correctWord n w v, some v)
  | .double => (s.doubleError n, none)

/-- Checked reads of words of a set in order, stopping at the first double error (R61, R76, R89). -/
def State.readUntilDouble (s : State) (n : SetNo) : List Nat → State × Option (List Word)
  | [] => (s, some [])
  | w :: ws =>
    match s.readWord n w with
    | (s1, none) => (s1, none)
    | (s1, some v) =>
      match s1.readUntilDouble n ws with
      | (s2, none) => (s2, none)
      | (s2, some vs) => (s2, some (v :: vs))

/-- Checked reads of words of a set in order, going on past double errors (R24, R154). -/
def State.readAll (s : State) (n : SetNo) : List Nat → State × List (Option Word)
  | [] => (s, [])
  | w :: ws =>
    let (s1, v) := s.readWord n w
    let (s2, vs) := s1.readAll n ws
    (s2, v :: vs)

/-! ## A lane's departure from RUNNING (R113) -/

/-- A lane's current set, if LIVE, becomes READY, and the lane has no current set (R27, R52). -/
def State.releaseCurrent (s : State) (l : Lane) : State :=
  let s1 : State :=
    match (s.lane l).selection.current with
    | some n => if (s.record n).state = .live then s.setSetState n .ready else s
    | none => s
  s1.dropCurrent l

/-- An open adaptation window is cancelled (R88). -/
def State.cancelWindow (s : State) (l : Lane) : State :=
  if 0 < (s.lane l).adapt.window then
    (s.onAdapt l fun x => { x with window := 0 }).notify .windowDone (some l) 1
  else s

/-- A RUNNING campaign is aborted, with the detail that names the cause (R106, R107). -/
def State.abortCampaign (s : State) (l : Lane) (detail : Nat) : State :=
  if (s.lane l).campaign.state = .running then
    (s.onCampaign l fun x => { x with state := .aborted }).notify .probeAborted (some l) detail
  else s

/-- The consequences of leaving RUNNING, the notice of the cause apart: current set released, held
correction and saturation run 0, shadow discarded, window closed, campaign aborted (R113). The lane
then takes the state its cause gives. -/
def State.leaveRunning (s : State) (l : Lane) (detail : Nat) (next : LaneMode) : State :=
  ((((s.releaseCurrent l).onFilter l fun x => { x with saturationRun := 0 }).cancelWindow l).abortCampaign
    l detail).onControl l fun x => { x with mode := next }

/-! ## The Response Queue (R156 to R159) -/

/-- The free room of the Response Queue (R145). -/
def State.freeRoom (s : State) : Nat := Config.responseRoom - s.responses.length

/-- The transfer words standing in the Response Queue. -/
def State.transferWords (s : State) : Nat := (s.responses.filter fun q => q.source == .transfer).length

/-- The Response Queue admits one more transfer word (R158). -/
def State.admitsTransferWord (s : State) : Bool :=
  decide (s.transferWords + 1 ≤ Config.transferRoom) && decide (s.responses.length + 1 ≤ Config.responseRoom)

/-- Words join the tail of the Response Queue from a source. -/
def State.enqueue (s : State) (src : Source) (words : List Word) : State :=
  { s with responses := s.responses ++ words.map fun w => { source := src, word := w } }

/-- A command's answer: its result and its data words. -/
structure Reply where
  result : Result
  words : List Word
  deriving DecidableEq, Repr

/-- An answer of a result and no data words. -/
def Reply.bare (r : Result) : Reply := ⟨r, []⟩

/-- A command's response header and its data words enter the queue together (R159). -/
def State.respond (s : State) (code : BitVec 6) (r : Reply) : State :=
  s.enqueue .command (responseHeader code r.result r.words.length :: r.words)

/-! ## Data words at their owners -/

/-- What becomes of a data word at the owner of the addressed item (R151, R152). -/
inductive WriteOutcome where
  | stored
  | clamped
  | refused (reason : Result)
  deriving DecidableEq, Repr

/-- The outcome of a numeric word: stored as written, or clamped (R8, R124, R152). -/
def WriteOutcome.ofClamp (written kept : Nat) : WriteOutcome := if written = kept then .stored else .clamped

end Sys2Proof.Machine
end

