-- ==== Sys2Proof/Machine/Bank.lean ====
section
/-! DEFINITION. The Coefficient Bank (spec/02_the_coefficient_bank.md): data words into a set, COMMIT
SET, FREE SET, UNFREEZE SET, and the disturbance of a word at rest. -/

namespace Sys2Proof.Machine

/-- A set in one of these states becomes LOADING at a data word (R23). -/
def SetState.afterDataWord : SetState → SetState
  | .free => .loading
  | .ready => .loading
  | .quarantined => .loading
  | .loading => .loading
  | .live => .live

/-- A data word into a set: refused with STATE under a hold or when the set is LIVE, otherwise stored
as delivered, the set becoming LOADING (R21, R23). -/
def State.writeBankWord (s : State) (n : SetNo) (w : Nat) (value : Word) : State × WriteOutcome :=
  if (s.record n).hold ≠ .none then (s, .refused .state)
  else if (s.record n).state = .live then (s, .refused .state)
  else ((s.writeWord n w value).onRecord n fun r => { r with state := r.state.afterDataWord }, .stored)

/-- The set a command's immediate names; 48 and above name none. -/
def setOfImm (imm : BitVec 9) : Option SetNo := setOfNat imm.toNat

/-- The 50 words of a set in order. -/
def allWords : List Nat := List.range Config.setWords

/-- The commit of a LOADING set: 50 checked reads, then the clamped values written back, the frozen flag
cleared and the set READY, or DATA ERROR when a double error was found (R24). -/
def State.commitLoading (s : State) (n : SetNo) : State × Reply :=
  let (s1, found) := s.readAll n allWords
  if found.any (·.isNone) then (s1, .bare .dataError)
  else
    (((s1.clampSet n).onRecord n fun r => { r with state := .ready, frozen := false }).sourceReady n, .bare .ok)

/-- COMMIT SET for a set number in range (R24). -/
def State.commitKnown (s : State) (n : SetNo) : State × Reply :=
  match (s.record n).state with
  | .loading => if (s.record n).hold = .destination then (s, .bare .state) else s.commitLoading n
  | .ready => (s, .bare .ok)
  | .free => (s, .bare .state)
  | .live => (s, .bare .state)
  | .quarantined => (s, .bare .state)

/-- COMMIT SET (R24). -/
def State.commitSet (s : State) (imm : BitVec 9) : State × Reply :=
  match setOfImm imm with
  | none => (s, .bare .range)
  | some n => s.commitKnown n

/-- A set zeroed, unfrozen and FREE (R28). -/
def State.zeroSet (s : State) (n : SetNo) : State :=
  (s.writeWords n 0 (List.replicate Config.setWords 0)).onRecord n fun r => { r with state := .free, frozen := false }

/-- FREE SET (R28). -/
def State.freeSet (s : State) (imm : BitVec 9) : State × Reply :=
  match setOfImm imm with
  | none => (s, .bare .range)
  | some n =>
    if (s.record n).state = .live ∨ (s.record n).hold ≠ .none then (s, .bare .state)
    else (s.zeroSet n, .bare .ok)

/-- UNFREEZE SET (R32). -/
def State.unfreezeSet (s : State) (imm : BitVec 9) : State × Reply :=
  match setOfImm imm with
  | none => (s, .bare .range)
  | some n =>
    if (s.record n).frozen then (s.onRecord n fun r => { r with frozen := false }, .bare .ok)
    else (s, .bare .state)

/-! ## The world's disturbance (section 2.7) -/

/-- A stored place flips: a place as written becomes a flipped one, and a flipped one is as written
again. The list stays in rising order. -/
def toggle (p : Nat) : List Nat → List Nat
  | [] => [p]
  | q :: qs => if p < q then p :: q :: qs else if p = q then qs else q :: toggle p qs

/-- A stored word with one place flipped. -/
def Cell.flip (c : Cell) (p : Nat) : Cell := { c with flipped := toggle p c.flipped }

/-- One or two stored places of a word flip. The part does not see it until the word is read. -/
def State.disturb (s : State) (n : SetNo) (w : Nat) (place : Nat) (second : Option Nat) : State :=
  s.putCell n w
    (match second with
      | none => (s.cell n w).flip place
      | some q => ((s.cell n w).flip place).flip q)

/-- WORD_DISTURBED (section 2.7, R21). -/
def execWordDisturbed (n : SetNo) (w : WordNo) (place : Nat) (second : Option Nat) (s : State) :
    Host.Outcome State Fault Refusal :=
  .next (s.disturb n w.val place second)

end Sys2Proof.Machine
end

