-- ==== Sys2Proof/Machine/Engine.lean ====
section
/-! DEFINITION. Bulk Transfers (spec/10_bulk_transfers.md): the start of a transfer, the engine's movements,
and the commands that watch and stop it. -/

namespace Sys2Proof.Machine

/-! ## TRANSFER START (R166, R167) -/

/-- The fields of TRANSFER START's first argument (R142): mode (3 is none), data policy SKIP, busy policy
WAIT, source or start set. -/
structure TransferArgs where
  mode : Option TransferMode
  skipBad : Bool
  waitBusy : Bool
  source : Option SetNo
  deriving DecidableEq, Repr

/-- The mode a two-bit field names; 3 names none (R166). -/
def transferModeOf (b : BitVec 2) : Option TransferMode :=
  if b = 0 then some .copy else if b = 1 then some .dump else if b = 2 then some .sweep else none

/-- The first argument's fields, read from their places; its remaining places are ignored (section 10.2). -/
def transferArgs (w : Word) : TransferArgs :=
  { mode := transferModeOf (w.extractLsb' 0 2)
    skipBad := w.getLsbD 2
    waitBusy := w.getLsbD 3
    source := setOfNat (w.extractLsb' 8 6).toNat }

/-- The transfer record as an accepted TRANSFER START sets it (R167, step 1). -/
def Transfer.begin (a : TransferArgs) (m : TransferMode) (source : SetNo) (count : Nat) (dest : Option SetNo) : Transfer :=
  { state := .active, mode := m, skipBad := a.skipBad, waitBusy := a.waitBusy, outcome := none
    remaining := count, current := some source, word := 0, badWords := 0, waitCount := 0, setBadWords := 0
    destination := dest
    phase := match m with
      | .copy => .words
      | .dump => .header
      | .sweep => .examine
    announced := 0 }

/-- The busy policy of a COPY or DUMP (R167, step 3): a LOADING source ends the transfer NOT READY under FAIL
and makes it WAITING under WAIT. -/
def State.applyBusy (s : State) (source : SetNo) : State :=
  if (s.record source).state = .loading then
    if s.transfer.waitBusy then { s with transfer := { s.transfer with state := .waiting } }
    else s.endTransfer .notReady
  else s

/-- A set takes hold SOURCE. -/
def State.holdSource (s : State) (n : SetNo) : State := s.onRecord n fun r => { r with hold := .source }

/-- A COPY's destination takes hold DESTINATION and becomes LOADING (R29). -/
def State.holdDestination (s : State) (n : SetNo) : State :=
  s.onRecord n fun r => { r with hold := .destination, state := .loading }

/-- The start of a COPY whose arguments are in range (R166 checks 2 and 3, R167). -/
def State.startCopy (s : State) (a : TransferArgs) (source dest : SetNo) : State × Reply :=
  let src := (s.record source).state
  let dst := (s.record dest).state
  if src = .free ∨ src = .quarantined ∨ dest = source ∨ dst = .loading ∨ dst = .live then (s, .bare .state)
  else
    ((((({ s with transfer := Transfer.begin a .copy source Config.setWords (some dest) }).holdSource
      source).holdDestination dest).applyBusy source), .bare .ok)

/-- The start of a DUMP whose arguments are in range (R166 check 4, R167). -/
def State.startDump (s : State) (a : TransferArgs) (source : SetNo) (count : Nat) : State × Reply :=
  if (s.record source).state = .free then (s, .bare .state)
  else
    ((({ s with transfer := Transfer.begin a .dump source count none }).holdSource source).applyBusy source, .bare .ok)

/-- The start of a SWEEP whose arguments are in range (R167): no hold, no set check. -/
def State.startSweep (s : State) (a : TransferArgs) (start : SetNo) (count : Nat) : State × Reply :=
  ({ s with transfer := Transfer.begin a .sweep start count none }, .bare .ok)

/-- A transfer's arguments, once in range (R166, check 1). -/
inductive TransferPlan where
  | copy (source dest : SetNo)
  | dump (source : SetNo) (count : Nat)
  | sweep (start : SetNo) (count : Nat)
  deriving DecidableEq, Repr

/-- Check 1 of R166: the mode, the source set, and the destination or count are in range. -/
def transferPlan (a : TransferArgs) (second : Word) : Option TransferPlan :=
  match a.mode, a.source with
  | some .copy, some src => (setOfNat second.toNat).map fun d => .copy src d
  | some .dump, some src => if second.toNat = 0 ∨ 50 < second.toNat then none else some (.dump src second.toNat)
  | some .sweep, some src => if second.toNat = 0 then none else some (.sweep src second.toNat)
  | _, _ => none

/-- The engine is ACTIVE or WAITING. -/
def Transfer.busy (t : Transfer) : Bool := decide (t.state = .active) || decide (t.state = .waiting)

/-- TRANSFER START (R166, R167): RANGE, then BUSY, then STATE, then the start. -/
def State.transferStart (s : State) (first second : Word) : State × Reply :=
  let a := transferArgs first
  match transferPlan a second with
  | none => (s, .bare .range)
  | some plan =>
    if s.transfer.busy then (s, .bare .busy)
    else
      match plan with
      | .copy src d => s.startCopy a src d
      | .dump src n => s.startDump a src n
      | .sweep start n => s.startSweep a start n

/-- TRANSFER ABORT (R175). -/
def State.transferAbort (s : State) : State × Reply :=
  if s.transfer.busy then (s.endTransfer .aborted, .bare .ok) else (s, .bare .state)

/-- TRANSFER STATUS (R176). -/
def State.transferStatus (s : State) : State × Reply := (s, ⟨.ok, s.transfer.recordWords⟩)

/-- While WAITING, a valid servo frame raises the wait count; at 4096 the transfer ends TIMEOUT (R168). -/
def State.countWait (s : State) : State :=
  if s.transfer.state = .waiting then
    let s1 := { s with transfer := { s.transfer with waitCount := s.transfer.waitCount + 1 } }
    if Config.waitLimit ≤ s.transfer.waitCount + 1 then s1.endTransfer .timeout else s1
  else s

/-- TRANSFER_TIMEOUT (R168): the rise of a waiting transfer's wait count to 4096, and its end with outcome
TIMEOUT. Where the next rise would not reach 4096, nothing changes (log entry 2, DESIGN CHOICE). -/
def execTransferTimeout (s : State) : Host.Outcome State Fault Refusal :=
  if s.transfer.state = .waiting ∧ Config.waitLimit ≤ s.transfer.waitCount + 1 then .next s.countWait else .next s

/-! ## Movements (R169 to R173) -/

/-- The kinds of movement of the engine. -/
inductive Movement where
  | word (set : SetNo)
  | header (set : SetNo)
  | trailer (set : SetNo)
  | examine (set : Option SetNo)
  deriving DecidableEq, Repr

/-- The movement that is due: none unless ACTIVE; a COPY moves words; a DUMP or a SWEEP follows its block,
and is stalled while the Response Queue admits no transfer word (R170, R171, R173). An examination appends no word, and
is due whatever room the queue has (R173; log entry 23, DESIGN CHOICE). -/
def State.due (s : State) : Option Movement :=
  if s.transfer.state ≠ .active then none
  else
    match s.transfer.mode, s.transfer.phase, s.transfer.current with
    | .copy, _, some n => some (.word n)
    | .copy, _, none => none
    | _, .examine, cur => some (.examine cur)
    | _, .header, some n => if s.admitsTransferWord then some (.header n) else none
    | _, .words, some n => if s.admitsTransferWord then some (.word n) else none
    | _, .trailer, some n => if s.admitsTransferWord then some (.trailer n) else none
    | _, _, none => none

/-- A word is delivered: written into the destination of a COPY, or appended to the Response Queue (R169). -/
def State.deliver (s : State) (value : Word) : State :=
  match s.transfer.mode with
  | .copy =>
    match s.transfer.destination with
    | some d => s.writeWord d s.transfer.word value
    | none => s
  | .dump => s.enqueue .transfer [value]
  | .sweep => s.enqueue .transfer [value]

/-- The current word advances by one; a COPY past word 49 ends COMPLETE, a block that has carried the words
its header announced turns to its trailer (R170, R171). -/
def State.advanceWord (s : State) : State :=
  let w := s.transfer.word + 1
  let s1 := { s with transfer := { s.transfer with word := w } }
  match s.transfer.mode with
  | .copy => if Config.setWords ≤ w then s1.endTransfer .complete else s1
  | .dump => if s.transfer.announced ≤ w then { s1 with transfer := { s1.transfer with phase := .trailer } } else s1
  | .sweep => if s.transfer.announced ≤ w then { s1 with transfer := { s1.transfer with phase := .trailer } } else s1

/-- A double error under SKIP is counted in both bad-word counts (R169). -/
def State.countBadWord (s : State) : State :=
  { s with transfer :=
      { s.transfer with badWords := raised s.transfer.badWords 1, setBadWords := s.transfer.setBadWords + 1 } }

/-- One word movement (R169): the remaining count is lowered, the word read and checked, then delivered, or
the transfer ends DATA ERROR under STOP with the current word at the failed word. -/
def State.moveWord (s : State) (n : SetNo) : State :=
  let s1 := { s with transfer := { s.transfer with remaining := s.transfer.remaining - 1 } }
  match s1.readWord n s.transfer.word with
  | (s2, some v) => (s2.deliver v).advanceWord
  | (s2, none) =>
    if s.transfer.skipBad then (s2.countBadWord.deliver 0).advanceWord else s2.endTransfer .dataError

/-- A block's header is appended: the set bad-word count returns to 0 and the block announces the smaller of
50 and the remaining count (R171). -/
def State.appendHeader (s : State) (n : SetNo) : State :=
  let count := min Config.setWords s.transfer.remaining
  let s1 := s.enqueue .transfer [transferHeader n count]
  { s1 with transfer := { s1.transfer with setBadWords := 0, announced := count, phase := .words } }

/-- The set number after n; past set 47 there is none. -/
def nextSet (n : SetNo) : Option SetNo := setOfNat (n.val + 1)

/-- A SWEEP goes on to the next set, with current word 0 (R173). -/
def State.sweepNext (s : State) (n : SetNo) : State :=
  { s with transfer := { s.transfer with current := nextSet n, word := 0, phase := .examine } }

/-- A block's trailer is appended (R171); a DUMP ends COMPLETE (R172); a SWEEP releases the hold and ends
COMPLETE or goes on (R173). -/
def State.appendTrailer (s : State) (n : SetNo) : State :=
  let s1 := s.enqueue .transfer [transferTrailer n s.transfer.setBadWords]
  match s.transfer.mode with
  | .sweep =>
    let s2 := s1.onRecord n fun r => { r with hold := .none }
    if s.transfer.remaining = 0 then s2.endTransfer .complete else s2.sweepNext n
  | .dump => s1.endTransfer .complete
  | .copy => s1

/-- A SWEEP examines its current set: a FREE or LOADING set is skipped, any other is taken under hold SOURCE;
past set 47 the SWEEP ends END OF BANK with current set NONE (R173; log entry 7, DEDUCED). -/
def State.examineSet (s : State) (cur : Option SetNo) : State :=
  match cur with
  | none => s.endTransfer .endOfBank
  | some n =>
    match (s.record n).state with
    | .free => s.sweepNext n
    | .loading => s.sweepNext n
    | _ =>
      let s1 := s.holdSource n
      { s1 with transfer := { s1.transfer with phase := .header } }

/-- The engine makes the given movement. -/
def State.move (s : State) (m : Movement) : State :=
  match m with
  | .word n => s.moveWord n
  | .header n => s.appendHeader n
  | .trailer n => s.appendTrailer n
  | .examine cur => s.examineSet cur

/-- The engine makes the movement that is due, if one is. -/
def State.engineMove (s : State) : State :=
  match s.due with
  | some m => s.move m
  | none => s

/-- Movements of the engine, `n` of them (R130). -/
def State.engineMoves (s : State) : Nat → State
  | 0 => s
  | n + 1 => s.engineMove.engineMoves n

/-- WORD_MOVEMENT (R169). Where a word movement is not what is due, the engine makes none (log entry 3, DESIGN CHOICE). -/
def execWordMovement (s : State) : Host.Outcome State Fault Refusal :=
  match s.due with
  | some (.word n) => .next (s.moveWord n)
  | _ => .next s

/-- BLOCK_HEADER_APPEND (R171). Where a header is not what is due, nothing changes (log entry 3, DESIGN CHOICE). -/
def execBlockHeaderAppend (s : State) : Host.Outcome State Fault Refusal :=
  match s.due with
  | some (.header n) => .next (s.appendHeader n)
  | _ => .next s

/-- BLOCK_TRAILER_APPEND (R171). Where a trailer is not what is due, nothing changes (log entry 3, DESIGN CHOICE). -/
def execBlockTrailerAppend (s : State) : Host.Outcome State Fault Refusal :=
  match s.due with
  | some (.trailer n) => .next (s.appendTrailer n)
  | _ => .next s

/-- SWEEP_EXAMINE (R173), made without a room test (log entry 23, DESIGN CHOICE). Where an examination is not what is
due, nothing changes (log entry 3, DESIGN CHOICE). -/
def execSweepExamine (s : State) : Host.Outcome State Fault Refusal :=
  match s.due with
  | some (.examine cur) => .next (s.examineSet cur)
  | _ => .next s

end Sys2Proof.Machine
end

