-- ==== Sys2Proof/Machine/Notices.lean ====
section
/-! DEFINITION. Notices and Counters (spec/11_notices_and_counters.md): FETCH NOTICES, POLL and COUNTERS
CLEAR. Queueing itself is `NoticeQueue.add`. -/

namespace Sys2Proof.Machine

/-- The number of notices a served FETCH returns: up to n whole notices that the queue holds and whose two
words fit in the room left after the lost-count word (R162). -/
def fetchCount (n held room : Nat) : Nat := min n (min held ((room - 1) / 2))

/-- FETCH NOTICES with room for its lost-count word (R162, R180). -/
def State.fetchNotices (s : State) (imm : BitVec 9) (room : Nat) : State × Reply :=
  if imm.toNat = 0 ∨ 8 < imm.toNat then (s, .bare .range)
  else
    let k := fetchCount imm.toNat s.notices.records.length room
    ({ s with notices := { records := s.notices.records.drop k, lost := 0 } },
      ⟨.ok, natWord s.notices.lost :: (s.notices.records.take k).flatMap Notice.words⟩)

/-- POLL (R181). -/
def State.poll (s : State) : State × Reply := (s, ⟨.ok, [s.notices.summary]⟩)

/-- Every counter of the COUNTERS region is 0 (R183). -/
def State.clearCounters (s : State) : State :=
  (({ s with counters := PartCounters.zero }).onCounters .zero fun _ => LaneCounters.zero).onCounters .one
    fun _ => LaneCounters.zero

/-- COUNTERS CLEAR (R183). -/
def State.countersClear (s : State) : State × Reply := (s.clearCounters, .bare .ok)

end Sys2Proof.Machine
end

