-- ==== Sys2Proof/Machine/Conditioner.lean ====
section
/-! DEFINITION. Reference Acquisition (spec/01_reference_acquisition.md): sensor frames, the rotational
sample and its baseline, temperature bands, the conditioner parameters, and the conditioner's part of a
servo frame. -/

namespace Sys2Proof.Machine

/-! ## Sensor frames (R1 to R6, R10) -/

/-- The settle count is raised to at least k (R13). -/
def State.raiseSettle (s : State) (l : Lane) (k : Nat) : State :=
  s.onReference l fun x => { x with settle := max x.settle k }

/-- The settle counts of both lanes are raised to at least k. -/
def State.raiseSettleBoth (s : State) (k : Nat) : State := (s.raiseSettle .zero k).raiseSettle .one k

/-- The sequence check of a sensor frame (R1): a gap is counted, reported and raises both settle counts;
the expectation becomes the frame's number plus 1, modulo 16. -/
def State.checkSequence (s : State) (seq : BitVec 4) : State :=
  let s1 : State :=
    if s.cond.expectation = none ∨ s.cond.expectation = some seq then s
    else
      (({ s with counters := { s.counters with sensorGap := raised s.counters.sensorGap 1 } }).notify
        .sensorGap none 0).raiseSettleBoth Config.settleLong
  { s1 with cond := { s1.cond with expectation := some (seq + 1) } }

/-- The scaled channel: p × a × g rounded half up by 14 places, at full width (R2). -/
def scaledChannel (negative : Bool) (trim a : Word) : Int :=
  roundHalfUp ((if negative then -1 else 1) * a.toInt * (trim.toNat : Int)) 14

/-- The raw difference r of a sensor frame (R2). -/
def rawDifference (p : CondParams) (a1 a2 : Word) : Word :=
  sat16 (roundHalfUp (scaledChannel p.negative1 p.trim1 a1 - scaledChannel p.negative2 p.trim2 a2) 1)

/-- The reference value x of a raw difference, from the baseline before the frame (R3). -/
def referenceValue (baseline : Int) (r : Word) : Word := sat16 (r.toInt - roundHalfUp baseline 8)

/-- The baseline after a frame with raw difference r (R3); the divisor is positive, so the integer
division takes the floor. -/
def nextBaseline (baseline : Int) (r : Word) : Int := baseline + (r.toInt * 256 - baseline) / 1024

/-- The rotational sample and the baseline of a sensor frame (R2, R3). -/
def State.takeSample (s : State) (a1 a2 : Word) : State :=
  let r := rawDifference s.cond.params a1 a2
  { s with cond :=
      { s.cond with sample := referenceValue s.cond.baseline r, baseline := nextBaseline s.cond.baseline r } }

/-- A clipped frame is counted, reported and raises both settle counts (R4). -/
def State.checkClip (s : State) (a1 a2 : Word) : State :=
  if clipDetail a1 a2 = 0 then s
  else
    (({ s with counters := { s.counters with sensorClip := raised s.counters.sensorClip 1 } }).notify
      .sensorClip none (clipDetail a1 a2)).raiseSettleBoth Config.settleLong

/-- Threshold T_c, for c from 1 to 3. -/
def CondParams.threshold (p : CondParams) (c : Nat) : Int :=
  match c with
  | 1 => p.threshold1.toInt
  | 2 => p.threshold2.toInt
  | _ => p.threshold3.toInt

/-- The raw band of a temperature: the number of thresholds at or below it (R6). -/
def rawBand (p : CondParams) (t : Int) : Fin 4 :=
  if p.threshold 1 ≤ t then
    (if p.threshold 2 ≤ t then (if p.threshold 3 ≤ t then 3 else 2) else (if p.threshold 3 ≤ t then 2 else 1))
  else
    (if p.threshold 2 ≤ t then (if p.threshold 3 ≤ t then 2 else 1) else (if p.threshold 3 ≤ t then 1 else 0))

/-- The upward test: the highest band above the current one with T at least T_c + H (R6). -/
def bandUp (p : CondParams) (band : Fin 4) (t : Int) : Option (Fin 4) :=
  [3, 2, 1].find? fun c => decide (band < c) && decide (p.threshold c.val + p.hysteresis ≤ t)

/-- The downward test: the lowest band below the current one with T below T_(c+1) − H (R6). -/
def bandDown (p : CondParams) (band : Fin 4) (t : Int) : Option (Fin 4) :=
  [0, 1, 2].find? fun c => decide (c < band) && decide (t < p.threshold (c.val + 1) - p.hysteresis)

/-- The band after a later temperature: up first, then down, else unchanged (R6). -/
def hysteresisBand (p : CondParams) (band : Fin 4) (t : Int) : Fin 4 :=
  ((bandUp p band t).orElse fun _ => bandDown p band t).getD band

/-- A temperature is taken and the band re-evaluated (R5, R6). -/
def Conditioner.takeTemperature (c : Conditioner) (aux : Word) : Conditioner :=
  { c with
    temperature := some aux
    band := if c.temperature = none then rawBand c.params aux.toInt else hysteresisBand c.params c.band aux.toInt }

/-- The auxiliary word of a frame with sequence number 0 is a temperature; no other is used (R5). -/
def State.examineAux (s : State) (f : SensorFields) : State :=
  if f.seq = 0 then { s with cond := s.cond.takeTemperature f.aux } else s

/-- The fresh flags of both lanes are set (R10). -/
def State.setFresh (s : State) : State :=
  (s.onReference .zero fun x => { x with fresh := true }).onReference .one fun x => { x with fresh := true }

/-- A sensor frame in full (R1 to R5, R10): its SENSOR GAP is queued before its SENSOR CLIP (R4). -/
def State.takeSensor (s : State) (f : SensorFields) : State :=
  ((((s.checkSequence f.seq).checkClip f.channel1 f.channel2).takeSample f.channel1 f.channel2).examineAux f).setFresh

/-- SENSOR_FRAME (R1, R140): a frame with other than four words is dropped and changes no state. -/
def execSensorFrame (words : List Word) (s : State) : Host.Outcome State Fault Refusal :=
  match receiveSensor words with
  | some f => .next (s.takeSensor f)
  | none => .next s

/-! ## Conditioner parameters (R7, R8) -/

/-- A lane state in which conditioner parameters, and the lane's own parameters, cannot be written. -/
def LaneMode.started : LaneMode → Bool
  | .priming => true
  | .running => true
  | .fault => true
  | .off => false
  | .standby => false

/-- While the temperature is unknown the current band equals the start band (R7). -/
def Conditioner.withStartBand (c : Conditioner) (b : Fin 4) : Conditioner :=
  { c with params := { c.params with startBand := b }, band := if c.temperature = none then b else c.band }

/-- A start band word, clamped to 0..3 (R8). -/
def clampBand (n : Nat) : Fin 4 := if n = 0 then 0 else if n = 1 then 1 else if n = 2 then 2 else 3

/-- A word for an enumerated parameter of two values (R8). -/
def Conditioner.writeBit (c : Conditioner) (value : Word) (f : Bool → CondParams) : Conditioner × WriteOutcome :=
  if value.toNat ≤ 1 then ({ c with params := f (value.toNat == 1) }, .stored) else (c, .refused .range)

/-- An accepted word for a conditioner parameter: checked, clamped or stored (R8). -/
def Conditioner.writeParam (c : Conditioner) (p : CondParam) (value : Word) : Conditioner × WriteOutcome :=
  match p with
  | .polarity1 => c.writeBit value fun b => { c.params with negative1 := b }
  | .polarity2 => c.writeBit value fun b => { c.params with negative2 := b }
  | .trim1 => ({ c with params := { c.params with trim1 := value } }, .stored)
  | .trim2 => ({ c with params := { c.params with trim2 := value } }, .stored)
  | .threshold1 => ({ c with params := { c.params with threshold1 := value } }, .stored)
  | .threshold2 => ({ c with params := { c.params with threshold2 := value } }, .stored)
  | .threshold3 => ({ c with params := { c.params with threshold3 := value } }, .stored)
  | .hysteresis =>
    ({ c with params := { c.params with hysteresis := clampNat 0 255 value.toNat } },
      .ofClamp value.toNat (clampNat 0 255 value.toNat))
  | .startBand => (c.withStartBand (clampBand value.toNat), .ofClamp value.toNat (clampBand value.toNat).val)
  | .retain => c.writeBit value fun b => { c.params with retain := b }

/-- A data word written to a COND address (R8): refused with STATE while either lane is in PRIMING,
RUNNING or FAULT. -/
def State.writeCond (s : State) (p : CondParam) (value : Word) : State × WriteOutcome :=
  if s.lane0.control.mode.started || s.lane1.control.mode.started then (s, .refused .state)
  else ({ s with cond := (s.cond.writeParam p value).1 }, (s.cond.writeParam p value).2)

/-- The stored value of a conditioner parameter as READ returns it (section 1.4). -/
def CondParams.word (p : CondParams) : CondParam → Word
  | .polarity1 => natWord (if p.negative1 then 1 else 0)
  | .polarity2 => natWord (if p.negative2 then 1 else 0)
  | .trim1 => p.trim1
  | .trim2 => p.trim2
  | .threshold1 => p.threshold1
  | .threshold2 => p.threshold2
  | .threshold3 => p.threshold3
  | .hysteresis => natWord p.hysteresis
  | .startBand => natWord p.startBand.val
  | .retain => natWord (if p.retain then 1 else 0)

/-- The conditioner parameter at a COND address (section 1.4). -/
def condParamAt (addr : Nat) : Option CondParam :=
  match addr with
  | 0 => some .polarity1
  | 1 => some .polarity2
  | 2 => some .trim1
  | 3 => some .trim2
  | 4 => some .threshold1
  | 5 => some .threshold2
  | 6 => some .threshold3
  | 7 => some .hysteresis
  | 8 => some .startBand
  | 9 => some .retain
  | _ => none

/-! ## The conditioner's part of a servo frame (R10 to R19) -/

/-- The verdict of the Lane Controller on a wedge index (R120); a slip's detail is 0 out of sequence,
1 at WPR or above (R122). -/
inductive Verdict where
  | inSequence
  | gap (g : Nat)
  | slip (detail : Nat)
  deriving DecidableEq, Repr

/-- The stale count after a frame that found the fresh flag as given (R11). -/
def nextStale (found : Bool) (count : Nat) : Nat := if found then 0 else min Config.staleMax (count + 1)

/-- A lane's reference after its fresh flag is examined and cleared, the stale count updated and the
status graded with SL and HL as they stand (R10, R11). -/
def Reference.examined (r : Reference) (c : Control) : Reference :=
  let count := nextStale r.fresh r.staleCount
  { r with fresh := false, staleCount := count, status := gradeReference count c.staleLimit c.holdLength }

/-- The examination of the fresh flag, with the two changes of status that have effects of their own: a
change to LOST queues REFERENCE LOST, a recovery raises the settle count to at least 64 (R10 to R12). -/
def State.examineFresh (s : State) (l : Lane) : State :=
  let old := (s.lane l).reference
  let new := old.examined (s.lane l).control
  let s1 := s.onReference l fun _ => new
  let s2 := if new.status = .lost ∧ old.status ≠ .lost then s1.notify .referenceLost (some l) 0 else s1
  if old.fresh ∧ old.status ≠ .good then s2.raiseSettle l Config.settleLong else s2

/-- One push of the latest rotational sample into a lane's ring: the settle count falls by one, the fill
count rises by one, up to 64 (R13, R15, R17). -/
def State.pushSample (s : State) (l : Lane) : State :=
  let x := s.cond.sample
  (s.onReference l fun r => { r with ring := pushEntry r.ring x, settle := r.settle - 1 }).onControl l
    fun c => { c with fill := min Config.fillFull (c.fill + 1) }

/-- Pushes of the latest rotational sample, `n` of them (R16). -/
def State.pushSamples (s : State) (l : Lane) : Nat → State
  | 0 => s
  | n + 1 => (s.pushSample l).pushSamples l n

/-- A PRIMING lane whose fill count is 64 becomes RUNNING (R116). -/
def State.completePriming (s : State) (l : Lane) : State :=
  if (s.lane l).control.mode = .priming ∧ Config.fillFull ≤ (s.lane l).control.fill then
    s.onControl l fun c => { c with mode := .running }
  else s

/-- The number of wedges a verdict asks to fill in. -/
def Verdict.gapCount : Verdict → Nat
  | .gap g => g
  | .inSequence => 0
  | .slip _ => 0

/-- Steps 2 to 4 of R14, in a lane that is not OFF: the fresh flag is examined, a gap raises the settle
count to at least 32, and with a GOOD reference the gap fill and the frame's own entry are pushed. -/
def State.feedLane (s : State) (l : Lane) (v : Verdict) : State :=
  let s1 := s.examineFresh l
  let s2 := if 0 < v.gapCount then s1.raiseSettle l Config.settleShort else s1
  if (s2.lane l).reference.status = .good then (s2.pushSamples l (v.gapCount + 1)).completePriming l else s2

/-- The push of a lane's input command into the other lane's sibling history, in every state of either
lane (R19). -/
def State.pushSibling (s : State) (l : Lane) (input : Word) : State :=
  s.onReference l.other fun r => { r with sibling := pushEntry r.sibling input }

/-- The conditioner's part of a servo frame (R14). -/
def State.conditionFrame (s : State) (l : Lane) (v : Verdict) (input : Word) : State :=
  (if (s.lane l).control.mode = .off then s else s.feedLane l v).pushSibling l input

/-- REFERENCE_LOST (R12): the examination of a lane's fresh flag that brings the stale count to SL + HL.
Where the next examination would not do that, the event does not come about and nothing changes
(log entry 2, DESIGN CHOICE). -/
def execReferenceLost (l : Lane) (s : State) : Host.Outcome State Fault Refusal :=
  let r := (s.lane l).reference
  let c := (s.lane l).control
  if c.mode ≠ .off ∧ r.fresh = false ∧ r.status ≠ .lost ∧ c.staleLimit + c.holdLength ≤ nextStale false r.staleCount then
    .next (s.examineFresh l)
  else .next s

/-- PRIMING_COMPLETE (R116): the push that brings a PRIMING lane's fill count to 64, and the lane's
change to RUNNING. Where the next push would not do that, nothing changes (log entry 2, DESIGN CHOICE). -/
def execPrimingComplete (l : Lane) (s : State) : Host.Outcome State Fault Refusal :=
  let c := (s.lane l).control
  if c.mode = .priming ∧ (s.lane l).reference.status = .good ∧ Config.fillFull ≤ c.fill + 1 then
    .next ((s.pushSample l).completePriming l)
  else .next s

end Sys2Proof.Machine
end

