-- ==== Sys2Proof/Machine/Selector.lean ====
section
/-! DEFINITION. Set Selection (spec/03_set_selection.md): map and fallback writes with their reference
counts, the applied band, and the resolution of a lane's set at each frame. -/

namespace Sys2Proof.Machine

/-! ## Names (R34, R42, R43) -/

/-- A set loses one name; a count that falls to 0 leaves no owner (R34). -/
def SetRecord.lowered (r : SetRecord) : SetRecord :=
  { r with refCount := r.refCount - 1, owner := if r.refCount - 1 = 0 then none else r.owner }

/-- A set gains a name of lane l; a count that rises from 0 makes l the owner (R34). -/
def SetRecord.named (r : SetRecord) (l : Lane) : SetRecord :=
  { r with refCount := r.refCount + 1, owner := if r.refCount = 0 then some l else r.owner }

/-- The record upkeep of an optional set. -/
def State.onNamed (s : State) (n : Option SetNo) (f : SetRecord → SetRecord) : State :=
  match n with
  | some n => s.onRecord n f
  | none => s

/-- A name of lane l changes from `old` to `new`: the old set's count falls, the new set's rises; equal
values change nothing (R42). -/
def State.rename (s : State) (l : Lane) (old new : Option SetNo) : State :=
  if old = new then s else (s.onNamed old SetRecord.lowered).onNamed new fun r => r.named l

/-- A word that names a set: a set number, NONE as 255, or neither (R42, check 1). -/
def nameOfWord (value : Word) : Option (Option SetNo) :=
  if value.toNat = 255 then some none
  else match setOfNat value.toNat with
    | some n => some (some n)
    | none => none

/-- Set `n` is owned by the other lane (R42, check 2). -/
def State.conflicts (s : State) (l : Lane) (n : Option SetNo) : Bool :=
  match n with
  | some n => decide ((s.record n).owner = some l.other)
  | none => false

/-- A lane's map entry at a MAP address; an unlisted address holds NONE (R41). -/
def State.mapEntry (s : State) (l : Lane) (addr : Nat) : Option SetNo := Memory.read none (s.lane l).selection.map addr

/-- A write of lane l's map entry: RANGE first, then CONFLICT, then the entry and its upkeep (R42). -/
def State.writeMap (s : State) (l : Lane) (addr : Nat) (value : Word) : State × WriteOutcome :=
  match nameOfWord value with
  | none => (s, .refused .range)
  | some n =>
    if s.conflicts l n then (s, .refused .conflict)
    else
      ((s.rename l (s.mapEntry l addr) n).onSelection l
        fun x => { x with map := Memory.write none x.map addr n }, .stored)

/-- A write of lane l's fallback setting, checked and counted as a map entry is (R43). -/
def State.writeFallback (s : State) (l : Lane) (value : Word) : State × WriteOutcome :=
  match nameOfWord value with
  | none => (s, .refused .range)
  | some n =>
    if s.conflicts l n then (s, .refused .conflict)
    else
      ((s.rename l (s.lane l).selection.fallback n).onSelection l fun x => { x with fallback := n }, .stored)

/-! ## The key and the resolution (R45 to R51) -/

/-- With write-active clear, the applied band takes the current band (R46). -/
def State.applyBand (s : State) (l : Lane) (writeActive : Bool) : State :=
  if writeActive then s else s.onSelection l fun x => { x with band := s.cond.band }

/-- The map address of a key: head × 32 + zone × 4 + band (R41, R45). -/
def keyAddr (head : BitVec 4) (zone : BitVec 3) (band : Fin 4) : Nat := head.toNat * 32 + zone.toNat * 4 + band.val

/-- A set is usable for lane l when it is READY, or LIVE and l's current set (R48). -/
def State.usable (s : State) (l : Lane) (n : SetNo) : Bool :=
  decide ((s.record n).state = .ready)
    || (decide ((s.record n).state = .live) && decide ((s.lane l).selection.current = some n))

/-- A name, when it is of a usable set. -/
def State.usableName (s : State) (l : Lane) (n : Option SetNo) : Option SetNo := n.filter (s.usable l)

/-- The frame's set and route: the map entry at the key, else the fallback, else none (R48). -/
def State.resolve (s : State) (l : Lane) (addr : Nat) : Option (SetNo × Route) :=
  match s.usableName l (s.mapEntry l addr) with
  | some n => some (n, .primary)
  | none =>
    match s.usableName l (s.lane l).selection.fallback with
    | some n => some (n, .fallback)
    | none => none

/-- The words of a set that hold its 40 taps, w[0..31] then v[0..7]. -/
def tapWords : List Nat := (List.range 40).map (· + Config.firstTap)

/-- The shadow capture: 40 checked reads; without a double error the shadow holds the set and its taps
and the divergence count is 0. A double error has quarantined the set, which leaves the lane without
shadow and with divergence count 0 (R89, R51). -/
def State.captureShadow (s : State) (l : Lane) (n : SetNo) : State :=
  match s.readUntilDouble n tapWords with
  | (s1, some taps) => s1.onAdapt l fun x => { x with shadow := some ⟨n, taps⟩, divergence := 0 }
  | (s1, none) => s1

/-- Step 1 of R49: the lane's current set, if still LIVE, becomes READY (R27). -/
def State.retireCurrent (s : State) (l : Lane) : State :=
  match (s.lane l).selection.current with
  | some n => if (s.record n).state = .live then s.setSetState n .ready else s
  | none => s

/-- Step 2 of R49: the frame's set becomes LIVE and the lane's current set, and the held correction 0
(R26, R58). -/
def State.enterLive (s : State) (l : Lane) (n : SetNo) (r : Route) : State :=
  ((s.setSetState n .live).onSelection l fun x => { x with current := some n, route := r }).onFilter l
    fun x => { x with held := 0 }

/-- The selector acts on a resolution (R49, R50). -/
def State.select (s : State) (l : Lane) (found : Option (SetNo × Route)) : State :=
  match found with
  | none => s.releaseCurrent l
  | some (n, r) =>
    if (s.lane l).selection.current = some n then s.onSelection l fun x => { x with route := r }
    else ((s.retireCurrent l).enterLive l n r).captureShadow l n

/-- The selector's part of a servo frame: the applied band in every lane state (R46), and in RUNNING the
resolution (R47), which it also hands on. -/
def State.selectFrame (s : State) (f : ServoFields) : State × Option (SetNo × Route) :=
  let s1 := s.applyBand f.lane f.writeActive
  if (s1.lane f.lane).control.mode = .running then
    let found := s1.resolve f.lane (keyAddr f.head f.zone (s1.lane f.lane).selection.band)
    (s1.select f.lane found, found)
  else (s1, none)

end Sys2Proof.Machine
end

