-- ==== Sys2Proof/Machine/Filter.lean ====
section
/-! DEFINITION. Cancellation Arithmetic (spec/04_cancellation_arithmetic.md): the output status, the
correction, the output command and the saturation run. -/

namespace Sys2Proof.Machine

/-- What the filter decides for a frame: its status, its correction y, and the tap counts it read. -/
structure Decision where
  status : OutStatus
  correction : Word
  refTaps : Nat
  sibTaps : Nat
  deriving DecidableEq, Repr

/-- A decision without a computed correction. -/
def Decision.plain (st : OutStatus) (y : Word) : Decision := ⟨st, y, 0, 0⟩

/-- The frame is correcting: SETTLE, TRACK, or SEEK with seek feed-forward (R56). -/
def correcting (m : ServoMode) (seekFeedForward : Bool) : Bool :=
  match m with
  | .settle => true
  | .track => true
  | .seek => seekFeedForward
  | .idle => false

/-- The aligned reference h[j]: the ring entry at place A + j (R18). -/
def LaneState.aligned (x : LaneState) (j : Nat) : Int :=
  (entryAt x.reference.ring (x.control.alignment + j)).toInt

/-- The sibling reference s[j] (R19). -/
def LaneState.siblingAt (x : LaneState) (j : Nat) : Int := (entryAt x.reference.sibling j).toInt

/-- A tap count as read, within the number of taps there are. The clamp changes no count of a LIVE set
(R30); it keeps reads within the set in every state (log entry 14, DESIGN CHOICE). -/
def tapCount (limit : Nat) (v : Word) : Nat := min limit v.toInt.toNat

/-- The words of the first `tr` reference taps, then of the first `ts` sibling taps. -/
def usedTapWords (tr ts : Nat) : List Nat :=
  (List.range tr).map (· + Config.firstTap) ++ (List.range ts).map (· + Config.firstSiblingTap)

/-- The references that the used taps weigh: h[d..] then s[d..], with delay d (R62, R79). -/
def LaneState.references (x : LaneState) (tr ts d : Nat) : List Int :=
  (List.range tr).map (fun k => x.aligned (k + d)) ++ (List.range ts).map fun j => x.siblingAt (j + d)

/-- The correction sum: the exact sum of the products of taps and references. The 40-bit accumulator
holds it exactly (R62). -/
def correctionSum : List Word → List Int → Int
  | w :: ws, h :: hs => w.toInt * h + correctionSum ws hs
  | _, _ => 0

/-- The rounded correction before its limit: rounding half up by 15 + OS places (R63). -/
def roundedCorrection (sum : Int) (os : Word) : Int := roundHalfUp sum (15 + os.toInt.toNat)

/-- The correction y: the rounded value clamped to ±CL (R63). -/
def limitedCorrection (sum : Int) (os cl : Word) : Int := clampSym cl.toInt (roundedCorrection sum os)

/-- A computed correction in the lane: y is the held correction (R58), FRESH and, when the clamp changed
the value, the correction-clamp counter rise (R63, R73). -/
def State.freshFrame (s : State) (l : Lane) (y : Word) (clamped : Bool) : State :=
  (s.onFilter l fun x => { x with held := y }).onCounters l fun c =>
    { c with
      freshFrame := raised c.freshFrame 1
      correctionClamp := if clamped then raised c.correctionClamp 1 else c.correctionClamp }

/-- The correction from the words read: TR, TS, OS, CL and the used taps (R62, R63). -/
def State.applyTaps (s : State) (l : Lane) (tr ts : Nat) (os cl : Word) (taps : List Word) : State × Decision :=
  let sum := correctionSum taps ((s.lane l).references tr ts 0)
  let y := limitedCorrection sum os cl
  (s.freshFrame l (signedWord y) (decide (y ≠ roundedCorrection sum os)), ⟨.fresh, signedWord y, tr, ts⟩)

/-- Condition 6 of R57: the filter reads TR, TS, OS, CL, then the used taps; a double error makes the
frame DIAG (R61, R68). -/
def State.computeCorrection (s : State) (l : Lane) (n : SetNo) : State × Decision :=
  match s.readUntilDouble n [0, 1, 2, 3] with
  | (s1, some [tr, ts, os, cl]) =>
    match s1.readUntilDouble n (usedTapWords (tapCount 32 tr) (tapCount 8 ts)) with
    | (s2, some taps) => s2.applyTaps l (tapCount 32 tr) (tapCount 8 ts) os cl taps
    | (s2, none) => (s2, .plain .diag 0)
  | (s1, _) => (s1, .plain .diag 0)

/-- A BYPASS frame is counted in every lane state (R73). -/
def State.bypassFrame (s : State) (l : Lane) : State × Decision :=
  (s.onCounters l fun c => { c with bypassFrame := raised c.bypassFrame 1 }, .plain .bypass 0)

/-- A HELD frame repeats the held correction (R59). -/
def State.heldFrame (s : State) (l : Lane) : State × Decision :=
  (s.onCounters l fun c => { c with heldFrame := raised c.heldFrame 1 }, .plain .held (s.lane l).filter.held)

/-- The filter's decision on a frame that resolved `found`: conditions 1 to 6 of R57 in a RUNNING lane,
BYPASS in every other (R55, R57). -/
def State.decideFrame (s : State) (f : ServoFields) (found : Option (SetNo × Route)) : State × Decision :=
  let x := s.lane f.lane
  if x.control.mode ≠ .running then s.bypassFrame f.lane
  else if found.isSome ∧ x.selection.current ≠ found.map Prod.fst then (s, .plain .diag 0)
  else if correcting f.mode x.control.seekFeedForward = false then s.bypassFrame f.lane
  else
    match x.reference.status, found with
    | .lost, _ => s.bypassFrame f.lane
    | _, none => s.bypassFrame f.lane
    | .stale, some _ => s.heldFrame f.lane
    | .good, some (n, _) => s.computeCorrection f.lane n

/-! ## The output command (R64 to R66, R70) -/

/-- The exact sum of input command, correction and probe value (R65). -/
def outputSum (input y : Word) (probe : Int) : Int := input.toInt + y.toInt + probe

/-- The output command is formed: a saturated sum is counted, and in RUNNING the saturation run rises or
becomes 0 (R65, R70, R73). -/
def State.formOutput (s : State) (l : Lane) (sum : Int) : State :=
  let s1 := if saturated sum then s.onCounters l fun c => { c with commandSaturation := raised c.commandSaturation 1 } else s
  if (s.lane l).control.mode = .running then
    s1.onFilter l fun x => { x with saturationRun := if saturated sum then x.saturationRun + 1 else 0 }
  else s1

/-- A lane enters FAULT from RUNNING: the lane-fault counter rises, LANE FAULT is queued, and the
departure follows (R71, R113, R119). -/
def State.faultLane (s : State) (l : Lane) : State :=
  ((s.onCounters l fun c => { c with laneFault := raised c.laneFault 1 }).notify .laneFault (some l) 0).leaveRunning
    l 3 .fault

/-- After the frame's stages: a RUNNING lane whose saturation run has reached 32 enters FAULT (R71). -/
def State.checkFault (s : State) (l : Lane) : State :=
  if (s.lane l).control.mode = .running ∧ Config.saturationLimit ≤ (s.lane l).filter.saturationRun then s.faultLane l
  else s

/-- LANE_FAULT (R71): the rise of a RUNNING lane's saturation run to 32, and the lane's passage to FAULT.
Where the next rise would not reach 32, nothing changes (log entry 2, DESIGN CHOICE). -/
def execLaneFault (l : Lane) (s : State) : Host.Outcome State Fault Refusal :=
  if (s.lane l).control.mode = .running ∧ Config.saturationLimit ≤ (s.lane l).filter.saturationRun + 1 then
    .next (s.faultLane l)
  else .next s

end Sys2Proof.Machine
end

