-- ==== Sys2Proof/Machine/Probe.lean ====
section
/-! DEFINITION. Path Identification (spec/06_path_identification.md): probe campaigns, the probe sequence,
the sign history and the correlations. -/

namespace Sys2Proof.Machine

/-- The feedback of a generator state: exactly one of its 64s and 32s places is set (R99). -/
def probeFeedback (g : Nat) : Bool := g.testBit 6 != g.testBit 5

/-- The next generator state: doubled, without its 128s place, with the feedback in its 1s place (R99). -/
def nextGenerator (g : Nat) : Nat := (2 * g) % 128 + (if probeFeedback g then 1 else 0)

/-- The probe value of a sign: +PA or −PA (R99). -/
def probeValue (sign : Bool) (amplitude : Nat) : Int := if sign then (amplitude : Int) else -(amplitude : Int)

/-- The clamp of a correlation accumulator (R104). -/
def clampCorrelation (x : Int) : Int := clampInt (-2147483648) 2147483647 x

/-- One accumulator takes the position error with its sign; without a sign it is left (R104). -/
def correlate (c : Int) (sign : Option Bool) (e : Int) : Int :=
  match sign with
  | some true => clampCorrelation (c + e)
  | some false => clampCorrelation (c - e)
  | none => c

/-- One step of a campaign up to the accumulation: the generator is stepped, the sign pushed, the position
error correlated (R100 steps 1, 3 and 4, R103, R104). -/
def Campaign.stepped (c : Campaign) (e : Int) : Campaign :=
  let signs := (probeFeedback c.generator :: c.signs).take 16
  { c with
    generator := nextGenerator c.generator
    signs := signs
    correlations := Vector.ofFn fun d : Fin 16 => correlate c.correlations[d.val] signs[d.val]? e }

/-- The length done rises by one; at the requested length the campaign ends DONE and PROBE DONE is
queued (R100 step 5, R105). -/
def State.countProbeStep (s : State) (l : Lane) : State :=
  let n := (s.lane l).campaign.done + 1
  if n = (s.lane l).campaign.requested then
    (s.onCampaign l fun c => { c with done := n, state := .done }).notify .probeDone (some l) 0
  else s.onCampaign l fun c => { c with done := n }

/-- A frame takes a step of the campaign: TRACK, in a RUNNING lane whose campaign is RUNNING (R100). -/
def State.stepsProbe (s : State) (f : ServoFields) : Bool :=
  decide ((s.lane f.lane).control.mode = .running) && decide (f.mode = .track)
    && decide ((s.lane f.lane).campaign.state = .running)

/-- The probe value of a frame: ±PA at a stepped frame, 0 at every other (R64, R101). -/
def State.frameProbe (s : State) (f : ServoFields) : Int :=
  if s.stepsProbe f then
    probeValue (probeFeedback (s.lane f.lane).campaign.generator) (s.lane f.lane).campaign.amplitude
  else 0

/-- The Probe Unit's part of a servo frame (R100, R102). -/
def State.probeFrame (s : State) (f : ServoFields) : State :=
  if s.stepsProbe f then (s.onCampaign f.lane fun c => c.stepped f.pes.toInt).countProbeStep f.lane else s

/-- CAMPAIGN_DONE (R105): the rise of the length done of a RUNNING campaign to the requested length.
Where the next rise would not reach it, nothing changes (log entry 2, DESIGN CHOICE). -/
def execCampaignDone (l : Lane) (s : State) : Host.Outcome State Fault Refusal :=
  if (s.lane l).campaign.state = .running ∧ (s.lane l).campaign.done + 1 = (s.lane l).campaign.requested then
    .next (s.countProbeStep l)
  else .next s

/-! ## Commands (R97, R98, R106) -/

/-- The amplitude argument, read as signed 16 and clamped to 0..4095 (R97). -/
def clampAmplitude (w : Word) : Nat := (clampInt 0 4095 w.toInt).toNat

/-- The record of a campaign as PROBE START sets it (R98). -/
def Campaign.started (length amplitude : Nat) : Campaign :=
  { state := .running, requested := length, done := 0, amplitude := amplitude, generator := 127
    signs := [], correlations := Vector.replicate 16 0 }

/-- PROBE START (R97, R98). -/
def State.probeStart (s : State) (l : Lane) (length amplitude : Word) : State × Reply :=
  if length.toNat = 0 then (s, .bare .range)
  else if (s.lane l).control.mode ≠ .running then (s, .bare .state)
  else if (s.lane l).campaign.state = .running then (s, .bare .busy)
  else
    (s.onCampaign l fun _ => Campaign.started length.toNat (clampAmplitude amplitude),
      ⟨.ok, [natWord (clampAmplitude amplitude)]⟩)

/-- PROBE STOP (R106). -/
def State.probeStop (s : State) (l : Lane) : State × Reply :=
  if (s.lane l).campaign.state = .running then (s.abortCampaign l 0, .bare .ok) else (s, .bare .state)

end Sys2Proof.Machine
end

