-- ==== Sys2Proof/Machine/Adapt.lean ====
section
/-! DEFINITION. Adaptation (spec/05_adaptation.md): the gate, the update of the taps, windows, and the
divergence rollback. -/

namespace Sys2Proof.Machine

/-! ## The update of a tap (R79 to R81) -/

/-- A filtered reference: SG times the reference, rounded half up by 15 places, then Sat16 (R79). -/
def filteredReference (sg : Word) (h : Int) : Int := (sat16 (roundHalfUp (sg.toInt * h) 15)).toInt

/-- The leak: the tap divided by 2^LK, truncated toward zero, is taken from it; LK = 0 skips it (R80). -/
def leaked (lk : Word) (w : Int) : Int := if 0 < lk.toInt then w - truncDiv w (2 ^ lk.toInt.toNat) else w

/-- The gradient step u: the exact product of e and the filtered reference, rounded half up by
15 + MU places (R81). -/
def gradientStep (e x : Int) (mu : Word) : Int := roundHalfUp (e * x) (15 + mu.toInt.toNat)

/-- A tap after leak and gradient step, before the clamp (R80, R81). -/
def steppedTap (w e x : Int) (mu lk : Word) : Int := leaked lk w - gradientStep e x mu

/-- The header words the Adaptation Unit reads: MU, LK, SD, SG, WL, DL (R76). -/
structure AdaptHeader where
  mu : Word
  lk : Word
  sd : Word
  sg : Word
  wl : Word
  dl : Word
  deriving DecidableEq, Repr

/-- The unclamped results of the frame's taps, in the order they were read (R79 to R81). -/
def steppedTaps (h : AdaptHeader) (e : Int) : List Word → List Int → List Int
  | w :: ws, r :: rs => steppedTap w.toInt e (filteredReference h.sg r) h.mu h.lk :: steppedTaps h e ws rs
  | _, _ => []

/-- The new taps: each result clamped to ±WL (R81). -/
def clampedTaps (wl : Word) (results : List Int) : List Word := results.map fun x => signedWord (clampSym wl.toInt x)

/-- The number of taps that the clamp changes (R81). -/
def clampedCount (wl : Word) (results : List Int) : Nat :=
  (results.filter fun x => decide (clampSym wl.toInt x ≠ x)).length

/-! ## Window and divergence (R86, R91, R92) -/

/-- In WINDOW mode an adapted frame lowers the window remaining by one; at 0 the window closes and WINDOW
DONE with detail 0 is queued (R86). -/
def State.countWindow (s : State) (l : Lane) : State :=
  if (s.lane l).adapt.mode = .window then
    let s1 := s.onAdapt l fun x => { x with window := x.window - 1 }
    if (s.lane l).adapt.window - 1 = 0 then s1.notify .windowDone (some l) 0 else s1
  else s

/-- The rollback of a set from a shadow: the 40 taps written, the frozen flag set, the divergence count
0, DIVERGED queued (R92). -/
def State.rollback (s : State) (l : Lane) (n : SetNo) (taps : List Word) : State :=
  (((s.writeWords n Config.firstTap taps).onRecord n fun r => { r with frozen := true }).onAdapt l
    fun x => { x with divergence := 0 }).notify .diverged (some l) n.val

/-- The divergence count rises by one; at 64 the set is rolled back (R91, R92). A lane with a current set
holds its shadow (R90); without one there are no taps to restore. -/
def State.raiseDivergence (s : State) (l : Lane) (n : SetNo) : State :=
  if Config.divergenceLimit ≤ (s.lane l).adapt.divergence + 1 then
    s.rollback l n (match (s.lane l).adapt.shadow with
      | some sh => sh.taps
      | none => [])
  else s.onAdapt l fun x => { x with divergence := x.divergence + 1 }

/-- The divergence count's step at an adapted frame (R91). -/
def State.countDivergence (s : State) (l : Lane) (n : SetNo) (e : Int) (dl : Word) : State :=
  if dl.toInt < |e| then s.raiseDivergence l n else s.onAdapt l fun x => { x with divergence := 0 }

/-! ## The frame (R75 to R83) -/

/-- The write-back of a frame's taps: reference taps from word 10, sibling taps from word 42 (R82). -/
def State.writeTaps (s : State) (n : SetNo) (tr : Nat) (taps : List Word) : State :=
  (s.writeWords n Config.firstTap (taps.take tr)).writeWords n Config.firstSiblingTap (taps.drop tr)

/-- An adapted frame, from the words read: the taps updated and written, the two counters raised, the
divergence count stepped, the window counted (R79 to R82, R86, R91). -/
def State.adaptTaps (s : State) (l : Lane) (n : SetNo) (tr ts : Nat) (e : Int) (h : AdaptHeader) (taps : List Word) :
    State :=
  let results := steppedTaps h e taps ((s.lane l).references tr ts h.sd.toInt.toNat)
  ((((s.writeTaps n tr (clampedTaps h.wl results)).onCounters l fun c =>
    { c with adaptedFrame := raised c.adaptedFrame 1, tapClamp := raised c.tapClamp (clampedCount h.wl results) }).countDivergence
      l n e h.dl).countWindow l)

/-- The reads of the unit and the update: MU first, and nothing more when it is 0; then LK, SD, SG, WL, DL
and the taps in use. A double error ends the reading and abandons the update (R76, R83). -/
def State.adaptSet (s : State) (l : Lane) (n : SetNo) (tr ts : Nat) (e : Int) : State :=
  match s.readWord n 4 with
  | (s1, none) => s1
  | (s1, some mu) =>
    if mu = 0 then s1
    else
      match s1.readUntilDouble n [5, 6, 7, 8, 9] with
      | (s2, some [lk, sd, sg, wl, dl]) =>
        match s2.readUntilDouble n (usedTapWords tr ts) with
        | (s3, some taps) => s3.adaptTaps l n tr ts e ⟨mu, lk, sd, sg, wl, dl⟩ taps
        | (s3, none) => s3
      | (s2, _) => s2

/-- Conditions 1 to 7 of R75, but for those on the set: the lane RUNNING and in TRACK, status FRESH, settle
count 0, |e| within the PES gate, no campaign in the way, mode FREE or an open window. `probed` says
that a campaign was RUNNING on the lane when the frame arrived (R77). -/
def State.laneAdapts (s : State) (f : ServoFields) (st : OutStatus) (probed : Bool) : Bool :=
  let x := s.lane f.lane
  decide (x.control.mode = .running) && decide (f.mode = .track) && decide (st = .fresh)
    && decide (x.reference.settle = 0) && decide (|f.pes.toInt| ≤ (x.adapt.pesGate : Int)) && !probed
    && (decide (x.adapt.mode = .free) || (decide (x.adapt.mode = .window) && decide (0 < x.adapt.window)))

/-- Condition 3 of R75: the frame's set is still the lane's current set and LIVE, not frozen, not held. -/
def State.setAdapts (s : State) (l : Lane) (n : SetNo) : Bool :=
  decide ((s.lane l).selection.current = some n) && decide ((s.record n).state = .live)
    && !(s.record n).frozen && decide ((s.record n).hold = .none)

/-- The Adaptation Unit's part of a servo frame (R75): only a frame whose route is PRIMARY is adapted. -/
def State.adaptFrame (s : State) (f : ServoFields) (found : Option (SetNo × Route)) (d : Decision) (probed : Bool) :
    State :=
  match found with
  | some (n, .primary) =>
    if s.laneAdapts f d.status probed && s.setAdapts f.lane n then
      s.adaptSet f.lane n d.refTaps d.sibTaps f.pes.toInt
    else s
  | _ => s

/-- ADAPT WINDOW (R87). -/
def State.adaptWindow (s : State) (l : Lane) (length : Word) : State × Reply :=
  if length.toNat = 0 then (s, .bare .range)
  else if (s.lane l).control.mode ≠ .running ∨ (s.lane l).adapt.mode ≠ .window then (s, .bare .state)
  else if 0 < (s.lane l).adapt.window then (s, .bare .busy)
  else (s.onAdapt l fun x => { x with window := length.toNat }, .bare .ok)

/-- The rollback row's set is one whose words adaptation may change: the lane RUNNING on route PRIMARY, its current
set LIVE, not frozen and under no hold (R33, R75). -/
def State.rollbackAllowed (s : State) (l : Lane) (n : SetNo) : Bool :=
  decide ((s.lane l).control.mode = .running) && decide ((s.lane l).selection.route = .primary) && s.setAdapts l n

/-- DIVERGENCE_ROLLBACK (R92): the rise of a lane's divergence count to 64, and the rollback of its current set.
Where the next rise would not reach 64, or adaptation may not change the set's words (R33, R75), nothing changes
(log entry 2, DESIGN CHOICE). -/
def execDivergenceRollback (l : Lane) (s : State) : Host.Outcome State Fault Refusal :=
  match (s.lane l).selection.current with
  | some n =>
    if s.rollbackAllowed l n ∧ Config.divergenceLimit ≤ (s.lane l).adapt.divergence + 1 then
      .next (s.raiseDivergence l n)
    else .next s
  | none => .next s

/-- WINDOW_CLOSE (R86): the fall of a lane's window remaining from 1 to 0 in WINDOW mode. In any other
case nothing changes (log entry 2, DESIGN CHOICE). -/
def execWindowClose (l : Lane) (s : State) : Host.Outcome State Fault Refusal :=
  if (s.lane l).control.mode = .running ∧ (s.lane l).adapt.mode = .window ∧ (s.lane l).adapt.window = 1 then
    .next (s.countWindow l)
  else .next s

end Sys2Proof.Machine
end

