-- ==== Sys2Proof/Machine/LaneControl.lean ====
section
/-! DEFINITION. Lane Control (spec/07_lane_control.md): wedge continuity, the lane commands and the lane
parameters. -/

namespace Sys2Proof.Machine

/-! ## Wedge continuity (R120 to R122) -/

/-- The verdict on wedge index i against WPR and the expectation (R120). -/
def wedgeVerdict (wpr : Nat) (expectation : Option Nat) (i : Nat) : Verdict :=
  if wpr ≤ i then .slip 1
  else
    match expectation with
    | none => .inSequence
    | some e =>
      let g := (((i : Int) - (e : Int)) % (wpr : Int)).toNat
      if g = 0 then .inSequence else if g ≤ 3 then .gap g else .slip 0

/-- The expectation after a frame with wedge index i (R120). -/
def nextExpectation (wpr i : Nat) : Option Nat := if wpr ≤ i then none else some ((i + 1) % wpr)

/-- The Lane Controller's handling of a slip: counted, the fill count 0, WEDGE SLIP queued, and a RUNNING
lane leaves for PRIMING (R122). -/
def State.slipLane (s : State) (l : Lane) (detail : Nat) : State :=
  let s1 := (s.onCounters l fun c => { c with wedgeSlip := raised c.wedgeSlip 1 }).onControl l
    fun c => { c with fill := 0 }
  let s2 := s1.notify .wedgeSlip (some l) detail
  if (s.lane l).control.mode = .running then s2.leaveRunning l 2 .priming else s2

/-- What the Lane Controller does with a verdict (R121, R122). -/
def State.applyVerdict (s : State) (l : Lane) (v : Verdict) : State :=
  match v with
  | .inSequence => s
  | .gap g => s.onCounters l fun c => { c with wedgeGap := raised c.wedgeGap g }
  | .slip d => s.slipLane l d

/-- The Lane Controller's part of a servo frame (R120, R123): no verdict in OFF, where the frame is treated
as in sequence. -/
def State.judgeWedge (s : State) (l : Lane) (wedge : Word) : State × Verdict :=
  let c := (s.lane l).control
  if c.mode = .off then (s, .inSequence)
  else
    let v := wedgeVerdict c.wedgesPerRev c.expectation wedge.toNat
    ((s.onControl l fun c => { c with expectation := nextExpectation c.wedgesPerRev wedge.toNat }).applyVerdict l v, v)

/-! ## Lane commands (R114 to R118) -/

/-- The wedge expectation is cleared and the fill count set to 0, on the way to a lane state. -/
def State.armLane (s : State) (l : Lane) (m : LaneMode) : State :=
  s.onControl l fun c => { c with mode := m, expectation := none, fill := 0 }

/-- A lane leaves its state for another: from RUNNING with the departure of R113. -/
def State.moveLane (s : State) (l : Lane) (m : LaneMode) : State :=
  if (s.lane l).control.mode = .running then s.leaveRunning l 1 m
  else s.onControl l fun c => { c with mode := m }

/-- LANE ENABLE (R114). -/
def State.laneEnable (s : State) (l : Lane) : State × Reply :=
  if (s.lane l).control.mode = .off then (s.armLane l .standby, .bare .ok) else (s, .bare .state)

/-- The conditioner thresholds increase strictly (R115). -/
def CondParams.increasing (p : CondParams) : Bool :=
  decide (p.threshold 1 < p.threshold 2) && decide (p.threshold 2 < p.threshold 3)

/-- LANE START (R115). -/
def State.laneStart (s : State) (l : Lane) : State × Reply :=
  if (s.lane l).control.mode ≠ .standby then (s, .bare .state)
  else if s.cond.params.increasing = false then (s, .bare .range)
  else (s.armLane l .priming, .bare .ok)

/-- LANE STOP (R117). -/
def State.laneStop (s : State) (l : Lane) : State × Reply :=
  if (s.lane l).control.mode.started then (s.moveLane l .standby, .bare .ok) else (s, .bare .state)

/-- LANE OFF (R118). -/
def State.laneOff (s : State) (l : Lane) : State × Reply := (s.moveLane l .off, .bare .ok)

/-! ## Lane parameters (R84, R124, R125) -/

/-- The lane parameter at a LANE address; address 1 is the fallback setting (R43). -/
def laneParamAt (addr : Nat) : Option LaneParam :=
  match addr with
  | 0 => some .alignment
  | 2 => some .wedgesPerRev
  | 3 => some .seekFeedForward
  | 4 => some .adaptMode
  | 5 => some .pesGate
  | 6 => some .staleLimit
  | 7 => some .holdLength
  | _ => none

/-- An adaptation mode word: 0 OFF, 1 FREE, 2 WINDOW (R84). -/
def adaptModeOf (n : Nat) : Option AdaptMode :=
  match n with
  | 0 => some .off
  | 1 => some .free
  | 2 => some .window
  | _ => none

/-- The range of a numeric lane parameter (section 7.4). -/
def laneParamRange : LaneParam → Nat × Nat
  | .alignment => (0, 15)
  | .wedgesPerRev => (1, 1024)
  | .seekFeedForward => (0, 1)
  | .adaptMode => (0, 2)
  | .pesGate => (0, 32767)
  | .staleLimit => (1, 255)
  | .holdLength => (0, 255)

/-- The value a numeric parameter keeps of a word: the nearest value of its range (R124). -/
def laneParamKeep (p : LaneParam) (value : Word) : Nat := clampNat (laneParamRange p).1 (laneParamRange p).2 value.toNat

/-- A numeric parameter is stored; a write of WPR clears the wedge expectation as well (R125). -/
def State.storeNumeric (s : State) (l : Lane) (p : LaneParam) (n : Nat) : State :=
  match p with
  | .alignment => s.onControl l fun c => { c with alignment := n }
  | .wedgesPerRev => s.onControl l fun c => { c with wedgesPerRev := n, expectation := none }
  | .pesGate => s.onAdapt l fun x => { x with pesGate := n }
  | .staleLimit => s.onControl l fun c => { c with staleLimit := n }
  | .holdLength => s.onControl l fun c => { c with holdLength := n }
  | .seekFeedForward => s
  | .adaptMode => s

/-- An accepted word for a lane parameter: enumerated values are checked, numeric ones clamped (R124). -/
def State.storeLaneParam (s : State) (l : Lane) (p : LaneParam) (value : Word) : State × WriteOutcome :=
  match p with
  | .seekFeedForward =>
    if value.toNat ≤ 1 then (s.onControl l fun c => { c with seekFeedForward := value.toNat == 1 }, .stored)
    else (s, .refused .range)
  | .adaptMode =>
    match adaptModeOf value.toNat with
    | some m => (s.onAdapt l fun x => { x with mode := m }, .stored)
    | none => (s, .refused .range)
  | p => (s.storeNumeric l p (laneParamKeep p value), .ofClamp value.toNat (laneParamKeep p value))

/-- A data word written to address 0 or 2 to 7 of a lane's LANE region (R124): refused with STATE in
PRIMING, RUNNING and FAULT. -/
def State.writeLaneParam (s : State) (l : Lane) (p : LaneParam) (value : Word) : State × WriteOutcome :=
  if (s.lane l).control.mode.started then (s, .refused .state) else s.storeLaneParam l p value

/-- The stored value of a lane parameter as READ returns it (R124). -/
def LaneState.paramWord (x : LaneState) : LaneParam → Word
  | .alignment => natWord x.control.alignment
  | .wedgesPerRev => natWord x.control.wedgesPerRev
  | .seekFeedForward => natWord (if x.control.seekFeedForward then 1 else 0)
  | .adaptMode => natWord x.adapt.mode.code
  | .pesGate => natWord x.adapt.pesGate
  | .staleLimit => natWord x.control.staleLimit
  | .holdLength => natWord x.control.holdLength

end Sys2Proof.Machine
end

