-- ==== Sys2Proof/Machine/Reset.lean ====
section
/-! DEFINITION. The two resets: the power-on reset of the reset line (R141) and the part reset of the PART
RESET command (R163). -/

namespace Sys2Proof.Machine

/-- The frames of a port, the last of them ended after `k` words. -/
def cutLast (k : Nat) : List (List Word) → List (List Word)
  | [] => []
  | [f] => [f.take k]
  | f :: g :: rest => f :: cutLast k (g :: rest)

/-- The frames of a port once the reset line is asserted: a frame begun is not completed (R141). Words that left
before stay sent; a port that has begun no frame since the last power-on reset has none on its way. -/
def cutPort (begun : Bool) (k : Option Nat) (frames : List (List Word)) : List (List Word) :=
  match begun, k with
  | true, some k => cutLast k frames
  | _, _ => frames

/-- Both outgoing ports once the reset line is asserted: neither has a frame on its way (R141). -/
def Ports.cut (p : Ports) (cut : CutShort) : Ports :=
  { upstream := cutPort p.upstreamBegun cut.upstream p.upstream
    drive := cutPort p.driveBegun cut.drive p.drive
    upstreamBegun := false, driveBegun := false }

/-- The power-on state of every block, with no frame on its way out. The queue of waiting commands and the words
that have left are not the part's to change. -/
def State.powerOn (s : State) (cut : CutShort) : State :=
  { State.reset with pending := s.pending, ports := s.ports.cut cut }

/-- POWER_ON_RESET (R141): a frame under reception, and the frame whose words the line cut short, are
abandoned without a return frame, a frame begun on an outgoing port is not completed, and every block takes its
power-on state. The queue of waiting commands and the words sent stay (log entries 8, 15 and 16, DESIGN CHOICE). -/
def execPowerOnReset (cutShort : CutShort) (s : State) : Host.Outcome State Fault Refusal :=
  .next (s.powerOn cutShort)

/-- The conditioner after a part reset (R8, R9). -/
def Conditioner.partReset (c : Conditioner) : Conditioner :=
  let params := if c.params.retain then c.params else CondParams.default
  { params := params, baseline := 0, sample := 0, temperature := c.temperature
    band := if c.temperature = none then params.startBand else c.band
    expectation := none }

/-- A lane's Lane Controller after a part reset: parameters kept when retain is 1 (R126, R129). -/
def Control.partReset (c : Control) (retain : Bool) : Control :=
  if retain then { c with mode := .off, expectation := none, fill := 0 } else Control.reset

/-- A lane's adaptation state after a part reset (R95). -/
def Adaptation.partReset (x : Adaptation) (retain : Bool) : Adaptation :=
  if retain then { Adaptation.reset with mode := x.mode, pesGate := x.pesGate } else Adaptation.reset

/-- A lane's campaign record after a part reset (R111). -/
def Campaign.partReset (c : Campaign) : Campaign := { c with state := .idle, generator := 127, signs := [] }

/-- A lane's selection state after a part reset, with the current band as the reset leaves it (R54). -/
def Selection.partReset (x : Selection) (band : Fin 4) : Selection :=
  { x with band := band, current := none, route := .none }

/-- A lane after a part reset. -/
def LaneState.partReset (x : LaneState) (retain : Bool) (band : Fin 4) : LaneState :=
  { reference := Reference.reset
    selection := x.selection.partReset band
    filter := Filter.reset
    adapt := x.adapt.partReset retain
    campaign := x.campaign.partReset
    control := x.control.partReset retain
    counters := LaneCounters.zero }

/-- A set's record after a part reset: LIVE becomes READY, the hold is released (R40). -/
def SetRecord.partReset (r : SetRecord) : SetRecord :=
  { r with state := if r.state = .live then .ready else r.state, hold := .none }

/-- The bank after a part reset (R40). -/
def Bank.partReset (b : Bank) : Bank := { b with records := b.records.map SetRecord.partReset }

/-- The part reset (R163), but for the queueing of its own response header. The notices of the departures
it causes do not stand after it, since it empties the Notice Queue. The frame under reception is left to
complete its handling (R141). -/
def State.partReset (s : State) : State :=
  let cond := s.cond.partReset
  { pending := s.pending
    cond := cond
    lane0 := s.lane0.partReset s.cond.params.retain cond.band
    lane1 := s.lane1.partReset s.cond.params.retain cond.band
    bank := s.bank.partReset
    decoder := Decoder.reset
    responses := []
    transfer := Transfer.reset
    notices := NoticeQueue.empty
    counters := PartCounters.zero
    link := s.link
    ports := s.ports }

end Sys2Proof.Machine
end

