-- ==== Sys2Proof/Machine/Decoder.lean ====
section
/-! DEFINITION. Management Commands (spec/09_management_commands.md): the pointer and its regions, data
words, the room rules, the command words and their arguments, and a management frame at the decoder. -/

namespace Sys2Proof.Machine

/-! ## The pointer (R149, R150, R155) -/

/-- The end of the pointer's region, one past its last address; in BANK, of its set (R149). -/
def Pointer.stop (p : Pointer) : Nat :=
  match p.region with
  | .bank => p.addr / Config.setStride * Config.setStride + Config.setWords
  | .map => 512
  | .lane => 8
  | .cond => 10
  | .results => 34
  | .counters => 26
  | .sets => 48
  | .lanes => 14

/-- The pointer is stopped: no address is left before its end (R149). -/
def Pointer.stopped (p : Pointer) : Bool := decide (p.stop ≤ p.addr)

/-- The pointer `k` addresses on. -/
def Pointer.forward (p : Pointer) (k : Nat) : Pointer := { p with addr := p.addr + k }

/-- The pointer is made the given one. -/
def State.setPointer (s : State) (p : Pointer) : State := { s with decoder := { s.decoder with pointer := p } }

/-- The pointer names a word that exists: below its region's end, and in BANK a set up to 47 (R150). -/
def Pointer.namesWord (p : Pointer) : Bool :=
  decide (p.addr < p.stop) && (decide (p.region ≠ .bank) || decide (p.addr / Config.setStride < Config.setCount))

/-- The pointer POINT aims at: region and lane from the immediate, the address from its argument (R150). -/
def pointTarget (imm : BitVec 9) (addr : Word) : Pointer :=
  { region := Region.ofCode (imm.toNat % 8), lane := Lane.ofBit (imm.getLsbD 3), addr := addr.toNat }

/-- POINT (R150). -/
def State.pointCommand (s : State) (imm : BitVec 9) (addr : Word) : State × Reply :=
  if s.decoder.origin.isSome then (s, .bare .state)
  else if 15 < imm.toNat then (s, .bare .range)
  else if (pointTarget imm addr).namesWord then (s.setPointer (pointTarget imm addr), .bare .ok)
  else (s, .bare .range)

/-- PATCH OPEN (R155). -/
def State.patchOpen (s : State) : State × Reply :=
  match s.decoder.origin with
  | none => ({ s with decoder := { s.decoder with origin := some s.decoder.pointer } }, .bare .ok)
  | some _ => (s, .bare .state)

/-- PATCH CLOSE (R155). -/
def State.patchClose (s : State) : State × Reply :=
  match s.decoder.origin with
  | some p => ({ s with decoder := { s.decoder with pointer := p, origin := none } }, .bare .ok)
  | none => (s, .bare .state)

/-! ## Readable items -/

/-- The word of a lane parameter or fallback setting at a LANE address (R124, R43). -/
def LaneState.laneWord (x : LaneState) (a : Nat) : Word :=
  if a = 1 then natWord (setField x.selection.fallback)
  else match laneParamAt a with
    | some p => x.paramWord p
    | none => 0

/-- The word at a COND address (R8). -/
def CondParams.condWord (p : CondParams) (a : Nat) : Word :=
  match condParamAt a with
  | some q => p.word q
  | none => 0

/-- The word at a RESULTS address (R109): high words of the accumulators at even addresses below 32, low
words at odd ones, then the campaign state and the length done. -/
def Campaign.resultsWord (c : Campaign) (a : Nat) : Word :=
  if h : a / 2 < 16 then
    if a % 2 = 0 then BitVec.ofInt 16 (c.correlations[a / 2] / 65536) else BitVec.ofInt 16 (c.correlations[a / 2] % 65536)
  else if a = 32 then natWord c.state.code
  else if a = 33 then natWord c.done
  else 0

/-- A lane's counters in COUNTERS order (section 11.5). -/
def LaneCounters.list (c : LaneCounters) : List Nat :=
  [c.freshFrame, c.heldFrame, c.bypassFrame, c.correctionClamp, c.commandSaturation, c.adaptedFrame, c.tapClamp,
   c.wedgeGap, c.wedgeSlip, c.laneFault]

/-- The counters in COUNTERS order: part-wide at 0 to 5, lane 0 at 6 to 15, lane 1 at 16 to 25. -/
def State.counterList (s : State) : List Nat :=
  [s.counters.sensorGap, s.counters.sensorClip, s.counters.storageCorrection, s.counters.storageError,
   s.counters.linkCheck, s.counters.turnedAway] ++ s.lane0.counters.list ++ s.lane1.counters.list

/-- The word at a SETS address (R22). -/
def State.setsWord (s : State) (a : Nat) : Word :=
  match setOfNat a with
  | some n => (s.record n).word
  | none => 0

/-- The word at a LANES address (section 7.5). -/
def State.lanesWord (s : State) (l : Lane) (a : Nat) : Word :=
  let x := s.lane l
  match a with
  | 0 => natWord x.control.mode.code
  | 1 => natWord (setField x.selection.current)
  | 2 => natWord x.selection.route.code
  | 3 => natWord x.reference.status.code
  | 4 => natWord x.reference.staleCount
  | 5 => natWord x.reference.settle
  | 6 => natWord x.control.fill
  | 7 => natWord x.adapt.window
  | 8 => natWord x.adapt.divergence
  | 9 => natWord x.selection.band.val
  | 10 => natWord s.cond.band.val
  | 11 => (match s.cond.temperature with
      | some t => t
      | none => signedWord (-32768))
  | 12 => natWord x.filter.saturationRun
  | 13 => natWord (match x.control.expectation with
      | some e => e
      | none => 65535)
  | _ => 0

/-- The item at an address of a region other than BANK, as its owner holds it (R153). BANK words are read
checked, by `State.readBank`. -/
def State.item (s : State) (r : Region) (l : Lane) (a : Nat) : Word :=
  match r with
  | .bank => 0
  | .map => natWord (setField (s.mapEntry l a))
  | .lane => (s.lane l).laneWord a
  | .cond => s.cond.params.condWord a
  | .results => (s.lane l).campaign.resultsWord a
  | .counters => natWord (s.counterList.getD a 0)
  | .sets => s.setsWord a
  | .lanes => s.lanesWord l a

/-! ## READ (R153, R154) -/

/-- The number of words a READ of n returns: the smaller of n and the addresses left (R153). -/
def State.readCount (s : State) (n : Nat) : Nat := min n (s.decoder.pointer.stop - s.decoder.pointer.addr)

/-- The result of a READ whose checked reads found the given values (R154). -/
def readResult (found : List (Option Word)) : Result := if found.any (·.isNone) then .dataError else .ok

/-- The checked reads of a READ in BANK; a word with a double error is returned as 0 (R154). -/
def State.readBank (s : State) (k : Nat) : State × Reply :=
  match setOfNat (s.decoder.pointer.addr / Config.setStride) with
  | some n =>
    let words := (List.range k).map (· + s.decoder.pointer.addr % Config.setStride)
    let (s1, found) := s.readAll n words
    (s1, ⟨readResult found, found.map (·.getD 0)⟩)
  | none => (s, .bare .ok)

/-- The items of a READ in any other region (R153). -/
def State.readItems (s : State) (k : Nat) : State × Reply :=
  let p := s.decoder.pointer
  (s, ⟨.ok, (List.range k).map fun i => s.item p.region p.lane (p.addr + i)⟩)

/-- Outside a patch window a READ advances the pointer by the words returned (R153, R155). -/
def State.advanceRead (s : State) (k : Nat) : State :=
  if s.decoder.origin.isSome then s else s.setPointer (s.decoder.pointer.forward k)

/-- READ (R153, R154). -/
def State.readCommand (s : State) (imm : BitVec 9) : State × Reply :=
  if imm.toNat = 0 ∨ 16 < imm.toNat then (s, .bare .range)
  else
    let k := s.readCount imm.toNat
    let r := if s.decoder.pointer.region = .bank then s.readBank k else s.readItems k
    (r.1.advanceRead k, r.2)

/-! ## Data words (R151, R152) -/

/-- A region whose data words are refused (R149). -/
def Region.readOnly : Region → Bool
  | .results => true
  | .counters => true
  | .sets => true
  | .lanes => true
  | .bank => false
  | .map => false
  | .lane => false
  | .cond => false

/-- The owner of the addressed item stores, clamps or refuses a data word (R149, R151). -/
def State.writeItem (s : State) (p : Pointer) (value : Word) : State × WriteOutcome :=
  match p.region with
  | .bank =>
    match setOfNat (p.addr / Config.setStride) with
    | some n => s.writeBankWord n (p.addr % Config.setStride) value
    | none => (s, .refused .range)
  | .map => s.writeMap p.lane p.addr value
  | .lane =>
    if p.addr = 1 then s.writeFallback p.lane value
    else match laneParamAt p.addr with
      | some q => s.writeLaneParam p.lane q value
      | none => (s, .refused .range)
  | .cond =>
    match condParamAt p.addr with
    | some q => s.writeCond q value
    | none => (s, .refused .range)
  | _ => (s, .refused .state)

/-- A data word offered at the pointer (R151): refused in place while a command is pending or the pointer is
stopped; refused with the pointer advanced in a read-only region; else given to the owner, and the
pointer advanced whatever the owner does. -/
def State.offer (s : State) (value : Word) : State × WriteOutcome :=
  let p := s.decoder.pointer
  if s.decoder.command.isSome then (s, .refused .state)
  else if p.stopped then (s, .refused .state)
  else if p.region.readOnly then (s.setPointer (p.forward 1), .refused .state)
  else ((s.writeItem p value).1.setPointer (p.forward 1), (s.writeItem p value).2)

/-- The refused and the clamped words of a frame so far (R152). -/
structure Tally where
  refused : Nat
  clamped : Nat
  deriving DecidableEq, Repr

/-- One more data word in the tally. -/
def Tally.count (t : Tally) : WriteOutcome → Tally
  | .stored => t
  | .clamped => { t with clamped := t.clamped + 1 }
  | .refused _ => { t with refused := t.refused + 1 }

/-- Each data word of a frame is offered at the pointer, in payload order (R151). -/
def State.offerAll (s : State) (t : Tally) : List Word → State × Tally
  | [] => (s, t)
  | w :: ws => (s.offer w).1.offerAll (t.count (s.offer w).2) ws

/-- A data report is queued when any data word of the frame was refused or clamped (R152). -/
def State.report (s : State) (t : Tally) : State :=
  if t.refused = 0 ∧ t.clamped = 0 then s else s.enqueue .command [dataReportHeader t.refused t.clamped]

/-! ## Commands (R157, R159, R160) -/

/-- The number of argument words a command takes (R160). -/
def argCount (code : BitVec 6) : Nat :=
  match code.toNat with
  | 1 => 1
  | 12 => 1
  | 13 => 2
  | 15 => 2
  | _ => 0

/-- The data words a command's response would carry if it were accepted, column d of R160. -/
def State.dataNeed (s : State) (f : CommandFields) : Nat :=
  match f.code.toNat with
  | 2 => if f.imm.toNat = 0 ∨ 16 < f.imm.toNat then 0 else s.readCount f.imm.toNat
  | 13 => 1
  | 17 => 7
  | 18 => if f.imm.toNat = 0 ∨ 8 < f.imm.toNat then 0 else 1
  | 19 => 1
  | _ => 0

/-- A command with its arguments complete, by its code (R160); `room` is the room available to its data
words (R157). Undefined codes answer UNKNOWN (R161). -/
def State.runCommand (s : State) (f : CommandFields) (args : List Word) (room : Nat) : State × Reply :=
  match f.code.toNat with
  | 0 => (s, .bare .ok)
  | 1 => s.pointCommand f.imm (args.getD 0 0)
  | 2 => s.readCommand f.imm
  | 3 => s.patchOpen
  | 4 => s.patchClose
  | 5 => s.commitSet f.imm
  | 6 => s.freeSet f.imm
  | 7 => s.unfreezeSet f.imm
  | 8 => s.laneEnable f.lane
  | 9 => s.laneStart f.lane
  | 10 => s.laneStop f.lane
  | 11 => s.laneOff f.lane
  | 12 => s.adaptWindow f.lane (args.getD 0 0)
  | 13 => s.probeStart f.lane (args.getD 0 0) (args.getD 1 0)
  | 14 => s.probeStop f.lane
  | 15 => s.transferStart (args.getD 0 0) (args.getD 1 0)
  | 16 => s.transferAbort
  | 17 => s.transferStatus
  | 18 => s.fetchNotices f.imm room
  | 19 => s.poll
  | 20 => s.countersClear
  | 21 => (s.partReset, .bare .ok)
  | _ => (s, .bare .unknown)

/-- The room available to a command's data words: the free room less one word for its own header, one for
each command word of the frame that follows, and one if the frame has data words (R157). -/
def State.roomAvailable (s : State) (following : Nat) (hasData : Bool) : Nat :=
  s.freeRoom - (1 + following + (if hasData then 1 else 0))

/-- A command executes: FULL when its data words would not fit (R157), else by its own rule; it places
exactly one response header (R159). -/
def State.execCommand (s : State) (f : CommandFields) (args : List Word) (following : Nat) (hasData : Bool) : State :=
  let room := s.roomAvailable following hasData
  if room < s.dataNeed f then s.respond f.code (.bare .full)
  else (s.runCommand f args room).1.respond f.code (s.runCommand f args room).2

/-- The decoder has no pending command, and its age is 0. -/
def State.clearCommand (s : State) : State := { s with decoder := { s.decoder with command := none, age := 0 } }

/-- The decoder holds a pending command with the arguments gathered so far. -/
def State.holdCommand (s : State) (p : PendingCommand) : State := { s with decoder := { s.decoder with command := some p } }

/-- PART RESET's code. -/
def partResetCode : BitVec 6 := 21#6

/-- A command word is taken: as the next argument of the pending command, which executes when the argument
is its last, or as the start of a new command, which executes at once when it takes no argument (R147).
Answers whether a PART RESET was executed. -/
def State.takeWord (s : State) (w : Word) (following : Nat) (hasData : Bool) : State × Bool :=
  match s.decoder.command with
  | some p =>
    if argCount p.fields.code ≤ p.args.length + 1 then
      (s.clearCommand.execCommand p.fields (p.args ++ [w]) following hasData, false)
    else (s.holdCommand { p with args := p.args ++ [w] }, false)
  | none =>
    let f := commandFields w
    if argCount f.code = 0 then (s.execCommand f [] following hasData, decide (f.code = partResetCode))
    else (s.clearCommand.holdCommand { fields := f, args := [] }, false)

/-- The command words of a frame in payload order; those after a PART RESET are not taken (R144, R163). -/
def State.takeWords (s : State) (hasData : Bool) : List Word → State × Bool
  | [] => (s, false)
  | w :: ws =>
    match s.takeWord w ws.length hasData with
    | (s1, true) => (s1, true)
    | (s1, false) => s1.takeWords hasData ws

/-- The header need of a frame (R145). -/
def headerNeed (commands data : List Word) : Nat := commands.length + (if data.isEmpty then 0 else 1)

/-- A frame is turned away (R145). -/
def State.turnAway (s : State) : State :=
  { s with counters := { s.counters with turnedAway := raised s.counters.turnedAway 1 } }

/-- The data words of an executed frame, and its data report (R144, steps 3 and 4). -/
def State.takeData (s : State) (data : List Word) : State := (s.offerAll ⟨0, 0⟩ data).1.report (s.offerAll ⟨0, 0⟩ data).2

/-- A management frame at the decoder (R144): the room gate, the command words, the data words, the data
report. -/
def State.manage (s : State) (commands data : List Word) : State :=
  if s.freeRoom < headerNeed commands data then s.turnAway
  else
    match s.takeWords (!data.isEmpty) commands with
    | (s1, true) => s1
    | (s1, false) => s1.takeData data

/-- One data word at its owner, in a frame of its own: the room gate, the owner's act, the data report
(log entry 1, DESIGN CHOICE). -/
def State.manageWrite (s : State) (r : State × WriteOutcome) : State :=
  if s.freeRoom < 1 then s.turnAway else r.1.report (Tally.count ⟨0, 0⟩ r.2)

/-- While a command is pending, a valid servo frame raises its age; at 16 it is dropped and ARGUMENT
EXPIRED queued (R148). -/
def State.ageCommand (s : State) : State :=
  match s.decoder.command with
  | none => s
  | some p =>
    if Config.argumentAgeLimit ≤ s.decoder.age + 1 then s.clearCommand.notify .argumentExpired none p.fields.code.toNat
    else { s with decoder := { s.decoder with age := s.decoder.age + 1 } }

/-- ARGUMENT_EXPIRED (R148): the rise of a pending command's age to 16, and the command's drop. Where the
next rise would not reach 16, nothing changes (log entry 2, DESIGN CHOICE). -/
def execArgumentExpired (s : State) : Host.Outcome State Fault Refusal :=
  if s.decoder.command.isSome ∧ Config.argumentAgeLimit ≤ s.decoder.age + 1 then .next s.ageCommand else .next s

end Sys2Proof.Machine
end

