-- ==== Sys2Proof/Machine/Management.lean ====
section
/-! DEFINITION. The meanings of the management rows. A row is the decoder's handling of a management frame
that holds just the row's words (R144 to R164), up to the return frame, which is MANAGEMENT_FRAME's
(log entry 1, DESIGN CHOICE). -/

namespace Sys2Proof.Machine

/-- The words of a row's command, its arguments behind it, handled in a frame of their own. -/
def State.command (s : State) (code : BitVec 6) (lane : Lane) (imm : BitVec 9) (args : List Word) : State :=
  s.manage (commandWord code lane imm :: args) []

/-! ## Data words -/

/-- DATA_WORD (R151). -/
def execDataWord (value : Word) (s : State) : Host.Outcome State Fault Refusal := .next (s.manage [] [value])

/-- BANK_DATA_WORD (R23). -/
def execBankDataWord (n : SetNo) (w : WordNo) (value : Word) (s : State) : Host.Outcome State Fault Refusal :=
  .next (s.manageWrite (s.writeBankWord n w.val value))

/-- MAP_ENTRY_WRITE (R42). -/
def execMapEntryWrite (l : Lane) (addr : Fin 512) (value : Word) (s : State) : Host.Outcome State Fault Refusal :=
  .next (s.manageWrite (s.writeMap l addr.val value))

/-- FALLBACK_WRITE (R43). -/
def execFallbackWrite (l : Lane) (value : Word) (s : State) : Host.Outcome State Fault Refusal :=
  .next (s.manageWrite (s.writeFallback l value))

/-- LANE_PARAMETER_WRITE (R124). -/
def execLaneParameterWrite (l : Lane) (p : LaneParam) (value : Word) (s : State) : Host.Outcome State Fault Refusal :=
  .next (s.manageWrite (s.writeLaneParam l p value))

/-- COND_PARAMETER_WRITE (R8). -/
def execCondParameterWrite (p : CondParam) (value : Word) (s : State) : Host.Outcome State Fault Refusal :=
  .next (s.manageWrite (s.writeCond p value))

/-! ## Command words -/

/-- NOP (R161). -/
def execNop (s : State) : Host.Outcome State Fault Refusal := .next (s.command 0 .zero 0 [])

/-- UNDEFINED_CODE (R146, R161): a command word with the given code and its other fields. -/
def execUndefinedCode (code : BitVec 6) (l : Lane) (imm : BitVec 9) (s : State) : Host.Outcome State Fault Refusal :=
  .next (s.command code l imm [])

/-- POINT (R150). -/
def execPoint (imm : BitVec 9) (addr : Word) (s : State) : Host.Outcome State Fault Refusal :=
  .next (s.command 1 .zero imm [addr])

/-- READ (R153, R154). -/
def execRead (imm : BitVec 9) (s : State) : Host.Outcome State Fault Refusal := .next (s.command 2 .zero imm [])

/-- PATCH_OPEN (R155). -/
def execPatchOpen (s : State) : Host.Outcome State Fault Refusal := .next (s.command 3 .zero 0 [])

/-- PATCH_CLOSE (R155). -/
def execPatchClose (s : State) : Host.Outcome State Fault Refusal := .next (s.command 4 .zero 0 [])

/-- COMMIT_SET (R24, R25). -/
def execCommitSet (imm : BitVec 9) (s : State) : Host.Outcome State Fault Refusal := .next (s.command 5 .zero imm [])

/-- FREE_SET (R28). -/
def execFreeSet (imm : BitVec 9) (s : State) : Host.Outcome State Fault Refusal := .next (s.command 6 .zero imm [])

/-- UNFREEZE_SET (R32). -/
def execUnfreezeSet (imm : BitVec 9) (s : State) : Host.Outcome State Fault Refusal :=
  .next (s.command 7 .zero imm [])

/-- LANE_ENABLE (R114). -/
def execLaneEnable (l : Lane) (s : State) : Host.Outcome State Fault Refusal := .next (s.command 8 l 0 [])

/-- LANE_START (R115). -/
def execLaneStart (l : Lane) (s : State) : Host.Outcome State Fault Refusal := .next (s.command 9 l 0 [])

/-- LANE_STOP (R117). -/
def execLaneStop (l : Lane) (s : State) : Host.Outcome State Fault Refusal := .next (s.command 10 l 0 [])

/-- LANE_OFF (R118). -/
def execLaneOff (l : Lane) (s : State) : Host.Outcome State Fault Refusal := .next (s.command 11 l 0 [])

/-- ADAPT_WINDOW (R87). -/
def execAdaptWindow (l : Lane) (length : Word) (s : State) : Host.Outcome State Fault Refusal :=
  .next (s.command 12 l 0 [length])

/-- PROBE_START (R97, R98). -/
def execProbeStart (l : Lane) (length amplitude : Word) (s : State) : Host.Outcome State Fault Refusal :=
  .next (s.command 13 l 0 [length, amplitude])

/-- PROBE_STOP (R106). -/
def execProbeStop (l : Lane) (s : State) : Host.Outcome State Fault Refusal := .next (s.command 14 l 0 [])

/-- TRANSFER_START (R166, R167). -/
def execTransferStart (first second : Word) (s : State) : Host.Outcome State Fault Refusal :=
  .next (s.command 15 .zero 0 [first, second])

/-- TRANSFER_ABORT (R175). -/
def execTransferAbort (s : State) : Host.Outcome State Fault Refusal := .next (s.command 16 .zero 0 [])

/-- TRANSFER_STATUS (R176). -/
def execTransferStatus (s : State) : Host.Outcome State Fault Refusal := .next (s.command 17 .zero 0 [])

/-- FETCH_NOTICES (R162, R180). -/
def execFetchNotices (imm : BitVec 9) (s : State) : Host.Outcome State Fault Refusal :=
  .next (s.command 18 .zero imm [])

/-- POLL (R181). -/
def execPoll (s : State) : Host.Outcome State Fault Refusal := .next (s.command 19 .zero 0 [])

/-- COUNTERS_CLEAR (R183). -/
def execCountersClear (s : State) : Host.Outcome State Fault Refusal := .next (s.command 20 .zero 0 [])

/-- PART_RESET (R163). -/
def execPartReset (s : State) : Host.Outcome State Fault Refusal := .next (s.command 21 .zero 0 [])

end Sys2Proof.Machine
end

