-- ==== Sys2Proof/Machine/Link.lean ====
section
/-! DEFINITION. The Link Interface (spec/08_servo_link_and_frame_formats.md): a downstream frame from its
reception to its return frame, the servo frame path with the stages of chapters 7, 1, 3, 4, 6 and 5, and
the drive and return frames. -/

namespace Sys2Proof.Machine

/-! ## Drive and return frames (R135, R137 to R139) -/

/-- What a return frame says of the frame it answers (R137). -/
structure Echo where
  kind : Nat
  lane : Lane
  status : OutStatus
  linkError : Bool
  wedge : Word
  correction : Word
  deriving DecidableEq, Repr

/-- The echo of a management frame (R137). -/
def Echo.management : Echo := ⟨2, .zero, .bypass, false, 0, 0⟩

/-- The echo of a discarded frame (R137, R139). -/
def Echo.discarded : Echo := ⟨0, .zero, .bypass, true, 0, 0⟩

/-- The header word of a return frame (R142). -/
def returnHeader (e : Echo) (attention : Bool) (payload : List QueuedWord) : Word :=
  natWord (e.kind * 16384 + e.lane.toNat * 8192 + e.status.code * 2048 + (if attention then 1024 else 0)
    + (if e.linkError then 512 else 0) + payload.length * 64 + transferMarks payload)

/-- The words of a return frame: header, wedge index, correction applied, payload, check (section 8.1). -/
def returnWords (e : Echo) (attention : Bool) (payload : List QueuedWord) : List Word :=
  sealFrame (returnHeader e attention payload :: e.wedge :: e.correction :: payload.map QueuedWord.word)

/-- The return frame is built and sent: up to four words leave the head of the Response Queue as its payload,
and the attention flag shows the Notice Queue as it stands (R137 to R139). -/
def State.sendReturn (s : State) (e : Echo) : State :=
  { s with
    responses := s.responses.drop Config.payloadMax
    ports :=
      { s.ports with
        upstream := s.ports.upstream ++ [returnWords e s.notices.attention (s.responses.take Config.payloadMax)]
        upstreamBegun := true } }

/-- The words of a drive frame: lane and status, wedge index, output command, check (R135, R142). -/
def driveWords (l : Lane) (st : OutStatus) (wedge output : Word) : List Word :=
  sealFrame [natWord (l.toNat * 4 + st.code), wedge, output]

/-- The drive frame of a servo frame is sent (R135). -/
def State.sendDrive (s : State) (l : Lane) (st : OutStatus) (wedge output : Word) : State :=
  { s with ports := { s.ports with drive := s.ports.drive ++ [driveWords l st wedge output], driveBegun := true } }

/-! ## The servo frame path (R123, R134) -/

/-- The frame is counted in servo frame time, which advances the argument age and the wait (R134, R148,
R168), in that order and before the lane path (log entry 10, DEDUCED); no rule reads the total (log entry 11, DESIGN
CHOICE). -/
def State.countFrame (s : State) : State :=
  ({ s with link := { s.link with frameTime := s.link.frameTime + 1 } }).ageCommand.countWait

/-- The Cancellation Filter, the Probe Unit and the Adaptation Unit on a frame that resolved `found`, with the
engine's movements between them, and the drive frame (R57, R65, R100, R75, R135). A lane fault that the
frame causes follows its stages (R71). -/
def State.correctFrame (s : State) (f : ServoFields) (slots : EngineSlots) (found : Option (SetNo × Route)) :
    State × Decision :=
  let (s1, d) := s.decideFrame f found
  let s2 := s1.engineMoves slots.afterFilter
  let sum := outputSum f.input d.correction (s2.frameProbe f)
  let s3 := ((s2.probeFrame f).formOutput f.lane sum).engineMoves slots.afterProbe
  let s4 := (s3.adaptFrame f found d (s2.stepsProbe f)).engineMoves slots.afterAdaptation
  ((s4.sendDrive f.lane d.status f.wedge (sat16 sum)).checkFault f.lane, d)

/-- The lane path of a servo frame: Lane Controller, Reference Conditioner, Set Selector, then the filter, the
probe and the adaptation (R123, R134). -/
def State.lanePath (s : State) (f : ServoFields) (slots : EngineSlots) : State × Decision :=
  let (s1, v) := s.judgeWedge f.lane f.wedge
  let s2 := (s1.engineMoves slots.afterLaneControl).conditionFrame f.lane v f.input
  let (s3, found) := (s2.engineMoves slots.afterConditioner).selectFrame f
  (s3.engineMoves slots.afterSelector).correctFrame f slots found

/-- A valid servo frame: counted, taken through its lane path, answered by its return frame (R130, R134, R137). -/
def State.servoFrame (s : State) (f : ServoFields) (slots : EngineSlots) : State :=
  let (s1, d) := s.countFrame.lanePath f slots
  s1.sendReturn ⟨1, f.lane, d.status, false, f.wedge, d.correction⟩

/-! ## Downstream frames (R130, R133, R136) -/

/-- A valid management frame: handled by the decoder, then answered by its return frame (R136). -/
def State.managementFrame (s : State) (commands data : List Word) : State :=
  (s.manage commands data).sendReturn .management

/-- A discarded frame: counted, reported, and answered by its return frame, which already carries the
attention flag (R133). -/
def State.discardFrame (s : State) (cause : DiscardCause) : State :=
  (({ s with counters := { s.counters with linkCheck := raised s.counters.linkCheck 1 } }).notify .linkCheck none
    cause.detail).sendReturn .discarded

/-- A downstream frame received in full is the frame under reception while it is handled (section 8, R141). -/
def State.hold (s : State) (words : List Word) : State := { s with link := { s.link with receiving := words } }

/-- A downstream frame received in full is checked, then routed or discarded (R130, R132). -/
def State.downstream (s : State) (words : List Word) (slots : EngineSlots) : State :=
  (match receive words with
    | .servo f => (s.hold words).servoFrame f slots
    | .management commands data => (s.hold words).managementFrame commands data
    | .discarded cause => (s.hold words).discardFrame cause).hold []

/-- SERVO_FRAME (R134). The words are handled as what the checks of R132 make of them (log entry 5, DESIGN CHOICE). -/
def execServoFrame (words : List Word) (slots : EngineSlots) (s : State) : Host.Outcome State Fault Refusal :=
  .next (s.downstream words slots)

/-- MANAGEMENT_FRAME (R144). The words are handled as what the checks of R132 make of them (log entry 5, DESIGN CHOICE). -/
def execManagementFrame (words : List Word) (s : State) : Host.Outcome State Fault Refusal :=
  .next (s.downstream words .none)

/-- DISCARDED_FRAME (R133). The words are handled as what the checks of R132 make of them (log entry 5, DESIGN CHOICE). -/
def execDiscardedFrame (words : List Word) (s : State) : Host.Outcome State Fault Refusal :=
  .next (s.downstream words .none)

end Sys2Proof.Machine
end

