-- ==== Sys2Proof/Machine/Dispatch.lean ====
section
/-! DEFINITION. Every command's meaning, one arm per constructor of Instr. -/

namespace Sys2Proof.Machine

def exec (i : Instr) (s : State) : Host.Outcome State Fault Refusal :=
  match i with
  | .powerOnReset cutShort => Sys2Proof.Machine.execPowerOnReset cutShort s
  | .sensorFrame words => Sys2Proof.Machine.execSensorFrame words s
  | .servoFrame words slots => Sys2Proof.Machine.execServoFrame words slots s
  | .referenceLost l => Sys2Proof.Machine.execReferenceLost l s
  | .primingComplete l => Sys2Proof.Machine.execPrimingComplete l s
  | .campaignDone l => Sys2Proof.Machine.execCampaignDone l s
  | .divergenceRollback l => Sys2Proof.Machine.execDivergenceRollback l s
  | .windowClose l => Sys2Proof.Machine.execWindowClose l s
  | .laneFault l => Sys2Proof.Machine.execLaneFault l s
  | .argumentExpired => Sys2Proof.Machine.execArgumentExpired s
  | .transferTimeout => Sys2Proof.Machine.execTransferTimeout s
  | .discardedFrame words => Sys2Proof.Machine.execDiscardedFrame words s
  | .managementFrame words => Sys2Proof.Machine.execManagementFrame words s
  | .dataWord value => Sys2Proof.Machine.execDataWord value s
  | .bankDataWord n w value => Sys2Proof.Machine.execBankDataWord n w value s
  | .mapEntryWrite l addr value => Sys2Proof.Machine.execMapEntryWrite l addr value s
  | .fallbackWrite l value => Sys2Proof.Machine.execFallbackWrite l value s
  | .laneParameterWrite l p value => Sys2Proof.Machine.execLaneParameterWrite l p value s
  | .condParameterWrite p value => Sys2Proof.Machine.execCondParameterWrite p value s
  | .nop => Sys2Proof.Machine.execNop s
  | .undefinedCode code l imm => Sys2Proof.Machine.execUndefinedCode code l imm s
  | .point imm addr => Sys2Proof.Machine.execPoint imm addr s
  | .read imm => Sys2Proof.Machine.execRead imm s
  | .patchOpen => Sys2Proof.Machine.execPatchOpen s
  | .patchClose => Sys2Proof.Machine.execPatchClose s
  | .commitSet imm => Sys2Proof.Machine.execCommitSet imm s
  | .freeSet imm => Sys2Proof.Machine.execFreeSet imm s
  | .unfreezeSet imm => Sys2Proof.Machine.execUnfreezeSet imm s
  | .laneEnable l => Sys2Proof.Machine.execLaneEnable l s
  | .laneStart l => Sys2Proof.Machine.execLaneStart l s
  | .laneStop l => Sys2Proof.Machine.execLaneStop l s
  | .laneOff l => Sys2Proof.Machine.execLaneOff l s
  | .adaptWindow l length => Sys2Proof.Machine.execAdaptWindow l length s
  | .probeStart l length amplitude => Sys2Proof.Machine.execProbeStart l length amplitude s
  | .probeStop l => Sys2Proof.Machine.execProbeStop l s
  | .transferStart first second => Sys2Proof.Machine.execTransferStart first second s
  | .transferAbort => Sys2Proof.Machine.execTransferAbort s
  | .transferStatus => Sys2Proof.Machine.execTransferStatus s
  | .fetchNotices imm => Sys2Proof.Machine.execFetchNotices imm s
  | .poll => Sys2Proof.Machine.execPoll s
  | .countersClear => Sys2Proof.Machine.execCountersClear s
  | .partReset => Sys2Proof.Machine.execPartReset s
  | .wordMovement => Sys2Proof.Machine.execWordMovement s
  | .blockHeaderAppend => Sys2Proof.Machine.execBlockHeaderAppend s
  | .blockTrailerAppend => Sys2Proof.Machine.execBlockTrailerAppend s
  | .sweepExamine => Sys2Proof.Machine.execSweepExamine s
  | .wordDisturbed n w place second => Sys2Proof.Machine.execWordDisturbed n w place second s

end Sys2Proof.Machine
end

