-- ==== Sys2Proof/Safety.lean ====
section
/-! DEFINITION. The words claims are stated in: what holds of the state of the part after every command.
Each is a decidable property of the state alone, and each names the rules of spec/ that ask for it. -/

namespace Sys2Proof.Machine

/-! ## How the block answers -/

/-- The decoder takes the first word of a management frame of `k` command words as a new command: none is
pending, and the Response Queue has room for the frame's header need (R145, R147). The age of no command is
0 (R148). -/
abbrev State.accepts (s : State) (k : Nat) : Prop :=
  s.decoder.command = none ∧ s.decoder.age = 0 ∧ s.responses.length + k ≤ 32

/-- The state with a command's answer queued: a response header of type 0, with the command's code, its result
(0 OK, 1 STATE, 2 RANGE, 3 FULL, 4 BUSY, 6 UNKNOWN, 7 DATA ERROR) and the count of words that follow, then
those words (R143, R159). -/
def State.answered (s : State) (code result : Nat) (data : List Word) : State :=
  { s with responses :=
      s.responses ++ (BitVec.ofNat 16 (code * 256 + result * 32 + data.length) :: data).map (QueuedWord.mk .command) }

/-- The state with a frame's data report queued: a header of type 1 with the refused and clamped data words, when
there are any (R143, R152). -/
def State.reported (s : State) (refused clamped : Nat) : State :=
  if refused = 0 ∧ clamped = 0 then s
  else { s with responses := s.responses ++ [⟨.command, BitVec.ofNat 16 (16384 + refused * 16 + clamped)⟩] }

/-! ## What stored words say -/

/-- The stored word at a BANK address (R21). -/
def State.bankAt (s : State) (a : Nat) : Cell := Memory.read Cell.zero s.bank.words a

/-- The range the commit clamping brings a set word into, the set's WL word holding `limit` (R25): the table for a
header word, every signed-16 value for the words that have no range, and ±WL, WL clamped, for a tap. -/
def commitRange (limit : Int) (w : Nat) : Int × Int :=
  match w with
  | 0 => (0, 32)
  | 1 => (0, 8)
  | 2 => (0, 15)
  | 3 => (0, 32767)
  | 4 => (0, 15)
  | 5 => (0, 15)
  | 6 => (0, 15)
  | 7 => (-32768, 32767)
  | 8 => (0, 32767)
  | 9 => (1, 32767)
  | _ => (-(max 0 limit), max 0 limit)

/-- A value brought to the nearest end of a range. -/
def inRange (r : Int × Int) (x : Int) : Int := max r.1 (min x r.2)

/-- The notices that checked reads of stored words of a set queue, in the order of the reads: STORAGE CORRECTED for a
single error (R35), SET QUARANTINED for a double error, but none when the set is FREE (R36). -/
def NoticeQueue.afterReads (q : NoticeQueue) (n : SetNo) (free : Bool) : List Cell → NoticeQueue
  | [] => q
  | c :: cs =>
    (if c.flipped.length = 1 then q.add .storageCorrected none n.val
      else if 2 ≤ c.flipped.length ∧ free = false then q.add .setQuarantined none n.val
      else q).afterReads n free cs

/-- The notices that checked reads of a waiting COPY's source queue, in the order of the reads: as `afterReads`, and
right after the SET QUARANTINED of the first double error the TRANSFER DONE with detail 3, NOT READY, of the COPY that
it ends (R168, R174; log entry 12, DEDUCED). -/
def NoticeQueue.afterSourceReads (q : NoticeQueue) (n : SetNo) : List Cell → NoticeQueue
  | [] => q
  | c :: cs =>
    if 2 ≤ c.flipped.length then ((q.add .setQuarantined none n.val).add .transferDone none 3).afterReads n false cs
    else (q.afterReads n false [c]).afterSourceReads n cs

/-- The single errors, and the double errors, among stored words. -/
def singles (cs : List Cell) : Nat := (cs.filter fun c => decide (c.flipped.length = 1)).length
def doubles (cs : List Cell) : Nat := (cs.filter fun c => decide (2 ≤ c.flipped.length)).length

/-- A stored word after a checked read: a single error has been corrected, any other word is as it was (R35, R36). -/
def Cell.afterRead (c : Cell) : Cell := if c.flipped.length = 1 then { c with flipped := [] } else c

/-- The stored words of a set from word `w` on. -/
def State.cells (s : State) (n : SetNo) (w k : Nat) : List Cell := (List.range k).map fun i => s.bankAt (n.val * 64 + w + i)

/-- A 16-bit counter after `k` rises of one: it stays at 65535 (R182). -/
def raisedBy (c k : Nat) : Nat := if k = 0 then c else min 65535 (c + k)

/-- The lane is in OFF or STANDBY, where its parameters may be written. -/
abbrev LaneState.atRest (x : LaneState) : Prop := x.control.mode = .off ∨ x.control.mode = .standby

/-- A lane that has lost its current set, in its lane state (R51, R58, R90). -/
def LaneState.withoutSet (x : LaneState) : LaneState :=
  { x with
    selection := { x.selection with current := none, route := .none }
    filter := { x.filter with held := 0 }
    adapt := { x.adapt with shadow := none, divergence := 0 } }

/-- The record of a set after the name of a lane changed from `old` to `new` (R42). -/
def SetRecord.renamed (r : SetRecord) (n : SetNo) (l : Lane) (old new : Option SetNo) : SetRecord :=
  if old = new then r
  else if old = some n then
    { r with refCount := r.refCount - 1, owner := if r.refCount ≤ 1 then none else r.owner }
  else if new = some n then
    { r with refCount := r.refCount + 1, owner := if r.refCount = 0 then some l else r.owner }
  else r

/-! ## What every command keeps -/

/-- The addressed stores stand in their one canonical form: the bank's words and both selection maps. -/
abbrev State.storesCanonical (s : State) : Prop :=
  Memory.wf Cell.zero s.bank.words = true
    ∧ Memory.wf (none : Option SetNo) s.lane0.selection.map = true
    ∧ Memory.wf (none : Option SetNo) s.lane1.selection.map = true

/-- The Response Queue holds at most 32 words (R156), at most 24 of them transfer words (R158). -/
abbrev State.responsesBounded (s : State) : Prop := s.responses.length ≤ 32 ∧ s.transferWords ≤ 24

/-- The Notice Queue holds at most 16 records, no two of the same kind, lane and detail, each with a repeat
count from 1 to 255, and a lost count up to 255 (R178, R179). -/
abbrev NoticeQueue.sound (q : NoticeQueue) : Prop :=
  q.records.length ≤ 16 ∧ q.lost ≤ 255
    ∧ (∀ r ∈ q.records, 1 ≤ r.repeats ∧ r.repeats ≤ 255)
    ∧ q.records.Pairwise fun a b => ¬(a.kind = b.kind ∧ a.lane = b.lane ∧ a.detail = b.detail)

/-- Every counter of the COUNTERS region is at most 65535 (R182). -/
abbrev State.countersBounded (s : State) : Prop := ∀ c ∈ s.counterList, c ≤ 65535

/-- The conditioner's part-wide values are in range: the baseline (R3), the hysteresis (R8), and the current
band while the temperature is unknown (R7). -/
abbrev Conditioner.sound (c : Conditioner) : Prop :=
  -8388608 ≤ c.baseline ∧ c.baseline ≤ 8388352 ∧ c.params.hysteresis ≤ 255
    ∧ (c.temperature = none → c.band = c.params.startBand)

/-- A lane's counts are in range: R11, R13, R17, R70 and R127 (a run of 32 is never left standing), R91. -/
abbrev LaneState.countsInRange (x : LaneState) : Prop :=
  x.reference.staleCount ≤ 1023 ∧ x.reference.settle ≤ 64 ∧ x.control.fill ≤ 64
    ∧ x.filter.saturationRun ≤ 31 ∧ x.adapt.divergence ≤ 63 ∧ x.adapt.window ≤ 65535

/-- A lane's parameters are in range (section 7.4), and its wedge expectation is below WPR (R120). -/
abbrev LaneState.paramsInRange (x : LaneState) : Prop :=
  x.control.alignment ≤ 15 ∧ 1 ≤ x.control.wedgesPerRev ∧ x.control.wedgesPerRev ≤ 1024
    ∧ 1 ≤ x.control.staleLimit ∧ x.control.staleLimit ≤ 255 ∧ x.control.holdLength ≤ 255
    ∧ x.adapt.pesGate ≤ 32767 ∧ ∀ e ∈ x.control.expectation, e < x.control.wedgesPerRev

/-- A lane's campaign record is in range (chapter 6): a RUNNING campaign has steps left to take (R105), the
generator never reaches 0 (R99), the history holds at most 16 signs (R103), the accumulators are signed
32-bit values (R104). -/
abbrev Campaign.sound (c : Campaign) : Prop :=
  c.requested ≤ 65535 ∧ c.done ≤ c.requested ∧ (c.state = .running → c.done < c.requested)
    ∧ c.amplitude ≤ 4095 ∧ 1 ≤ c.generator ∧ c.generator ≤ 127 ∧ c.signs.length ≤ 16
    ∧ ∀ x ∈ c.correlations.toList, -2147483648 ≤ x ∧ x ≤ 2147483647

/-- Everything a lane counts or is set to is in range. -/
abbrev State.lanesInRange (s : State) : Prop :=
  (s.lane0.countsInRange ∧ s.lane0.paramsInRange ∧ s.lane0.campaign.sound)
    ∧ s.lane1.countsInRange ∧ s.lane1.paramsInRange ∧ s.lane1.campaign.sound

/-- A pointer is at a word that exists, or stopped one past the last (R149, R150). -/
abbrev Pointer.sound (p : Pointer) : Prop := p.addr ≤ p.stop ∧ (p.region = .bank → p.addr / 64 < 48)

/-- The decoder's values are in range: the pointer and the patch origin, a pending command that still awaits
an argument (R147), an argument age below 16 that is 0 while no command is pending (R148). -/
abbrev Decoder.sound (d : Decoder) : Prop :=
  d.pointer.sound ∧ (∀ p ∈ d.origin, p.sound)
    ∧ (∀ c ∈ d.command, c.args.length < argCount c.fields.code)
    ∧ d.age ≤ 15 ∧ (d.command = none → d.age = 0)

/-- The hold a set is under, as the transfer record gives it: the engine's holds stand from the start of a
transfer to its end, and a SWEEP's on each set from its examination to its trailer (R33, R173). -/
def State.holdInUse (s : State) (n : SetNo) : Hold :=
  if s.transfer.busy = false then .none
  else if s.transfer.mode = .copy ∧ s.transfer.destination = some n then .destination
  else if s.transfer.current = some n ∧ (s.transfer.mode = .sweep → s.transfer.phase ≠ .examine) then .source
  else .none

/-- The transfer record and the holds agree (R33); only a SWEEP examines sets (R173); an engine that waits has a
LOADING source and a wait count below 4096 (R168); a COPY's words issued and remaining make 50 (R169), and
its destination is neither READY nor LIVE nor FREE (R29, R170). -/
abbrev State.transferCoherent (s : State) : Prop :=
  (∀ n : SetNo, (s.record n).hold = s.holdInUse n)
    ∧ (s.transfer.busy = true → s.transfer.phase = .examine → s.transfer.mode = .sweep)
    ∧ (s.transfer.state = .waiting →
        s.transfer.waitCount ≤ 4095 ∧ s.transfer.mode ≠ .sweep
          ∧ ∃ n : SetNo, s.transfer.current = some n ∧ (s.record n).state = .loading)
    ∧ (s.transfer.busy = true → s.transfer.mode = .copy →
        s.transfer.word + s.transfer.remaining = 50 ∧ 1 ≤ s.transfer.remaining
          ∧ ∃ d : SetNo, s.transfer.destination = some d
              ∧ ((s.record d).state = .loading ∨ (s.record d).state = .quarantined))

/-- A lane's service is coherent: no current set outside RUNNING, with nothing left of the departure (R52,
R55, R70, R88, R96); a shadow of 40 taps exactly while there is a current set, taken from it, with a
route (R90, R54). -/
abbrev LaneState.inService (x : LaneState) : Prop :=
  (x.control.mode ≠ .running →
      x.selection.current = none ∧ x.filter.saturationRun = 0 ∧ x.adapt.window = 0 ∧ x.campaign.state ≠ .running)
    ∧ (x.selection.current = none → x.filter.held = 0 ∧ x.adapt.divergence = 0)
    ∧ (x.selection.route = .none ↔ x.selection.current = none)
    ∧ x.adapt.shadow.map Shadow.set = x.selection.current
    ∧ ∀ h ∈ x.adapt.shadow, h.taps.length = 40

/-- A set is LIVE exactly when it is the current set of a lane in RUNNING, and of one lane only (R26, R44). -/
abbrev State.serviceCoherent (s : State) : Prop :=
  s.lane0.inService ∧ s.lane1.inService
    ∧ (∀ n : SetNo, (s.record n).state = .live ↔
        s.lane0.selection.current = some n ∨ s.lane1.selection.current = some n)
    ∧ (s.lane0.selection.current = none ∨ s.lane0.selection.current ≠ s.lane1.selection.current)

/-- The names a lane has for a set: its map entries and its fallback setting that name it (R34). -/
def Selection.names (x : Selection) (n : SetNo) : Nat :=
  (x.map.filter fun e => decide (e.2 = some n)).length + (if x.fallback = some n then 1 else 0)

/-- The reference count of a set is the number of names it has, its owner the lane whose names they are, and
no set is named by both lanes (R34, R44). -/
abbrev State.namesCounted (s : State) : Prop :=
  ∀ n : SetNo,
    (s.record n).refCount = s.lane0.selection.names n + s.lane1.selection.names n
      ∧ (s.record n).owner =
          (if 0 < s.lane0.selection.names n then some .zero
            else if 0 < s.lane1.selection.names n then some .one else none)
      ∧ (s.lane0.selection.names n = 0 ∨ s.lane1.selection.names n = 0)

/-- A lane as a departure from RUNNING leaves it, for the lane state that its cause gives (R113). -/
def LaneState.departed (x : LaneState) (next : LaneMode) : LaneState :=
  { x with
    selection := { x.selection with current := none, route := .none }
    filter := { held := 0, saturationRun := 0 }
    adapt := { x.adapt with window := 0, shadow := none, divergence := 0 }
    campaign := if x.campaign.state = .running then { x.campaign with state := .aborted } else x.campaign
    control := { x.control with mode := next } }

/-- The notices a lane's departure queues after the one of its cause: WINDOW DONE with detail 1 when a window was
open, then PROBE ABORTED when a campaign was RUNNING (R113, R88, R107). -/
def NoticeQueue.afterDeparture (q : NoticeQueue) (l : Lane) (x : LaneState) (detail : Nat) : NoticeQueue :=
  let q1 := if 0 < x.adapt.window then q.add .windowDone (some l) 1 else q
  if x.campaign.state = .running then q1.add .probeAborted (some l) detail else q1

/-- The records of the sets when a lane lets its current set go: READY if it was LIVE (R27). -/
def State.recordReleased (s : State) (l : Lane) (n : SetNo) : SetRecord :=
  if (s.lane l).selection.current = some n ∧ (s.record n).state = .live then { s.record n with state := .ready }
  else s.record n

/-- The stored value of a header or tap word, as a signed number. -/
def State.wordInt (s : State) (n : SetNo) (w : Nat) : Int := (s.cell n w).value.toInt

/-- A set's header fields lie in the ranges of section 2.1. -/
abbrev State.headerInRange (s : State) (n : SetNo) : Prop :=
  (0 ≤ s.wordInt n 0 ∧ s.wordInt n 0 ≤ 32) ∧ (0 ≤ s.wordInt n 1 ∧ s.wordInt n 1 ≤ 8)
    ∧ (0 ≤ s.wordInt n 2 ∧ s.wordInt n 2 ≤ 15) ∧ 0 ≤ s.wordInt n 3
    ∧ (0 ≤ s.wordInt n 4 ∧ s.wordInt n 4 ≤ 15) ∧ (0 ≤ s.wordInt n 5 ∧ s.wordInt n 5 ≤ 15)
    ∧ (0 ≤ s.wordInt n 6 ∧ s.wordInt n 6 ≤ 15) ∧ 0 ≤ s.wordInt n 8 ∧ 1 ≤ s.wordInt n 9

/-- Every tap of a READY or LIVE set lies within ±WL, and its header in range (R30); so do a lane's shadow
taps, of the set they were taken from (R89). -/
abbrev State.setsInRange (s : State) : Prop :=
  (∀ n : SetNo, (s.record n).state = .ready ∨ (s.record n).state = .live →
      s.headerInRange n ∧ ∀ k < 40, |s.wordInt n (10 + k)| ≤ s.wordInt n 8)
    ∧ (∀ h ∈ s.lane0.adapt.shadow, ∀ v ∈ h.taps, |v.toInt| ≤ s.wordInt h.set 8)
    ∧ ∀ h ∈ s.lane1.adapt.shadow, ∀ v ∈ h.taps, |v.toInt| ≤ s.wordInt h.set 8

end Sys2Proof.Machine
end

