-- ==== Sys2Proof/Certificates/Slice0/Obligations.lean ====
section
/-! DEFINITION. The statements about the model, from the numbered rules of spec/. -/

open Sys2Proof Sys2Proof.Machine

/-! ## The step and the resets -/

/-- A step takes the command at the front of the queue of waiting commands and is that command's effect, with the
rest of the queue waiting. On an empty queue the block idles: the model's choice (log entry 9). -/
def Obligations.StepRunsTheFrontCommand : Prop :=
  (∀ (c : Instr) (rest : List Instr) (s : State), s.pending = c :: rest → step s = exec c { s with pending := rest })
    ∧ ∀ s : State, s.pending = [] → step s = .next s

/-- Every command completes, whatever the state and its operands, and leaves the queue of waiting commands alone:
no event of the spec stops the part. That POWER_ON_RESET leaves the queue alone (log entry 15), and that event rows
and engine rows complete where they are not due (log entries 2 and 3), are the model's choices. -/
def Obligations.EveryCommandCompletes : Prop :=
  ∀ (c : Instr) (s : State), ∃ t, exec c s = .next t ∧ t.pending = s.pending

/-- A power-on reset returns every block to the power-on values of the tables of R9, R20, R54, R74, R95, R111,
R129, R164 and R165, and abandons the frame under reception (R141). The values of the bank are
`PowerOnResetClearsTheBank`'s. No frame leaves for it, and a frame begun on an outgoing port is not completed: it ends
after the words that had left (R141). That a port's words are kept (log entry 8), that the operand says how far the last
frame had come (log entry 16), and that the queue of waiting commands stays (log entry 15) are the model's choices. -/
def Obligations.PowerOnResetReturnsEveryBlock : Prop :=
  ∀ (cut : CutShort) (s : State), ∃ t, exec (.powerOnReset cut) s = .next t
    ∧ t.cond =
        { params :=
            { negative1 := false, negative2 := false, trim1 := 16384, trim2 := 16384, threshold1 := 480
              threshold2 := 640, threshold3 := 800, hysteresis := 32, startBand := 1, retain := true }
          baseline := 0, sample := 0, temperature := none, band := 1, expectation := none }
    ∧ (∀ l : Lane,
        (t.lane l).reference =
            { ring := Vector.replicate 64 0, sibling := Vector.replicate 24 0, fresh := false, staleCount := 0
              status := .good, settle := 0 }
          ∧ (t.lane l).selection = { map := [], fallback := none, band := 1, current := none, route := .none }
          ∧ (t.lane l).filter = { held := 0, saturationRun := 0 }
          ∧ (t.lane l).adapt = { mode := .off, pesGate := 4096, window := 0, shadow := none, divergence := 0 }
          ∧ (t.lane l).campaign =
              { state := .idle, requested := 0, done := 0, amplitude := 0, generator := 127, signs := []
                correlations := Vector.replicate 16 0 }
          ∧ (t.lane l).control =
              { mode := .off, alignment := 2, wedgesPerRev := 504, seekFeedForward := false, staleLimit := 4
                holdLength := 16, expectation := none, fill := 0 })
    ∧ t.decoder = { pointer := { region := .bank, lane := .zero, addr := 0 }, origin := none, command := none, age := 0 }
    ∧ t.responses = [] ∧ t.notices = { records := [], lost := 0 } ∧ (∀ c ∈ t.counterList, c = 0)
    ∧ (t.transfer.state = .idle ∧ t.transfer.mode = .copy ∧ t.transfer.skipBad = false ∧ t.transfer.waitBusy = false
        ∧ t.transfer.outcome = none ∧ t.transfer.remaining = 0 ∧ t.transfer.current = none ∧ t.transfer.word = 0
        ∧ t.transfer.badWords = 0 ∧ t.transfer.waitCount = 0 ∧ t.transfer.setBadWords = 0)
    ∧ t.link.receiving = [] ∧ t.ports.driveBegun = false ∧ t.ports.upstreamBegun = false
    ∧ (s.ports.driveBegun = false ∨ cut.drive = none → t.ports.drive = s.ports.drive)
    ∧ (s.ports.upstreamBegun = false ∨ cut.upstream = none → t.ports.upstream = s.ports.upstream)
    ∧ (∀ (before : List (List Word)) (f : List Word) (k : Nat), s.ports.driveBegun = true → cut.drive = some k →
        s.ports.drive = before ++ [f] → t.ports.drive = before ++ [f.take k])
    ∧ (∀ (before : List (List Word)) (f : List Word) (k : Nat), s.ports.upstreamBegun = true → cut.upstream = some k →
        s.ports.upstream = before ++ [f] → t.ports.upstream = before ++ [f.take k])
    ∧ t.pending = s.pending

/-- R39: after a power-on reset every bank word is 0 with valid check information, so its first read finds it
clean; every set is FREE, not frozen, not held, named by none; both storage counters are 0. -/
def Obligations.PowerOnResetClearsTheBank : Prop :=
  ∀ (cut : CutShort) (s : State), ∃ t, exec (.powerOnReset cut) s = .next t
    ∧ (∀ (n : SetNo) (w : WordNo), t.readWord n w.val = (t, some 0))
    ∧ (∀ n : SetNo, t.record n = { state := .free, frozen := false, hold := .none, refCount := 0, owner := none })
    ∧ t.counters.storageCorrection = 0 ∧ t.counters.storageError = 0

/-- PART RESET returns the lanes, the selector, the conditioner, the filter, the adaptation unit, the probe unit,
the bank, the transfer engine, both queues, the decoder and every counter to their part-reset values, and leaves
its own response header alone in the Response Queue (R163, with the tables of R9, R20, R40, R54, R74, R95, R111,
R129, R164, R177). That the row runs by itself, without a return frame (log entry 20), that servo frame time is kept
(log entry 11), and that the record of frames sent is kept (log entry 8) are the model's choices. -/
def Obligations.PartResetReturnsEveryBlock : Prop :=
  ∀ s : State, s.accepts 1 → ∃ t, exec .partReset s = .next t
    ∧ t.responses = [⟨.command, BitVec.ofNat 16 (21 * 256)⟩]
    ∧ t.notices = { records := [], lost := 0 } ∧ (∀ c ∈ t.counterList, c = 0)
    ∧ t.decoder = { pointer := { region := .bank, lane := .zero, addr := 0 }, origin := none, command := none, age := 0 }
    ∧ t.cond.params = (if s.cond.params.retain then s.cond.params else Conditioner.reset.params)
    ∧ t.cond.baseline = 0 ∧ t.cond.sample = 0 ∧ t.cond.expectation = none ∧ t.cond.temperature = s.cond.temperature
    ∧ t.cond.band = (if s.cond.temperature = none then t.cond.params.startBand else s.cond.band)
    ∧ (∀ l : Lane,
        (t.lane l).reference = Reference.reset
          ∧ (t.lane l).selection = { (s.lane l).selection with band := t.cond.band, current := none, route := .none }
          ∧ (t.lane l).filter = { held := 0, saturationRun := 0 }
          ∧ (t.lane l).adapt =
              { mode := if s.cond.params.retain then (s.lane l).adapt.mode else .off
                pesGate := if s.cond.params.retain then (s.lane l).adapt.pesGate else 4096
                window := 0, shadow := none, divergence := 0 }
          ∧ (t.lane l).campaign = { (s.lane l).campaign with state := .idle, generator := 127, signs := [] }
          ∧ (t.lane l).control =
              { (if s.cond.params.retain then (s.lane l).control else Control.reset) with
                mode := .off, expectation := none, fill := 0 })
    ∧ t.bank.words = s.bank.words
    ∧ (∀ n : SetNo, t.record n =
        { s.record n with
          state := if (s.record n).state = .live then .ready else (s.record n).state, hold := .none })
    ∧ t.transfer = Transfer.reset
    ∧ t.link = s.link ∧ t.ports = s.ports ∧ t.pending = s.pending

/-! ## Commands without effect on a block (R161) -/

/-- R161: NOP answers OK and changes nothing, and is what a word of 0 taken as a command does; an undefined code
answers UNKNOWN with its code echoed, takes no argument, so that no command is pending after it, and changes
nothing. Neither is answered FULL, with room for no more than the header. -/
def Obligations.NopAndUndefinedCodesChangeNothing : Prop :=
  ∀ s : State, s.accepts 1 →
    (exec .nop s = .next (s.answered 0 0 []) ∧ s.manage [0] [] = s.answered 0 0 [])
      ∧ ∀ (code : BitVec 6) (l : Lane) (imm : BitVec 9), 22 ≤ code.toNat →
          exec (.undefinedCode code l imm) s = .next (s.answered code.toNat 6 [])

/-! ## Lane control -/

/-- The lane commands outside RUNNING (R114, R115, R117, R118). LANE ENABLE takes OFF to STANDBY, LANE START takes STANDBY
to PRIMING provided T1 < T2 < T3, each with the wedge expectation cleared and the fill count 0; LANE STOP takes PRIMING
and FAULT to STANDBY, LANE OFF every state to OFF, leaving expectation and fill count. In any other state the command
is refused with STATE, LANE START next with RANGE. Nothing else changes. -/
def Obligations.LaneCommandsOutsideRunning : Prop :=
  ∀ (l : Lane) (s : State), s.accepts 1 → (s.lane l).control.mode ≠ .running →
    let arm := fun (m : LaneMode) => s.onControl l fun c => { c with mode := m, expectation := none, fill := 0 }
    let increasing :=
      s.cond.params.threshold1.toInt < s.cond.params.threshold2.toInt
        ∧ s.cond.params.threshold2.toInt < s.cond.params.threshold3.toInt
    ((s.lane l).control.mode = .off → exec (.laneEnable l) s = .next ((arm .standby).answered 8 0 []))
      ∧ ((s.lane l).control.mode ≠ .off → exec (.laneEnable l) s = .next (s.answered 8 1 []))
      ∧ ((s.lane l).control.mode ≠ .standby → exec (.laneStart l) s = .next (s.answered 9 1 []))
      ∧ ((s.lane l).control.mode = .standby → ¬increasing → exec (.laneStart l) s = .next (s.answered 9 2 []))
      ∧ ((s.lane l).control.mode = .standby → increasing →
          exec (.laneStart l) s = .next ((arm .priming).answered 9 0 []))
      ∧ ((s.lane l).control.mode = .priming ∨ (s.lane l).control.mode = .fault →
          exec (.laneStop l) s = .next ((s.onControl l fun c => { c with mode := .standby }).answered 10 0 []))
      ∧ ((s.lane l).control.mode = .off ∨ (s.lane l).control.mode = .standby →
          exec (.laneStop l) s = .next (s.answered 10 1 []))
      ∧ exec (.laneOff l) s = .next ((s.onControl l fun c => { c with mode := .off }).answered 11 0 [])

/-- A lane leaves RUNNING (R113): by LANE STOP for STANDBY, by LANE OFF for OFF, by a lane fault for FAULT (LANE ENABLE
and LANE START, refused with STATE, leave it there). Its
current set, if LIVE, becomes READY; its selection, filter, shadow, window and campaign end as
`LaneState.departed` says; the notices stand in the order cause, WINDOW DONE, PROBE ABORTED; a lane fault raises
the lane-fault counter (R119). The other lane, the set words and the rest of the part are untouched. -/
def Obligations.DepartureFromRunning : Prop :=
  ∀ (l : Lane) (s : State), (s.lane l).control.mode = .running →
    let leaves := fun (u t : State) (next : LaneMode) (detail : Nat) =>
      t = { t with
              bank := { s.bank with records := t.bank.records }
              pending := u.pending, cond := u.cond, decoder := u.decoder, responses := u.responses
              transfer := u.transfer, counters := u.counters, link := u.link, ports := u.ports }
        ∧ t.lane l = (u.lane l).departed next ∧ t.lane l.other = u.lane l.other
        ∧ (∀ n : SetNo, t.record n = s.recordReleased l n)
        ∧ t.notices = u.notices.afterDeparture l (s.lane l) detail
    (s.accepts 1 →
        exec (.laneEnable l) s = .next (s.answered 8 1 []) ∧ exec (.laneStart l) s = .next (s.answered 9 1 []))
      ∧ (s.accepts 1 → ∃ t, exec (.laneStop l) s = .next t ∧ leaves (s.answered 10 0 []) t .standby 1)
      ∧ (s.accepts 1 → ∃ t, exec (.laneOff l) s = .next t ∧ leaves (s.answered 11 0 []) t .off 1)
      ∧ (31 ≤ (s.lane l).filter.saturationRun →
          ∃ t, exec (.laneFault l) s = .next t
            ∧ leaves ((s.onCounters l fun c => { c with laneFault := min 65535 (c.laneFault + 1) }).notify .laneFault
                (some l) 0) t .fault 3)

/-! ## Parameters -/

/-- A word for a lane parameter (R124, with R84 for the adaptation mode and R125 for WPR): refused in PRIMING, RUNNING
and FAULT; in OFF and STANDBY an enumerated value is stored or refused, a numeric one stored or clamped to the
nearest end of its range of section 7.4; a write of WPR clears the wedge expectation. Nothing else changes but for the
data report, which the row queues by itself: the model's choice (log entry 1). -/
def Obligations.LaneParameterWrite : Prop :=
  ∀ (l : Lane) (v : Word) (s : State), s.responses.length + 1 ≤ 32 →
    (¬(s.lane l).atRest → ∀ p : LaneParam, exec (.laneParameterWrite l p v) s = .next (s.reported 1 0))
      ∧ ((s.lane l).atRest →
          exec (.laneParameterWrite l .alignment v) s =
              .next ((s.onControl l fun c => { c with alignment := min 15 v.toNat }).reported 0
                (if 15 < v.toNat then 1 else 0))
            ∧ exec (.laneParameterWrite l .wedgesPerRev v) s =
              .next ((s.onControl l fun c =>
                  { c with wedgesPerRev := max 1 (min 1024 v.toNat), expectation := none }).reported 0
                (if v.toNat = 0 ∨ 1024 < v.toNat then 1 else 0))
            ∧ exec (.laneParameterWrite l .seekFeedForward v) s =
              .next (if v.toNat ≤ 1 then s.onControl l fun c => { c with seekFeedForward := decide (v.toNat = 1) }
                else s.reported 1 0)
            ∧ exec (.laneParameterWrite l .adaptMode v) s =
              .next (if v.toNat ≤ 2 then
                  s.onAdapt l fun x =>
                    { x with mode := if v.toNat = 0 then .off else if v.toNat = 1 then .free else .window }
                else s.reported 1 0)
            ∧ exec (.laneParameterWrite l .pesGate v) s =
              .next ((s.onAdapt l fun x => { x with pesGate := min 32767 v.toNat }).reported 0
                (if 32767 < v.toNat then 1 else 0))
            ∧ exec (.laneParameterWrite l .staleLimit v) s =
              .next ((s.onControl l fun c => { c with staleLimit := max 1 (min 255 v.toNat) }).reported 0
                (if v.toNat = 0 ∨ 255 < v.toNat then 1 else 0))
            ∧ exec (.laneParameterWrite l .holdLength v) s =
              .next ((s.onControl l fun c => { c with holdLength := min 255 v.toNat }).reported 0
                (if 255 < v.toNat then 1 else 0)))

/-- A word for a conditioner parameter (R8, with R7 for the start band): refused while either lane is in PRIMING,
RUNNING or FAULT; otherwise a polarity or retain takes 0 or 1 and refuses any other value, a trim or threshold takes
the whole word, H and the start band are clamped; the current band follows the start band while the temperature is
unknown, and no other parameter moves it. Nothing else changes but for the data report, which the row queues by itself:
the model's choice (log entry 1). -/
def Obligations.ConditionerParameterWrite : Prop :=
  ∀ (v : Word) (s : State), s.responses.length + 1 ≤ 32 →
    let put := fun (p : CondParams) => { s with cond := { s.cond with params := p } }
    (¬(s.lane0.atRest ∧ s.lane1.atRest) → ∀ p : CondParam, exec (.condParameterWrite p v) s = .next (s.reported 1 0))
      ∧ (s.lane0.atRest → s.lane1.atRest →
          exec (.condParameterWrite .polarity1 v) s =
              .next (if v.toNat ≤ 1 then put { s.cond.params with negative1 := decide (v.toNat = 1) } else s.reported 1 0)
            ∧ exec (.condParameterWrite .polarity2 v) s =
              .next (if v.toNat ≤ 1 then put { s.cond.params with negative2 := decide (v.toNat = 1) } else s.reported 1 0)
            ∧ exec (.condParameterWrite .trim1 v) s = .next (put { s.cond.params with trim1 := v })
            ∧ exec (.condParameterWrite .trim2 v) s = .next (put { s.cond.params with trim2 := v })
            ∧ exec (.condParameterWrite .threshold1 v) s = .next (put { s.cond.params with threshold1 := v })
            ∧ exec (.condParameterWrite .threshold2 v) s = .next (put { s.cond.params with threshold2 := v })
            ∧ exec (.condParameterWrite .threshold3 v) s = .next (put { s.cond.params with threshold3 := v })
            ∧ exec (.condParameterWrite .hysteresis v) s =
              .next ((put { s.cond.params with hysteresis := min 255 v.toNat }).reported 0
                (if 255 < v.toNat then 1 else 0))
            ∧ (∃ b : Fin 4, b.val = min 3 v.toNat
                ∧ exec (.condParameterWrite .startBand v) s =
                  .next (({ s with cond :=
                      { s.cond with
                        params := { s.cond.params with startBand := b }
                        band := if s.cond.temperature = none then b else s.cond.band } } : State).reported 0
                    (if 3 < v.toNat then 1 else 0)))
            ∧ exec (.condParameterWrite .retain v) s =
              .next (if v.toNat ≤ 1 then put { s.cond.params with retain := decide (v.toNat = 1) } else s.reported 1 0))

/-! ## The Coefficient Bank and the names of its sets -/

/-- A data word into a set (R23, R21): refused with STATE under a hold or when the set is LIVE, with nothing changed;
otherwise stored whole, with valid check information, and the set is LOADING. Every other word of the bank reads as
before. That the row queues a refused word's data report in a frame of its own is the model's choice (log entry 1). -/
def Obligations.BankDataWord : Prop :=
  ∀ (n : SetNo) (w : WordNo) (v : Word) (s : State), s.responses.length + 1 ≤ 32 → s.storesCanonical →
    ((s.record n).hold ≠ .none ∨ (s.record n).state = .live → exec (.bankDataWord n w v) s = .next (s.reported 1 0))
      ∧ ((s.record n).hold = .none → (s.record n).state ≠ .live →
          ∃ t, exec (.bankDataWord n w v) s = .next t ∧ t = { s with bank := t.bank }
            ∧ (∀ m : SetNo, t.record m = if m = n then { s.record n with state := .loading } else s.record m)
            ∧ ∀ a : Nat, t.bankAt a = if a = n.val * 64 + w.val then { value := v, flipped := [] } else s.bankAt a)

/-- A write of a map entry or of the fallback setting (R42, R43, R34): a value that is neither a set number nor 255 is
refused with RANGE, then a set of the other lane with CONFLICT, nothing changed; an accepted word replaces the entry,
in every lane state, and moves the reference counts and owner lanes of the two sets. The current set stays. That the
rows queue a refused word's data report in a frame of their own is the model's choice (log entry 1). -/
def Obligations.MapAndFallbackWrites : Prop :=
  ∀ (l : Lane) (a : Fin 512) (v : Word) (s : State), s.responses.length + 1 ≤ 32 → s.storesCanonical →
    (48 ≤ v.toNat → v.toNat ≠ 255 →
      exec (.mapEntryWrite l a v) s = .next (s.reported 1 0) ∧ exec (.fallbackWrite l v) s = .next (s.reported 1 0))
      ∧ (∀ n : SetNo, v.toNat = n.val → (s.record n).owner = some l.other →
          exec (.mapEntryWrite l a v) s = .next (s.reported 1 0) ∧ exec (.fallbackWrite l v) s = .next (s.reported 1 0))
      ∧ (∀ new : Option SetNo, v.toNat = (new.map Fin.val).getD 255 → (∀ n ∈ new, (s.record n).owner ≠ some l.other) →
          (∃ t, exec (.mapEntryWrite l a v) s = .next t
              ∧ t = ({ s with bank := { s.bank with records := t.bank.records } } : State).onSelection l
                  (fun x => { x with map := (t.lane l).selection.map })
              ∧ (∀ b : Nat, t.mapEntry l b = if b = a.val then new else s.mapEntry l b)
              ∧ ∀ n : SetNo, t.record n = (s.record n).renamed n l (s.mapEntry l a.val) new)
            ∧ ∃ t, exec (.fallbackWrite l v) s = .next t
              ∧ t = ({ s with bank := { s.bank with records := t.bank.records } } : State).onSelection l
                  (fun x => { x with fallback := new })
              ∧ ∀ n : SetNo, t.record n = (s.record n).renamed n l (s.lane l).selection.fallback new)

/-- COMMIT SET of a LOADING set not under hold DESTINATION, with no transfer waiting on it (R24, R25, R35, R36): every word
is read and checked. Without a double error the header fields are brought into their ranges and the taps within ±WL,
written back with valid check information, the frozen flag cleared, the set READY, OK answered. With one, the single
errors are corrected, no clamped value is written, the set is QUARANTINED with its frozen flag kept, DATA ERROR
answered. Each single and each double error is counted and reported. Every word outside the set reads as before. A
transfer that waits on another set is left as it is (`WaitingTransfer` says what comes of its source's commit), and a lane
whose current set it was loses it only to a double error (R51). That three or more flipped places are a double error is the model's choice (log entry 6). -/
def Obligations.CommitSetOfALoadingSet : Prop :=
  ∀ (imm : BitVec 9) (n : SetNo) (s : State), s.accepts 1 → s.storesCanonical → imm.toNat = n.val →
    (s.record n).state = .loading → (s.record n).hold ≠ .destination →
    ¬(s.transfer.state = .waiting ∧ s.transfer.current = some n) →
    let cs := s.cells n 0 50
    let bad := 0 < doubles cs
    ∃ t, exec (.commitSet imm) s = .next t
      ∧ t = State.answered
          { s with
            bank := t.bank, lane0 := t.lane0, lane1 := t.lane1
            notices := s.notices.afterReads n false cs
            counters :=
              { s.counters with
                storageCorrection := raisedBy s.counters.storageCorrection (singles cs)
                storageError := raisedBy s.counters.storageError (doubles cs) } }
          5 (if bad then 7 else 0) []
      ∧ (∀ l : Lane, t.lane l =
          if bad ∧ (s.lane l).selection.current = some n then (s.lane l).withoutSet else s.lane l)
      ∧ (∀ m : SetNo, t.record m =
          if m = n then
            if bad then { s.record n with state := .quarantined } else { s.record n with state := .ready, frozen := false }
          else s.record m)
      ∧ (∀ a : Nat, ¬(n.val * 64 ≤ a ∧ a < n.val * 64 + 50) → t.bankAt a = s.bankAt a)
      ∧ ∀ w : WordNo,
          if bad then t.bankAt (n.val * 64 + w.val) = (s.bankAt (n.val * 64 + w.val)).afterRead
          else (t.bankAt (n.val * 64 + w.val)).flipped = []
            ∧ (t.bankAt (n.val * 64 + w.val)).value.toInt =
                inRange (commitRange (s.wordInt n 8) w.val) (s.wordInt n w.val)

/-- The set commands, but for the commit itself (R24, R28, R32): RANGE for a set number of 48 or above. COMMIT SET answers
STATE for a FREE, LIVE or QUARANTINED set and for a LOADING one under hold DESTINATION, OK for a READY one, with nothing
changed. FREE SET is refused with STATE for a LIVE or held set; otherwise all 50 words are 0 with valid check
information, whatever they held, the frozen flag is clear, the set FREE, its reference count and owner lane kept.
UNFREEZE SET clears a set frozen flag, in every state and under every hold, and is refused with STATE when it is clear. -/
def Obligations.SetCommands : Prop :=
  ∀ (imm : BitVec 9) (s : State), s.accepts 1 → s.storesCanonical →
    (48 ≤ imm.toNat →
      exec (.commitSet imm) s = .next (s.answered 5 2 []) ∧ exec (.freeSet imm) s = .next (s.answered 6 2 [])
        ∧ exec (.unfreezeSet imm) s = .next (s.answered 7 2 []))
      ∧ ∀ n : SetNo, imm.toNat = n.val →
          ((s.record n).state = .free ∨ (s.record n).state = .live ∨ (s.record n).state = .quarantined
              ∨ (s.record n).state = .loading ∧ (s.record n).hold = .destination →
            exec (.commitSet imm) s = .next (s.answered 5 1 []))
            ∧ ((s.record n).state = .ready → exec (.commitSet imm) s = .next (s.answered 5 0 []))
            ∧ ((s.record n).state = .live ∨ (s.record n).hold ≠ .none → exec (.freeSet imm) s = .next (s.answered 6 1 []))
            ∧ ((s.record n).state ≠ .live → (s.record n).hold = .none →
                ∃ t, exec (.freeSet imm) s = .next t ∧ t = State.answered { s with bank := t.bank } 6 0 []
                  ∧ (∀ m : SetNo, t.record m =
                      if m = n then { s.record n with state := .free, frozen := false } else s.record m)
                  ∧ ∀ a : Nat, t.bankAt a =
                      if n.val * 64 ≤ a ∧ a < n.val * 64 + 50 then { value := 0, flipped := [] } else s.bankAt a)
            ∧ ((s.record n).frozen = true →
                exec (.unfreezeSet imm) s = .next ((s.onRecord n fun r => { r with frozen := false }).answered 7 0 []))
            ∧ ((s.record n).frozen = false → exec (.unfreezeSet imm) s = .next (s.answered 7 1 []))

/-- A disturbance (section 2.7) flips stored places of one word and nothing else, and the command completes in every
state: one place of a clean word leaves that place alone flipped, a single error, which the next read corrects; two
different places are both left flipped, a double error, which no read can correct; a place that was alone flipped is
as written again. The part does not see it before a read. That a word is kept as its value and its flipped places is the
model's choice (log entry 6). -/
def Obligations.WordDisturbed : Prop :=
  ∀ (n : SetNo) (w : WordNo) (p : Nat) (second : Option Nat) (s : State), s.storesCanonical → second ≠ some p →
    ∃ t, exec (.wordDisturbed n w p second) s = .next t
      ∧ t = { s with bank := { s.bank with words := t.bank.words } }
      ∧ (∀ a : Nat, a ≠ n.val * 64 + w.val → t.bankAt a = s.bankAt a)
      ∧ (t.bankAt (n.val * 64 + w.val)).value = (s.bankAt (n.val * 64 + w.val)).value
      ∧ ((s.bankAt (n.val * 64 + w.val)).flipped = [] →
          (second = none → (t.readWord n w.val).2 = some (s.bankAt (n.val * 64 + w.val)).value)
            ∧ (second ≠ none → (t.readWord n w.val).2 = none))
      ∧ (let before := (s.bankAt (n.val * 64 + w.val)).flipped
        let after := (t.bankAt (n.val * 64 + w.val)).flipped
        (before = [] → second = none → after = [p])
          ∧ (before = [] → ∀ q, second = some q → after = [min p q, max p q])
          ∧ (before = [p] → second = none → after = [])
          ∧ ∀ q, before = [q] → q ≠ p → second = none → after = [min p q, max p q])

/-- A checked read of a word (R35, R36): a clean word changes nothing; a single error is corrected in place, counted
and reported, in every set state; a double error leaves the word as found and is counted, a LOADING, READY or LIVE
set becomes QUARANTINED, a lane whose current set it was loses it (R51), a QUARANTINED set is reported again, a FREE
set is left without a notice. The reader gets the value, the corrected value, or none. No transfer waits on the set
(`WaitingTransfer` says what comes of one that does). That three or more flipped places are a double error is the model's
choice (log entry 6). -/
def Obligations.CheckedRead : Prop :=
  ∀ (n : SetNo) (w : WordNo) (s : State), s.storesCanonical →
    ¬(s.transfer.state = .waiting ∧ s.transfer.current = some n) →
    let a := n.val * 64 + w.val
    let c := s.bankAt a
    (c.flipped = [] → s.readWord n w.val = (s, some c.value))
      ∧ (c.flipped.length = 1 →
          ∃ t, s.readWord n w.val = (t, some c.value)
            ∧ t = { s with
                bank := { s.bank with words := t.bank.words }
                notices := s.notices.add .storageCorrected none n.val
                counters := { s.counters with storageCorrection := min 65535 (s.counters.storageCorrection + 1) } }
            ∧ ∀ b : Nat, t.bankAt b = if b = a then { c with flipped := [] } else s.bankAt b)
      ∧ (2 ≤ c.flipped.length →
          ∃ t, s.readWord n w.val = (t, none)
            ∧ t = { s with
                bank := { s.bank with records := t.bank.records }
                lane0 := t.lane0, lane1 := t.lane1
                notices :=
                  if (s.record n).state = .free then s.notices else s.notices.add .setQuarantined none n.val
                counters := { s.counters with storageError := min 65535 (s.counters.storageError + 1) } }
            ∧ (∀ m : SetNo, t.record m =
                if m = n ∧ (s.record n).state ≠ .free then { s.record n with state := .quarantined } else s.record m)
            ∧ ∀ l : Lane, t.lane l =
                if (s.lane l).selection.current = some n ∧ (s.record n).state ≠ .free
                    ∧ (s.record n).state ≠ .quarantined then (s.lane l).withoutSet else s.lane l)

/-! ## The Command Decoder -/

/-- POINT (R150): STATE while a patch window is open; then RANGE for an immediate above 15; then RANGE for an address
at or beyond the end of the region, or in BANK one that names no set or no word; otherwise the pointer takes the
region of the immediate's low three places, the lane above them, and the address; the region codes 0 to 7 are BANK, MAP,
LANE, COND, RESULTS, COUNTERS, SETS and LANES. Nothing else changes. -/
def Obligations.Point : Prop :=
  ∀ (imm : BitVec 9) (a : Word) (s : State), s.accepts 2 →
    let target : Pointer :=
      { region := Region.ofCode (imm.toNat % 8), lane := if imm.toNat < 8 then .zero else .one, addr := a.toNat }
    let exists_ : Prop :=
      match target.region with
      | .bank => a.toNat / 64 ≤ 47 ∧ a.toNat % 64 ≤ 49
      | .map => a.toNat < 512
      | .lane => a.toNat < 8
      | .cond => a.toNat < 10
      | .results => a.toNat < 34
      | .counters => a.toNat < 26
      | .sets => a.toNat < 48
      | .lanes => a.toNat < 14
    (s.decoder.origin ≠ none → exec (.point imm a) s = .next (s.answered 1 1 []))
      ∧ (s.decoder.origin = none → 15 < imm.toNat → exec (.point imm a) s = .next (s.answered 1 2 []))
      ∧ (s.decoder.origin = none → imm.toNat ≤ 15 → ¬exists_ → exec (.point imm a) s = .next (s.answered 1 2 []))
      ∧ (s.decoder.origin = none → imm.toNat ≤ 15 → exists_ →
          exec (.point imm a) s = .next (State.answered { s with decoder := { s.decoder with pointer := target } } 1 0 []))
      ∧ (List.range 8).map Region.ofCode = [.bank, .map, .lane, .cond, .results, .counters, .sets, .lanes]

/-- PATCH OPEN and PATCH CLOSE (R155): the window opens at the pointer, which PATCH CLOSE returns to; an open window
refuses PATCH OPEN, a closed one PATCH CLOSE, with STATE. Nothing else changes. -/
def Obligations.PatchWindow : Prop :=
  ∀ s : State, s.accepts 1 →
    (s.decoder.origin = none →
      exec .patchOpen s =
          .next (State.answered { s with decoder := { s.decoder with origin := some s.decoder.pointer } } 3 0 [])
        ∧ exec .patchClose s = .next (s.answered 4 1 []))
      ∧ ∀ p : Pointer, s.decoder.origin = some p →
          exec .patchOpen s = .next (s.answered 3 1 [])
            ∧ exec .patchClose s =
              .next (State.answered { s with decoder := { s.decoder with pointer := p, origin := none } } 4 0 [])

/-- READ outside BANK (R153, R155, R157): RANGE unless 1 to 16 words are asked for; FULL, with the pointer unmoved,
when its words would not fit behind its header; otherwise the items from the pointer on, as many as asked for and
left in the region, and the pointer advanced by them unless a patch window is open. Nothing else changes. The items of
each region stand at the addresses of their tables: MAP (R41), LANE (section 7.4, R124, R43), COND (section 1.4, R8),
COUNTERS (section 11.5), SETS (R22, R143) and LANES (section 7.5). Of the items of RESULTS (R109): the high word of an
accumulator, read as signed, times 65536, plus its low word, read as unsigned, is the accumulator; addresses 32 and 33
hold the campaign state and the length done. -/
def Obligations.ReadOutsideTheBank : Prop :=
  ∀ (imm : BitVec 9) (s : State), s.accepts 1 →
    let p := s.decoder.pointer
    let k := min imm.toNat (p.stop - p.addr)
    (imm.toNat = 0 ∨ 16 < imm.toNat → exec (.read imm) s = .next (s.answered 2 2 []))
      ∧ (1 ≤ imm.toNat → imm.toNat ≤ 16 → 32 < s.responses.length + 1 + k →
          exec (.read imm) s = .next (s.answered 2 3 []))
      ∧ (1 ≤ imm.toNat → imm.toNat ≤ 16 → s.responses.length + 1 + k ≤ 32 → p.region ≠ .bank →
          exec (.read imm) s =
            .next (State.answered
              (if s.decoder.origin = none then s.setPointer { p with addr := p.addr + k } else s) 2 0
              ((List.range k).map fun i => s.item p.region p.lane (p.addr + i))))
      ∧ ∀ (l : Lane) (d : Fin 16),
          (-2147483648 ≤ (s.lane l).campaign.correlations[d.val] → (s.lane l).campaign.correlations[d.val] ≤ 2147483647 →
            (s.lane l).campaign.correlations[d.val] =
              (s.item .results l (2 * d.val)).toInt * 65536 + (s.item .results l (2 * d.val + 1)).toNat)
            ∧ s.item .results l 32 =
                (match (s.lane l).campaign.state with
                  | .idle => 0#16
                  | .running => 1#16
                  | .done => 2#16
                  | .aborted => 3#16)
            ∧ s.item .results l 33 = BitVec.ofNat 16 (s.lane l).campaign.done
      ∧ ∀ l : Lane,
          let x := s.lane l
          let q := s.cond.params
          let setOr255 := fun (n : Option SetNo) => (n.map Fin.val).getD 255
          let laneCounters := fun (c : LaneCounters) =>
            [c.freshFrame, c.heldFrame, c.bypassFrame, c.correctionClamp, c.commandSaturation, c.adaptedFrame, c.tapClamp,
             c.wedgeGap, c.wedgeSlip, c.laneFault]
          (∀ a : Fin 512, s.item .map l a.val = BitVec.ofNat 16 (setOr255 (s.mapEntry l a.val)))
            ∧ (List.range 8).map (s.item .lane l) =
                [x.control.alignment, setOr255 x.selection.fallback, x.control.wedgesPerRev,
                 if x.control.seekFeedForward then 1 else 0,
                 (match x.adapt.mode with
                  | .off => 0
                  | .free => 1
                  | .window => 2),
                 x.adapt.pesGate, x.control.staleLimit, x.control.holdLength].map (BitVec.ofNat 16)
            ∧ (List.range 10).map (s.item .cond l) =
                [if q.negative1 then 1 else 0, if q.negative2 then 1 else 0, q.trim1, q.trim2, q.threshold1, q.threshold2,
                 q.threshold3, BitVec.ofNat 16 q.hysteresis, BitVec.ofNat 16 q.startBand.val, if q.retain then 1 else 0]
            ∧ (List.range 26).map (s.item .counters l) =
                ([s.counters.sensorGap, s.counters.sensorClip, s.counters.storageCorrection, s.counters.storageError,
                  s.counters.linkCheck, s.counters.turnedAway] ++ laneCounters s.lane0.counters
                  ++ laneCounters s.lane1.counters).map (BitVec.ofNat 16)
            ∧ (∀ n : SetNo,
                let r := s.record n
                let state :=
                  match r.state with
                  | .free => 0
                  | .loading => 1
                  | .ready => 2
                  | .live => 3
                  | .quarantined => 4
                let hold :=
                  match r.hold with
                  | .none => 0
                  | .source => 1
                  | .destination => 2
                s.item .sets l n.val =
                  BitVec.ofNat 16 ((state + 5 * hold) * 4096 + (if r.frozen then 2048 else 0)
                    + (if r.owner = some .one ∧ r.refCount ≠ 0 then 1024 else 0) + r.refCount))
            ∧ (List.range 14).map (s.item .lanes l) =
                [BitVec.ofNat 16
                  (match x.control.mode with
                  | .off => 0
                  | .standby => 1
                  | .priming => 2
                  | .running => 3
                  | .fault => 4),
                 BitVec.ofNat 16 (setOr255 x.selection.current),
                 BitVec.ofNat 16
                  (match x.selection.route with
                  | .none => 0
                  | .primary => 1
                  | .fallback => 2),
                 BitVec.ofNat 16
                  (match x.reference.status with
                  | .good => 0
                  | .stale => 1
                  | .lost => 2),
                 BitVec.ofNat 16 x.reference.staleCount, BitVec.ofNat 16 x.reference.settle,
                 BitVec.ofNat 16 x.control.fill, BitVec.ofNat 16 x.adapt.window, BitVec.ofNat 16 x.adapt.divergence,
                 BitVec.ofNat 16 x.selection.band.val, BitVec.ofNat 16 s.cond.band.val,
                 s.cond.temperature.getD (BitVec.ofInt 16 (-32768)), BitVec.ofNat 16 x.filter.saturationRun,
                 BitVec.ofNat 16 (x.control.expectation.getD 65535)]

/-- READ in BANK (R154, R35, R36): each of the words up to the end of the pointer's set is read checked and returned,
a corrected value for a single error, 0 for a double error; the result is DATA ERROR when there was a double error.
Singles are corrected in place; each error is counted and reported; a double error quarantines the set unless it is
FREE, and a lane whose current set it was loses it (R51). A set may be read in every state, a lane's LIVE set among them.
No transfer waits on the set (`WaitingTransfer` says what comes of one that does); one that waits on another is left as it
is. That three or more flipped places are a double error is the model's choice (log entry 6). -/
def Obligations.ReadInTheBank : Prop :=
  ∀ (imm : BitVec 9) (n : SetNo) (w : Nat) (s : State), s.accepts 1 → s.storesCanonical → 1 ≤ imm.toNat → imm.toNat ≤ 16 →
    s.decoder.pointer.region = .bank → s.decoder.pointer.addr = n.val * 64 + w → w ≤ 50 →
    ¬(s.transfer.state = .waiting ∧ s.transfer.current = some n) →
    let k := min imm.toNat (50 - w)
    let cs := s.cells n w k
    let free := decide ((s.record n).state = .free)
    s.responses.length + 1 + k ≤ 32 →
    ∃ t, exec (.read imm) s = .next t
      ∧ t = State.answered
          { s with
            bank := t.bank, lane0 := t.lane0, lane1 := t.lane1
            decoder :=
              { s.decoder with
                pointer :=
                  if s.decoder.origin = none then { s.decoder.pointer with addr := n.val * 64 + w + k }
                  else s.decoder.pointer }
            notices := s.notices.afterReads n free cs
            counters :=
              { s.counters with
                storageCorrection := raisedBy s.counters.storageCorrection (singles cs)
                storageError := raisedBy s.counters.storageError (doubles cs) } }
          2 (if 0 < doubles cs then 7 else 0) (cs.map fun c => if 2 ≤ c.flipped.length then 0 else c.value)
      ∧ (∀ l : Lane, t.lane l =
          if (s.lane l).selection.current = some n ∧ 0 < doubles cs ∧ free = false
              ∧ (s.record n).state ≠ .quarantined then (s.lane l).withoutSet else s.lane l)
      ∧ (∀ m : SetNo, t.record m =
          if m = n ∧ 0 < doubles cs ∧ free = false then { s.record n with state := .quarantined } else s.record m)
      ∧ ∀ a : Nat, t.bankAt a =
          if n.val * 64 + w ≤ a ∧ a < n.val * 64 + w + k then (s.bankAt a).afterRead else s.bankAt a

/-- A data word at the pointer (R151, R152): refused in place while a command is pending or the pointer is stopped;
refused with the pointer advanced in a read-only region; otherwise what its owner does with it, as in the owner's own
command, and the pointer advanced by one whatever the owner did. That each row by itself queues its data report, and so
that the two agree in it, is the model's choice (log entry 1). -/
def Obligations.DataWord : Prop :=
  ∀ (v : Word) (s : State), s.responses.length + 1 ≤ 32 →
    let p := s.decoder.pointer
    let after := fun (t : State) => { t with decoder := { t.decoder with pointer := { p with addr := p.addr + 1 } } }
    (s.decoder.command ≠ none ∨ p.stop ≤ p.addr → exec (.dataWord v) s = .next (s.reported 1 0))
      ∧ (s.decoder.command = none → p.addr < p.stop →
          (p.region = .results ∨ p.region = .counters ∨ p.region = .sets ∨ p.region = .lanes →
              exec (.dataWord v) s = .next (after (s.reported 1 0)))
            ∧ (∀ (n : SetNo) (w : WordNo), p.region = .bank → p.addr = n.val * 64 + w.val →
                ∃ t, exec (.bankDataWord n w v) s = .next t ∧ exec (.dataWord v) s = .next (after t))
            ∧ (∀ a : Fin 512, p.region = .map → p.addr = a.val →
                ∃ t, exec (.mapEntryWrite p.lane a v) s = .next t ∧ exec (.dataWord v) s = .next (after t))
            ∧ (p.region = .lane → p.addr = 1 →
                ∃ t, exec (.fallbackWrite p.lane v) s = .next t ∧ exec (.dataWord v) s = .next (after t))
            ∧ (∀ q : LaneParam, p.region = .lane → laneParamAt p.addr = some q →
                ∃ t, exec (.laneParameterWrite p.lane q v) s = .next t ∧ exec (.dataWord v) s = .next (after t))
            ∧ (∀ q : CondParam, p.region = .cond → condParamAt p.addr = some q →
                ∃ t, exec (.condParameterWrite q v) s = .next t ∧ exec (.dataWord v) s = .next (after t)))

/-- TRANSFER STATUS (R176, R143) and POLL (R181) answer FULL when their words would not fit, and otherwise change
nothing but the Response Queue: the seven words of the transfer record, with the codes of R143; the attention summary, with a flag for each of
the five sources that has a queued record, the lost count below them and the places above them 0. COUNTERS CLEAR (R183)
makes each of the 26 counters of the COUNTERS region 0 and changes nothing else: no lost count, repeat count, bad-word
count, stale count, saturation run or divergence count. -/
def Obligations.StatusPollAndClear : Prop :=
  ∀ s : State, s.accepts 1 →
    (24 < s.responses.length → exec .transferStatus s = .next (s.answered 17 3 []))
      ∧ (s.responses.length ≤ 24 →
          exec .transferStatus s =
            .next (s.answered 17 0
              ([s.transfer.state.code,
                s.transfer.mode.code + (if s.transfer.skipBad then 4 else 0) + (if s.transfer.waitBusy then 8 else 0),
                (s.transfer.outcome.map TransferOutcome.code).getD 255, s.transfer.remaining,
                (s.transfer.current.map Fin.val).getD 255, s.transfer.word, s.transfer.badWords].map (BitVec.ofNat 16))))
      ∧ (30 < s.responses.length → exec .poll s = .next (s.answered 19 3 []))
      ∧ (s.responses.length ≤ 30 → s.notices.lost ≤ 255 →
          ∃ w : Word, exec .poll s = .next (s.answered 19 0 [w])
            ∧ w.toNat % 256 = s.notices.lost ∧ w.toNat < 8192
            ∧ (w.getLsbD 8 = true ↔ ∃ r ∈ s.notices.records,
                r.lane = some .zero ∨ r.kind = .sensorGap ∨ r.kind = .sensorClip)
            ∧ (w.getLsbD 9 = true ↔ ∃ r ∈ s.notices.records,
                r.lane = some .one ∨ r.kind = .sensorGap ∨ r.kind = .sensorClip)
            ∧ (w.getLsbD 10 = true ↔ ∃ r ∈ s.notices.records, r.kind = .setQuarantined ∨ r.kind = .storageCorrected)
            ∧ (w.getLsbD 11 = true ↔ ∃ r ∈ s.notices.records, r.kind = .transferDone)
            ∧ (w.getLsbD 12 = true ↔ ∃ r ∈ s.notices.records, r.kind = .linkCheck ∨ r.kind = .argumentExpired))
      ∧ (∃ t, exec .countersClear s = .next t ∧ (∀ c ∈ t.counterList, c = 0) ∧ t.counterList.length = 26
          ∧ t = State.answered
              { s with
                counters := t.counters
                lane0 := { s.lane0 with counters := t.lane0.counters }
                lane1 := { s.lane1 with counters := t.lane1.counters } } 20 0 [])
      ∧ [TransferState.idle, .active, .waiting, .done].map TransferState.code = [0, 1, 2, 3]
      ∧ [TransferMode.copy, .dump, .sweep].map TransferMode.code = [0, 1, 2]
      ∧ [TransferOutcome.complete, .dataError, .timeout, .notReady, .aborted, .endOfBank].map TransferOutcome.code =
          [0, 1, 2, 3, 4, 5]

/-- FETCH NOTICES (R162, R180): RANGE unless 1 to 8 notices are asked for; FULL when the lost count would not fit;
otherwise the lost count, then the oldest notices, as many as asked for, held and fitting whole, two words each, the
kinds coded 1 to 14 in the order of R143; those leave the queue, the lost count becomes 0, and nothing else changes. -/
def Obligations.FetchNotices : Prop :=
  ∀ (imm : BitVec 9) (s : State), s.accepts 1 →
    let k := min imm.toNat (min s.notices.records.length ((30 - s.responses.length) / 2))
    (imm.toNat = 0 ∨ 8 < imm.toNat → exec (.fetchNotices imm) s = .next (s.answered 18 2 []))
      ∧ (1 ≤ imm.toNat → imm.toNat ≤ 8 → 30 < s.responses.length →
          exec (.fetchNotices imm) s = .next (s.answered 18 3 []))
      ∧ (1 ≤ imm.toNat → imm.toNat ≤ 8 → s.responses.length ≤ 30 →
          exec (.fetchNotices imm) s =
            .next (State.answered { s with notices := { records := s.notices.records.drop k, lost := 0 } } 18 0
              (BitVec.ofNat 16 s.notices.lost
                :: (s.notices.records.take k).flatMap fun r =>
                    [BitVec.ofNat 16 ((r.lane.map Lane.toNat).getD 255 * 256 + r.detail),
                     BitVec.ofNat 16 (r.kind.code * 256 + r.repeats)])))
      ∧ [NoticeKind.setQuarantined, .storageCorrected, .diverged, .laneFault, .wedgeSlip, .referenceLost, .sensorGap,
          .sensorClip, .windowDone, .probeDone, .probeAborted, .transferDone, .argumentExpired, .linkCheck].map
          NoticeKind.code = (List.range 14).map (· + 1)

/-- The command words of frames (R147, R163). The arguments of a command may come in later frames than its command word:
the word of a command that takes arguments leaves it pending and answers nothing, and the frame that brings the last
argument has the effect that the word and its arguments have in one frame. After a PART RESET word the rest of its
frame is lost: no later command word is taken and no data word offered. A frame of several words is its first command,
then the rest: the first is answered FULL when its data words would not fit behind its own header and a word for each
command word that follows and one for the data report (R157), and FETCH NOTICES fits its notices in that room. A word that
starts a command with arguments, or is an argument but not the last, answers nothing, and the rest follows. The last
argument executes its command in its turn, with the effect and the answer of the whole command in one frame, and the rest
follows; PROBE START alone of these carries a data word, and is answered FULL and dropped when that word would not fit
(R157, R160). A frame's data words are offered in order, and one data report carries how many were refused and how many
clamped (R152); while a command is pending all of them are refused in place (R151). That DATA_WORD by itself is a frame of
one data word is the model's choice (log entry 1). -/
def Obligations.CommandWordsOfFrames : Prop :=
  (∀ (w a b : Word) (commands data : List Word) (s : State), s.accepts 3 →
    let taken := fun (args : List Word) =>
      { s with decoder := { s.decoder with command := some { fields := commandFields w, args := args }, age := 0 } }
    (argCount (commandFields w).code = 1 →
      s.manage [w] [] = taken [] ∧ (taken []).manage [a] [] = s.manage [w, a] [])
      ∧ (argCount (commandFields w).code = 2 →
          s.manage [w, a] [] = taken [a] ∧ (taken []).manage [a] [] = taken [a]
            ∧ (taken [a]).manage [b] [] = s.manage [w, a, b] [])
      ∧ (s.responses.length + commands.length + 2 ≤ 32 →
          s.manage (BitVec.ofNat 16 (21 * 1024) :: commands) data = s.manage [BitVec.ofNat 16 (21 * 1024)] [])
      ∧ (let reserve := 1 + commands.length + (if data = [] then 0 else 1)
        let code := (commandFields w).code.toNat
        let n := (commandFields w).imm.toNat
        let need :=
          if code = 2 ∧ 1 ≤ n ∧ n ≤ 16 then min n (s.decoder.pointer.stop - s.decoder.pointer.addr)
          else if code = 17 then 7
          else if code = 18 ∧ 1 ≤ n ∧ n ≤ 8 then 1
          else if code = 19 then 1 else 0
        let fetched := min n (min s.notices.records.length ((32 - s.responses.length - reserve - 1) / 2))
        argCount (commandFields w).code = 0 → code ≠ 21 → s.responses.length + reserve ≤ 32 →
          (32 < s.responses.length + reserve + need →
              s.manage (w :: commands) data = (s.answered code 3 []).manage commands data)
            ∧ (s.responses.length + reserve + need ≤ 32 → ¬(code = 18 ∧ 1 ≤ n ∧ n ≤ 8) →
                s.manage (w :: commands) data = (s.manage [w] []).manage commands data)
            ∧ (s.responses.length + reserve + need ≤ 32 → code = 18 → 1 ≤ n → n ≤ 8 →
                ∃ words, s.manage (w :: commands) data =
                    (State.answered { s with notices := { records := s.notices.records.drop fetched, lost := 0 } } 18 0
                      words).manage commands data
                  ∧ words = BitVec.ofNat 16 s.notices.lost :: (s.notices.records.take fetched).flatMap Notice.words)))
    ∧ (∀ (data : List Word) (s : State), s.responses.length + 1 ≤ 32 →
        let offered := fun (i : Nat) => (data.take i).foldl (fun (u : State) v => (u.offer v).1) s
        let outcome := fun (i : Nat) => ((offered i).offer (data.getD i 0)).2
        let count := fun (p : WriteOutcome → Bool) => ((List.range data.length).filter fun i => p (outcome i)).length
        let refused : WriteOutcome → Bool := fun o =>
          match o with
          | .refused _ => true
          | _ => false
        (data ≠ [] →
          s.manage [] data = (offered data.length).reported (count refused) (count fun o => decide (o = .clamped)))
          ∧ (s.decoder.command ≠ none → s.manage [] data = s.reported data.length 0)
          ∧ ∀ v : Word, exec (.dataWord v) s =
              .next ((s.offer v).1.reported (if refused (s.offer v).2 then 1 else 0)
                (if (s.offer v).2 = .clamped then 1 else 0)))
    ∧ ∀ (w : Word) (commands data : List Word) (s : State),
        let reserve := 1 + commands.length + (if data = [] then 0 else 1)
        let idle := { s with decoder := { s.decoder with command := none, age := 0 } }
        s.responses.length + reserve ≤ 32 →
          (s.decoder.command = none → 0 < argCount (commandFields w).code →
            s.manage (w :: commands) data =
              State.manage
                { s with decoder := { s.decoder with command := some { fields := commandFields w, args := [] }, age := 0 } }
                commands data)
            ∧ ∀ p : PendingCommand, s.decoder.command = some p →
                (p.args.length + 2 ≤ argCount p.fields.code →
                  s.manage (w :: commands) data =
                    State.manage { s with decoder := { s.decoder with command := some { p with args := p.args ++ [w] } } }
                      commands data)
                  ∧ (p.args.length + 1 = argCount p.fields.code →
                      (p.fields.code.toNat = 13 → 32 < s.responses.length + reserve + 1 →
                          s.manage (w :: commands) data = (idle.answered 13 3 []).manage commands data)
                        ∧ (p.fields.code.toNat ≠ 13 ∨ s.responses.length + reserve + 1 ≤ 32 →
                            ∀ first : Word, commandFields first = p.fields →
                              ∃ alone, alone = State.manage { idle with responses := [] } (first :: (p.args ++ [w])) []
                                ∧ s.manage (w :: commands) data =
                                  State.manage { alone with responses := s.responses ++ alone.responses } commands data))

/-- A management frame (R136, R137, R144, R145): turned away whole when its header need exceeds the free room, with the
turned-away counter raised alone; otherwise handled by the decoder. Either way one return frame of kind 2 leaves, with
lane, status, link error, wedge index and correction 0 and up to four words from the head of the Response Queue; no
drive frame leaves, and servo frame time stands still. The transfer marks of this and every return frame: place m is 1
exactly when payload word m is a transfer word, and 0 at or above the payload's length (R142, R156). -/
def Obligations.ManagementFrame : Prop :=
  (∀ (payload : List QueuedWord) (m : Nat),
      (transferMarks payload).testBit m = true ↔ ∃ w, payload[m]? = some w ∧ w.source = .transfer)
    ∧ ∀ (words commands data : List Word) (s : State), receive words = .management commands data →
    let u :=
      if 32 - s.responses.length < commands.length + (if data = [] then 0 else 1) then
        { s with counters := { s.counters with turnedAway := min 65535 (s.counters.turnedAway + 1) } }
      else s.manage commands data
    ∃ t, exec (.managementFrame words) s = .next t
      ∧ t = { u with
          responses := u.responses.drop 4
          link := { s.link with receiving := [] }
          ports :=
            { s.ports with
              upstream := s.ports.upstream ++
                [sealFrame (BitVec.ofNat 16
                    (2 * 16384 + (if u.notices.records = [] then 0 else 1024) + (u.responses.take 4).length * 64
                      + transferMarks (u.responses.take 4))
                  :: 0 :: 0 :: (u.responses.take 4).map QueuedWord.word)]
              upstreamBegun := true } }

/-! ## Windows and campaigns -/

/-- ADAPT WINDOW (R87), PROBE START (R97, R98) and PROBE STOP (R106). The window is refused with RANGE for a length of 0,
then with STATE unless the lane is RUNNING in mode WINDOW, then with BUSY while a window is open; otherwise the window
remaining is the length. The campaign is refused with RANGE for a length of 0, then with STATE
outside RUNNING, then with BUSY while a campaign is RUNNING; otherwise the campaign record begins afresh, and the
answer carries the amplitude, clamped to 0..4095. The stop aborts a RUNNING campaign with its notice and is refused
with STATE otherwise. Nothing else changes. -/
def Obligations.WindowAndProbeCommands : Prop :=
  ∀ (l : Lane) (n a : Word) (s : State),
    (s.accepts 2 →
      let ready := (s.lane l).control.mode = .running ∧ (s.lane l).adapt.mode = .window
      (n.toNat = 0 → exec (.adaptWindow l n) s = .next (s.answered 12 2 []))
        ∧ (n.toNat ≠ 0 → ¬ready → exec (.adaptWindow l n) s = .next (s.answered 12 1 []))
        ∧ (n.toNat ≠ 0 → ready → 0 < (s.lane l).adapt.window → exec (.adaptWindow l n) s = .next (s.answered 12 4 []))
        ∧ (n.toNat ≠ 0 → ready → (s.lane l).adapt.window = 0 →
            exec (.adaptWindow l n) s = .next ((s.onAdapt l fun x => { x with window := n.toNat }).answered 12 0 [])))
      ∧ (s.accepts 3 →
      let pa := min 4095 (max 0 a.toInt).toNat
      (n.toNat = 0 → exec (.probeStart l n a) s = .next (s.answered 13 2 []))
        ∧ (n.toNat ≠ 0 → (s.lane l).control.mode ≠ .running → exec (.probeStart l n a) s = .next (s.answered 13 1 []))
        ∧ (n.toNat ≠ 0 → (s.lane l).control.mode = .running → (s.lane l).campaign.state = .running →
            exec (.probeStart l n a) s = .next (s.answered 13 4 []))
        ∧ (n.toNat ≠ 0 → (s.lane l).control.mode = .running → (s.lane l).campaign.state ≠ .running →
            exec (.probeStart l n a) s =
              .next ((s.onCampaign l fun _ =>
                { state := .running, requested := n.toNat, done := 0, amplitude := pa, generator := 127, signs := []
                  correlations := Vector.replicate 16 0 }).answered 13 0 [BitVec.ofNat 16 pa])))
      ∧ (s.accepts 1 →
          ((s.lane l).campaign.state = .running →
            exec (.probeStop l) s =
              .next (((s.onCampaign l fun c => { c with state := .aborted }).notify .probeAborted (some l) 0).answered
                14 0 []))
            ∧ ((s.lane l).campaign.state ≠ .running → exec (.probeStop l) s = .next (s.answered 14 1 [])))

/-! ## Bulk transfers -/

/-- TRANSFER START refused (R166): RANGE, then BUSY, then STATE, in that order, with the record, every hold and every
set as they were. -/
def Obligations.TransferStartRefused : Prop :=
  ∀ (a b : Word) (s : State), s.accepts 3 →
    let mode := a.toNat % 4
    let source := a.toNat / 256 % 64
    let range := mode = 3 ∨ 47 < source ∨ mode = 0 ∧ 47 < b.toNat ∨ mode = 1 ∧ (b.toNat = 0 ∨ 50 < b.toNat)
      ∨ mode = 2 ∧ b.toNat = 0
    let busy := s.transfer.state = .active ∨ s.transfer.state = .waiting
    (range → exec (.transferStart a b) s = .next (s.answered 15 2 []))
      ∧ (¬range → busy → exec (.transferStart a b) s = .next (s.answered 15 4 []))
      ∧ (∀ n d : SetNo, mode = 0 → source = n.val → b.toNat = d.val → ¬busy →
          (s.record n).state = .free ∨ (s.record n).state = .quarantined ∨ d = n ∨ (s.record d).state = .loading
            ∨ (s.record d).state = .live →
          exec (.transferStart a b) s = .next (s.answered 15 1 []))
      ∧ ∀ n : SetNo, mode = 1 → source = n.val → 1 ≤ b.toNat → b.toNat ≤ 50 → ¬busy → (s.record n).state = .free →
          exec (.transferStart a b) s = .next (s.answered 15 1 [])

/-- TRANSFER START accepted (R166, R167, R29): the record begins afresh with the mode and policies of the first
argument; a COPY or DUMP holds its source, a COPY also its destination, which becomes LOADING with the rest of its
record kept; a SWEEP holds nothing. A LOADING source makes the transfer WAITING under policy WAIT; under FAIL it ends
at once, NOT READY, with every hold released and its notice queued. No set word changes. What the engine does next and
the destination it keeps are the model's own fields (log entry 7), and that the end releases every hold of the bank is its
choice (log entry 13). -/
def Obligations.TransferStartAccepted : Prop :=
  ∀ (a b : Word) (n : SetNo) (s : State), s.accepts 3 → a.toNat / 256 % 64 = n.val →
    s.transfer.state ≠ .active → s.transfer.state ≠ .waiting →
    let fresh : TransferMode → Nat → Option SetNo → TransferPhase → Transfer := fun m count dest phase =>
      { state := .active, mode := m, skipBad := a.getLsbD 2, waitBusy := a.getLsbD 3, outcome := none
        remaining := count, current := some n, word := 0, badWords := 0, waitCount := 0, setBadWords := 0
        destination := dest, phase := phase, announced := 0 }
    let started := fun (x : Transfer) (held : SetNo → SetRecord) (t : State) =>
      if (s.record n).state = .loading ∧ a.getLsbD 3 = false then
        t = State.answered
            { s with
              transfer := { x with state := .done, outcome := some .notReady }
              bank := { s.bank with records := t.bank.records }
              notices := s.notices.add .transferDone none 3 } 15 0 []
          ∧ ∀ m : SetNo, t.record m = { held m with hold := .none }
      else
        t = State.answered
            { s with
              transfer := { x with state := if (s.record n).state = .loading then .waiting else .active }
              bank := { s.bank with records := t.bank.records } } 15 0 []
          ∧ ∀ m : SetNo, t.record m = held m
    (∀ d : SetNo, a.toNat % 4 = 0 → b.toNat = d.val → d ≠ n →
        (s.record n).state ≠ .free → (s.record n).state ≠ .quarantined →
        (s.record d).state ≠ .loading → (s.record d).state ≠ .live →
        ∃ t, exec (.transferStart a b) s = .next t
          ∧ started (fresh .copy 50 (some d) .words)
              (fun m =>
                if m = d then { s.record m with state := .loading, hold := .destination }
                else if m = n then { s.record m with hold := .source } else s.record m) t)
      ∧ (a.toNat % 4 = 1 → 1 ≤ b.toNat → b.toNat ≤ 50 → (s.record n).state ≠ .free →
          ∃ t, exec (.transferStart a b) s = .next t
            ∧ started (fresh .dump b.toNat none .header)
                (fun m => if m = n then { s.record m with hold := .source } else s.record m) t)
      ∧ (a.toNat % 4 = 2 → 1 ≤ b.toNat →
          exec (.transferStart a b) s =
            .next (State.answered { s with transfer := fresh .sweep b.toNat none .examine } 15 0 []))

/-- TRANSFER ABORT (R175, R174, R33): an ACTIVE or WAITING transfer ends ABORTED, every hold released, its counts and its
place kept, TRANSFER DONE queued with detail 4; a COPY's destination keeps its state and no word changes. Otherwise
the command is refused with STATE and nothing changes. That every hold of the bank is released, which R174 says of the
holds the transfer had set, is the model's choice (log entry 13). -/
def Obligations.TransferAbort : Prop :=
  ∀ s : State, s.accepts 1 →
    (s.transfer.state = .active ∨ s.transfer.state = .waiting →
      ∃ t, exec .transferAbort s = .next t
        ∧ t = State.answered
            { s with
              transfer := { s.transfer with state := .done, outcome := some .aborted }
              bank := { s.bank with records := t.bank.records }
              notices := s.notices.add .transferDone none 4 } 16 0 []
        ∧ ∀ m : SetNo, t.record m = { s.record m with hold := .none })
      ∧ (s.transfer.state = .idle ∨ s.transfer.state = .done → exec .transferAbort s = .next (s.answered 16 1 []))

/-- A word movement whose read finds the word clean or with a single error (R169, R170): the remaining count falls by
one, the value is written into the same word of a COPY's destination or appended to the Response Queue, and the
current word advances. A single error is corrected, counted and reported. This is not a COPY's last word. -/
def Obligations.WordMovementDelivers : Prop :=
  ∀ (n : SetNo) (w : WordNo) (s : State), s.storesCanonical → s.transfer.state = .active →
    s.transfer.current = some n → s.transfer.word = w.val →
    let c := s.bankAt (n.val * 64 + w.val)
    c.flipped.length ≤ 1 →
    let read : State :=
      { s with
        notices := if c.flipped = [] then s.notices else s.notices.add .storageCorrected none n.val
        counters :=
          { s.counters with
            storageCorrection :=
              if c.flipped = [] then s.counters.storageCorrection else min 65535 (s.counters.storageCorrection + 1) } }
    (∀ d : SetNo, s.transfer.mode = .copy → s.transfer.destination = some d → d ≠ n → w.val < 49 →
        ∃ t, exec .wordMovement s = .next t
          ∧ t = { read with
              bank := { s.bank with words := t.bank.words }
              transfer := { s.transfer with remaining := s.transfer.remaining - 1, word := w.val + 1 } }
          ∧ ∀ a : Nat, t.bankAt a =
              if a = d.val * 64 + w.val then { value := c.value, flipped := [] }
              else if a = n.val * 64 + w.val then { c with flipped := [] } else s.bankAt a)
      ∧ (s.transfer.mode ≠ .copy → s.transfer.phase = .words → s.transferWords < 24 → s.responses.length < 32 →
          ∃ t, exec .wordMovement s = .next t
            ∧ t = { read with
                bank := { s.bank with words := t.bank.words }
                responses := s.responses ++ [⟨.transfer, c.value⟩]
                transfer :=
                  { s.transfer with
                    remaining := s.transfer.remaining - 1, word := w.val + 1
                    phase := if s.transfer.announced ≤ w.val + 1 then .trailer else .words } }
            ∧ ∀ a : Nat, t.bankAt a = if a = n.val * 64 + w.val then { c with flipped := [] } else s.bankAt a)

/-- The last word movement of a COPY, over a clean word or a single error (R169, R170, R174, R29, R25, R35): the value is
delivered, every hold is released, the destination's words are brought within their ranges with valid check information,
its frozen flag is cleared and it is READY, whether it was LOADING or QUARANTINED; the record is DONE with outcome
COMPLETE and current word 50; TRANSFER DONE is queued with detail 0. A single error is corrected in the source, counted
and reported before that. No other word outside the destination changes. That the end releases every hold of the bank is
the model's choice (log entry 13). -/
def Obligations.CopyCompletes : Prop :=
  ∀ (n d : SetNo) (s : State), s.storesCanonical → s.transfer.state = .active → s.transfer.mode = .copy →
    s.transfer.current = some n → s.transfer.word = 49 → s.transfer.destination = some d → d ≠ n →
    let c := s.bankAt (n.val * 64 + 49)
    c.flipped.length ≤ 1 →
    let last := c.value.toInt
    ∃ t, exec .wordMovement s = .next t
      ∧ t = { s with
          bank := t.bank
          notices :=
            (if c.flipped = [] then s.notices else s.notices.add .storageCorrected none n.val).add .transferDone none 0
          counters :=
            { s.counters with
              storageCorrection :=
                if c.flipped = [] then s.counters.storageCorrection else min 65535 (s.counters.storageCorrection + 1) }
          transfer :=
            { s.transfer with
              state := .done, outcome := some .complete, remaining := s.transfer.remaining - 1, word := 50 } }
      ∧ (∀ m : SetNo, t.record m =
          if m = d then { s.record d with state := .ready, frozen := false, hold := .none }
          else { s.record m with hold := .none })
      ∧ (∀ a : Nat, ¬(d.val * 64 ≤ a ∧ a < d.val * 64 + 50) →
          t.bankAt a = if a = n.val * 64 + 49 then { c with flipped := [] } else s.bankAt a)
      ∧ ∀ w : WordNo, (t.bankAt (d.val * 64 + w.val)).flipped = []
          ∧ t.wordInt d w.val =
              inRange (commitRange (s.wordInt d 8) w.val) (if w.val = 49 then last else s.wordInt d w.val)

/-- A word movement whose read finds a double error (R169, R36, R174): under STOP nothing is delivered and the transfer
ends DATA ERROR, the current word at the failed word and every hold released; under SKIP 0 is delivered, both bad-word
counts rise, and the transfer goes on: a DUMP or SWEEP with the 0 in the Response Queue, a COPY with the 0 in its
destination, its last word ending it COMPLETE with the destination committed and READY (R29, R170). The set is
QUARANTINED, counted and reported, and a lane whose current set it was loses it. That three or more flipped places are a
double error (log entry 6), that SET QUARANTINED stands before the TRANSFER DONE it causes (log entry 12), and that the end
releases every hold of the bank (log entry 13), are the model's choices. -/
def Obligations.WordMovementDoubleError : Prop :=
  ∀ (n : SetNo) (w : WordNo) (s : State), s.transfer.state = .active → s.transfer.current = some n →
    s.transfer.word = w.val → (s.record n).state ≠ .free → 2 ≤ (s.bankAt (n.val * 64 + w.val)).flipped.length →
    let found : Transfer := { s.transfer with remaining := s.transfer.remaining - 1 }
    let skipped : Transfer :=
      { found with
        badWords := min 65535 (s.transfer.badWords + 1), setBadWords := s.transfer.setBadWords + 1, word := w.val + 1 }
    let report := s.notices.add .setQuarantined none n.val
    let lost := fun (t : State) => ∀ l : Lane, t.lane l =
      if (s.lane l).selection.current = some n ∧ (s.record n).state ≠ .quarantined then (s.lane l).withoutSet
      else s.lane l
    let quarantined := fun (m : SetNo) => if m = n then SetState.quarantined else (s.record m).state
    (s.transfer.mode ≠ .copy → s.transfer.phase = .words → s.transferWords < 24 → s.responses.length < 32 →
      ∃ t, exec .wordMovement s = .next t
        ∧ t = { s with
            bank := { s.bank with records := t.bank.records }
            lane0 := t.lane0, lane1 := t.lane1
            counters := { s.counters with storageError := min 65535 (s.counters.storageError + 1) }
            notices := if s.transfer.skipBad then report else report.add .transferDone none 1
            responses := if s.transfer.skipBad then s.responses ++ [⟨.transfer, 0⟩] else s.responses
            transfer :=
              if s.transfer.skipBad then
                { skipped with phase := if s.transfer.announced ≤ w.val + 1 then .trailer else .words }
              else { found with state := .done, outcome := some .dataError } }
        ∧ lost t
        ∧ ∀ m : SetNo, t.record m =
            { s.record m with
              state := quarantined m, hold := if s.transfer.skipBad then (s.record m).hold else .none })
      ∧ ∀ d : SetNo, s.transfer.mode = .copy → s.transfer.destination = some d → d ≠ n → s.storesCanonical →
          let ends := s.transfer.skipBad = false ∨ w.val = 49
          ∃ t, exec .wordMovement s = .next t
            ∧ t = { s with
                bank := t.bank
                lane0 := t.lane0, lane1 := t.lane1
                counters := { s.counters with storageError := min 65535 (s.counters.storageError + 1) }
                notices :=
                  if s.transfer.skipBad = false then report.add .transferDone none 1
                  else if w.val = 49 then report.add .transferDone none 0 else report
                transfer :=
                  if s.transfer.skipBad = false then { found with state := .done, outcome := some .dataError }
                  else if w.val = 49 then { skipped with state := .done, outcome := some .complete } else skipped }
            ∧ lost t
            ∧ (∀ m : SetNo, t.record m =
                if m = d ∧ s.transfer.skipBad = true ∧ w.val = 49 then
                  { s.record d with state := .ready, frozen := false, hold := .none }
                else { s.record m with state := quarantined m, hold := if ends then .none else (s.record m).hold })
            ∧ (s.transfer.skipBad = false → ∀ a : Nat, t.bankAt a = s.bankAt a)
            ∧ (s.transfer.skipBad = true → w.val < 49 → ∀ a : Nat,
                t.bankAt a = if a = d.val * 64 + w.val then { value := 0, flipped := [] } else s.bankAt a)
            ∧ (s.transfer.skipBad = true → w.val = 49 →
                (∀ a : Nat, ¬(d.val * 64 ≤ a ∧ a < d.val * 64 + 50) → t.bankAt a = s.bankAt a)
                  ∧ ∀ v : WordNo, (t.bankAt (d.val * 64 + v.val)).flipped = []
                      ∧ t.wordInt d v.val =
                          inRange (commitRange (s.wordInt d 8) v.val) (if v.val = 49 then 0 else s.wordInt d v.val))

/-- The header and the trailer of a block (R171, R172, R173, R143): with room for a transfer word, the header names the
set and the words to come, the smaller of 50 and the remaining count, and clears the set bad-word count; the trailer
names the set and carries that count. After its trailer a DUMP ends COMPLETE; a SWEEP releases the set's hold, and
ends COMPLETE when no word remains or goes on to the next set. That a SWEEP past set 47 stands at a current set of NONE and
word 0, a further examination due, and that the record keeps what comes next and the words announced, are the model's
choices (log entry 7); so is that the end releases every hold of the bank (log entry 13). -/
def Obligations.BlockHeaderAndTrailer : Prop :=
  ∀ (n : SetNo) (s : State), s.transfer.state = .active → s.transfer.mode ≠ .copy → s.transfer.current = some n →
    s.transferWords < 24 → s.responses.length < 32 →
    let count := min 50 s.transfer.remaining
    let ended := fun (t : State) =>
      t = { s with
          bank := { s.bank with records := t.bank.records }
          responses := s.responses ++ [⟨.transfer, BitVec.ofNat 16 (49152 + n.val * 256 + s.transfer.setBadWords)⟩]
          notices := s.notices.add .transferDone none 0
          transfer := { s.transfer with state := .done, outcome := some .complete } }
        ∧ ∀ m : SetNo, t.record m = { s.record m with hold := .none }
    (s.transfer.phase = .header →
      exec .blockHeaderAppend s =
        .next { s with
          responses := s.responses ++ [⟨.transfer, BitVec.ofNat 16 (32768 + n.val * 256 + count)⟩]
          transfer := { s.transfer with setBadWords := 0, announced := count, phase := .words } })
      ∧ (s.transfer.phase = .trailer → s.transfer.mode = .dump ∨ s.transfer.remaining = 0 →
          ∃ t, exec .blockTrailerAppend s = .next t ∧ ended t)
      ∧ (s.transfer.phase = .trailer → s.transfer.mode = .sweep → s.transfer.remaining ≠ 0 →
          exec .blockTrailerAppend s =
            .next { (s.onRecord n fun r => { r with hold := .none }) with
              responses := s.responses ++ [⟨.transfer, BitVec.ofNat 16 (49152 + n.val * 256 + s.transfer.setBadWords)⟩]
              transfer :=
                { s.transfer with
                  current := if h : n.val + 1 < 48 then some ⟨n.val + 1, h⟩ else none, word := 0, phase := .examine } })

/-- A SWEEP examines its current set (R173): a FREE or LOADING set is skipped without a hold, any other is held and its
block comes next; past set 47, which the model shows as a current set of NONE (log entry 7), the SWEEP ends END OF
BANK with every hold of the bank released (log entry 13). It examines whatever room the Response Queue has (log entry 23).
The three named are the model's choices. -/
def Obligations.SweepExamine : Prop :=
  ∀ s : State, s.transfer.state = .active → s.transfer.mode = .sweep → s.transfer.phase = .examine →
    (∀ n : SetNo, s.transfer.current = some n →
        ((s.record n).state = .free ∨ (s.record n).state = .loading →
          exec .sweepExamine s =
            .next { s with transfer :=
              { s.transfer with current := if h : n.val + 1 < 48 then some ⟨n.val + 1, h⟩ else none, word := 0 } })
          ∧ ((s.record n).state = .ready ∨ (s.record n).state = .live ∨ (s.record n).state = .quarantined →
              exec .sweepExamine s =
                .next { (s.onRecord n fun r => { r with hold := .source }) with
                  transfer := { s.transfer with phase := .header } }))
      ∧ (s.transfer.current = none →
          ∃ t, exec .sweepExamine s = .next t
            ∧ t = { s with
                bank := { s.bank with records := t.bank.records }
                notices := s.notices.add .transferDone none 5
                transfer := { s.transfer with state := .done, outcome := some .endOfBank } }
            ∧ ∀ m : SetNo, t.record m = { s.record m with hold := .none })

/-- A transfer that waits (R168, R174): a valid servo frame's rise of the wait count to 4096 ends it TIMEOUT, every hold
released. COMMIT SET of its LOADING source makes it ACTIVE when the commit makes the source READY; a double error that the
commit, a READ or any other checked read finds quarantines the source, which makes a DUMP ACTIVE and ends a COPY NOT READY,
every hold released, in the event of the reader; reads that find none leave it waiting. A COPY's TRANSFER DONE stands right
after the SET QUARANTINED of the first failing word, ahead of the notices of the words read after it (log entry 12), the
end releases every hold of the bank (log entry 13), and three or more flipped places are a double error (log entry 6): the
model's choices. The source is no lane's current set. -/
def Obligations.WaitingTransfer : Prop :=
  ∀ (n : SetNo) (s : State), s.transfer.state = .waiting → s.transfer.current = some n →
    let stopsCopy := fun (bad : Bool) => decide (bad = true ∧ s.transfer.mode = .copy)
    let after := fun (bad : Bool) =>
      if bad = false then s.transfer
      else if s.transfer.mode = .copy then { s.transfer with state := .done, outcome := some .notReady }
      else { s.transfer with state := .active }
    let noticesOf := fun (cs : List Cell) =>
      if s.transfer.mode = .copy then s.notices.afterSourceReads n cs else s.notices.afterReads n false cs
    let countersOf := fun (cs : List Cell) =>
      { s.counters with
        storageCorrection := raisedBy s.counters.storageCorrection (singles cs)
        storageError := raisedBy s.counters.storageError (doubles cs) }
    let recordOf := fun (bad : Bool) (m : SetNo) =>
      { s.record m with
        state := if m = n ∧ bad = true then .quarantined else (s.record m).state
        hold := if stopsCopy bad then .none else (s.record m).hold }
    (4095 ≤ s.transfer.waitCount →
      ∃ t, exec .transferTimeout s = .next t
        ∧ t = { s with
            bank := { s.bank with records := t.bank.records }
            notices := s.notices.add .transferDone none 2
            transfer :=
              { s.transfer with
                state := .done, outcome := some .timeout, waitCount := s.transfer.waitCount + 1 } }
        ∧ ∀ m : SetNo, t.record m = { s.record m with hold := .none })
      ∧ (s.sourceReady n = { s with transfer := { s.transfer with state := .active } })
      ∧ (∀ t, (s.record n).state = .loading → t = s.quarantine n →
          (s.transfer.mode ≠ .copy → t.transfer = { s.transfer with state := .active }
              ∧ ∀ m : SetNo, t.record m = if m = n then { s.record n with state := .quarantined } else s.record m)
            ∧ (s.transfer.mode = .copy → t.transfer = { s.transfer with state := .done, outcome := some .notReady }
              ∧ ∀ m : SetNo, t.record m =
                  { s.record m with state := if m = n then .quarantined else (s.record m).state, hold := .none }))
      ∧ ((s.record n).state = .loading → s.storesCanonical → (∀ l : Lane, (s.lane l).selection.current ≠ some n) →
          (∀ w : WordNo,
            let cs := s.cells n w.val 1
            let bad := decide (0 < doubles cs)
            ∃ t, s.readWord n w.val = (t, if bad then none else some (s.bankAt (n.val * 64 + w.val)).value)
              ∧ t = { s with
                  bank := t.bank, notices := noticesOf cs, counters := countersOf cs, transfer := after bad }
              ∧ (∀ m : SetNo, t.record m = recordOf bad m)
              ∧ ∀ a : Nat, t.bankAt a = if a = n.val * 64 + w.val then (s.bankAt a).afterRead else s.bankAt a)
            ∧ (∀ imm : BitVec 9, s.accepts 1 → imm.toNat = n.val → (s.record n).hold ≠ .destination →
                let cs := s.cells n 0 50
                let bad := decide (0 < doubles cs)
                ∃ t, exec (.commitSet imm) s = .next t
                  ∧ t = State.answered
                      { s with
                        bank := t.bank, notices := noticesOf cs, counters := countersOf cs
                        transfer := if bad then after true else { s.transfer with state := .active } }
                      5 (if bad then 7 else 0) []
                  ∧ (∀ m : SetNo, t.record m =
                      if bad = false ∧ m = n then { s.record n with state := .ready, frozen := false } else recordOf bad m)
                  ∧ (∀ a : Nat, ¬(n.val * 64 ≤ a ∧ a < n.val * 64 + 50) → t.bankAt a = s.bankAt a)
                  ∧ ∀ w : WordNo,
                      if bad then t.bankAt (n.val * 64 + w.val) = (s.bankAt (n.val * 64 + w.val)).afterRead
                      else (t.bankAt (n.val * 64 + w.val)).flipped = []
                        ∧ t.wordInt n w.val = inRange (commitRange (s.wordInt n 8) w.val) (s.wordInt n w.val))
            ∧ ∀ (imm : BitVec 9) (w : Nat), s.accepts 1 → 1 ≤ imm.toNat → imm.toNat ≤ 16 → w ≤ 50 →
                s.decoder.pointer.region = .bank → s.decoder.pointer.addr = n.val * 64 + w →
                let k := min imm.toNat (50 - w)
                let cs := s.cells n w k
                let bad := decide (0 < doubles cs)
                s.responses.length + 1 + k ≤ 32 →
                ∃ t, exec (.read imm) s = .next t
                  ∧ t = State.answered
                      { s with
                        bank := t.bank, notices := noticesOf cs, counters := countersOf cs, transfer := after bad
                        decoder :=
                          { s.decoder with
                            pointer :=
                              if s.decoder.origin = none then { s.decoder.pointer with addr := n.val * 64 + w + k }
                              else s.decoder.pointer } }
                      2 (if bad then 7 else 0) (cs.map fun c => if 2 ≤ c.flipped.length then 0 else c.value)
                  ∧ (∀ m : SetNo, t.record m = recordOf bad m)
                  ∧ ∀ a : Nat, t.bankAt a =
                      if n.val * 64 + w ≤ a ∧ a < n.val * 64 + w + k then (s.bankAt a).afterRead else s.bankAt a)

/-! ## Events that a limit brings about -/

/-- Events that a limit brings about, each by the last rise to it: REFERENCE LOST (R11, R12), the end of priming (R116,
R17), the end of a campaign (R105) and of a window (R86), the drop of a pending command whose age reaches 16,
unexecuted and unanswered (R148), and the end of a waiting transfer whose wait count reaches 4096 (R168). Each changes just what its rule names, and queues its one notice, but for the end of
priming, which queues none. And how a servo frame raises the counts that have a limit: counting the frame raises the
argument age of a pending command and the wait count of a waiting transfer, with their ends at 16 and 4096 (R148, R168,
R134), the age's notice first (log entry 10) and every hold of the bank released by the timeout (log entry 13), both the
model's choices; forming its output command raises the
command-saturation counter when the exact sum lies outside the signed-16 range, and in RUNNING raises the saturation run
or makes it 0 (R65, R70, R73); after its stages a RUNNING lane with a run of 32 enters FAULT as by LANE FAULT (R71). -/
def Obligations.LimitEvents : Prop :=
  ∀ (l : Lane) (s : State),
    ((s.lane l).control.mode ≠ .off → (s.lane l).reference.fresh = false → (s.lane l).reference.status ≠ .lost →
        1 ≤ (s.lane l).control.staleLimit → (s.lane l).reference.staleCount ≤ 1022 →
        (s.lane l).control.staleLimit + (s.lane l).control.holdLength ≤ (s.lane l).reference.staleCount + 1 →
        exec (.referenceLost l) s =
          .next ((s.onReference l fun r => { r with status := .lost, staleCount := r.staleCount + 1 }).notify
            .referenceLost (some l) 0))
      ∧ ((s.lane l).control.mode = .priming → (s.lane l).reference.status = .good → (s.lane l).control.fill = 63 →
          ∃ t, exec (.primingComplete l) s = .next t
            ∧ (∀ i : Fin 64, (t.lane l).reference.ring[i.val] =
                if h : i.val = 0 then s.cond.sample else (s.lane l).reference.ring[i.val - 1])
            ∧ t = (s.onReference l fun r => { r with ring := (t.lane l).reference.ring, settle := r.settle - 1 }).onControl l
                (fun c => { c with mode := .running, fill := 64 }))
      ∧ ((s.lane l).campaign.state = .running → (s.lane l).campaign.done + 1 = (s.lane l).campaign.requested →
          exec (.campaignDone l) s =
            .next ((s.onCampaign l fun c => { c with state := .done, done := c.requested }).notify .probeDone (some l) 0))
      ∧ ((s.lane l).control.mode = .running → (s.lane l).adapt.mode = .window → (s.lane l).adapt.window = 1 →
          exec (.windowClose l) s =
            .next ((s.onAdapt l fun x => { x with window := 0 }).notify .windowDone (some l) 0))
      ∧ (∀ p : PendingCommand, s.decoder.command = some p → s.decoder.age = 15 →
          exec .argumentExpired s =
            .next (State.notify { s with decoder := { s.decoder with command := none, age := 0 } } .argumentExpired none
              p.fields.code.toNat))
      ∧ (s.transfer.state = .waiting → 4095 ≤ s.transfer.waitCount →
          ∃ t, exec .transferTimeout s = .next t
            ∧ t = { s with
                bank := { s.bank with records := t.bank.records }
                notices := s.notices.add .transferDone none 2
                transfer :=
                  { s.transfer with
                    state := .done, outcome := some .timeout, waitCount := s.transfer.waitCount + 1 } }
            ∧ ∀ m : SetNo, t.record m = { s.record m with hold := .none })
      ∧ (let expires := s.decoder.command ≠ none ∧ 15 ≤ s.decoder.age
        let ends := s.transfer.state = .waiting ∧ 4095 ≤ s.transfer.waitCount
        ∃ t, s.countFrame = t
          ∧ t = { s with
              link := { s.link with frameTime := s.link.frameTime + 1 }
              decoder :=
                if s.decoder.command = none then s.decoder
                else if 15 ≤ s.decoder.age then { s.decoder with command := none, age := 0 }
                else { s.decoder with age := s.decoder.age + 1 }
              bank := { s.bank with records := t.bank.records }
              transfer :=
                if s.transfer.state = .waiting then
                  { s.transfer with
                    waitCount := s.transfer.waitCount + 1
                    state := if 4095 ≤ s.transfer.waitCount then .done else .waiting
                    outcome := if 4095 ≤ s.transfer.waitCount then some .timeout else s.transfer.outcome }
                else s.transfer
              notices := t.notices }
          ∧ (∀ m : SetNo, t.record m = { s.record m with hold := if ends then .none else (s.record m).hold })
          ∧ ∃ q, (¬expires → q = s.notices)
            ∧ (∀ p ∈ s.decoder.command, expires → q = s.notices.add .argumentExpired none p.fields.code.toNat)
            ∧ t.notices = if ends then q.add .transferDone none 2 else q)
      ∧ (∀ sum : Int,
          let outside := sum < -32768 ∨ 32767 < sum
          s.formOutput l sum =
            (s.onCounters l fun c =>
                { c with
                  commandSaturation := if outside then min 65535 (c.commandSaturation + 1) else c.commandSaturation }).onFilter
              l fun x =>
                { x with
                  saturationRun :=
                    if (s.lane l).control.mode = .running then (if outside then x.saturationRun + 1 else 0)
                    else x.saturationRun })
      ∧ ((s.lane l).control.mode ≠ .running ∨ (s.lane l).filter.saturationRun < 32 → s.checkFault l = s)
      ∧ ((s.lane l).control.mode = .running → 32 ≤ (s.lane l).filter.saturationRun →
          exec (.laneFault l) s = .next (s.checkFault l))

/-- The divergence count's rise to 64 rolls the current set of a RUNNING lane back (R92), a set that adaptation may
change: LIVE, not frozen, under no hold, by route PRIMARY (R33, R75): its 40 taps are the shadow's, with valid check
information whatever they held, its frozen flag is set, the count is 0, DIVERGED is queued with the set number. The set
stays LIVE and current, and every other word reads as before. Where adaptation may not change the set's words, the row
changes nothing: the model's choice (log entry 2). -/
def Obligations.DivergenceRollback : Prop :=
  ∀ (l : Lane) (n : SetNo) (sh : Shadow) (s : State), s.storesCanonical → (s.lane l).selection.current = some n →
    (s.lane l).adapt.divergence = 63 → (s.lane l).adapt.shadow = some sh → sh.taps.length = 40 →
    let allowed :=
      (s.lane l).control.mode = .running ∧ (s.lane l).selection.route = .primary ∧ (s.record n).state = .live
        ∧ (s.record n).frozen = false ∧ (s.record n).hold = .none
    (¬allowed → exec (.divergenceRollback l) s = .next s) ∧ (allowed →
    ∃ t, exec (.divergenceRollback l) s = .next t
      ∧ t = (({ s with bank := t.bank } : State).onAdapt l fun x => { x with divergence := 0 }).notify .diverged (some l)
          n.val
      ∧ (∀ m : SetNo, t.record m = if m = n then { s.record n with frozen := true } else s.record m)
      ∧ ∀ a : Nat, t.bankAt a =
          if n.val * 64 + 10 ≤ a ∧ a < n.val * 64 + 50 then
            { value := sh.taps.getD (a - (n.val * 64 + 10)) 0, flipped := [] }
          else s.bankAt a)

/-- Where the rise, or the movement, that a row stands for would not come about in the state, the command changes
nothing: each clause is the negation of what the row's rule needs. The rows are steps that rules describe within other
events, and the spec gives no effect of commanding one where it does not fall: this is the model's choice (log entries 2
and 3), and so is that an examination is due whatever room the Response Queue has (log entry 23). -/
def Obligations.EventsNotDueChangeNothing : Prop :=
  ∀ (l : Lane) (s : State),
    let block := fun (p : TransferPhase) => s.transfer.state = .active ∧ s.transfer.mode ≠ .copy ∧ s.transfer.phase = p
    let fits := s.transferWords < 24 ∧ s.responses.length < 32
    ((s.lane l).control.mode = .off ∨ (s.lane l).reference.fresh = true ∨ (s.lane l).reference.status = .lost
          ∨ min 1023 ((s.lane l).reference.staleCount + 1) < (s.lane l).control.staleLimit + (s.lane l).control.holdLength →
        exec (.referenceLost l) s = .next s)
      ∧ ((s.lane l).control.mode ≠ .priming ∨ (s.lane l).reference.status ≠ .good ∨ (s.lane l).control.fill < 63 →
          exec (.primingComplete l) s = .next s)
      ∧ ((s.lane l).campaign.state ≠ .running ∨ (s.lane l).campaign.done + 1 ≠ (s.lane l).campaign.requested →
          exec (.campaignDone l) s = .next s)
      ∧ ((s.lane l).selection.current = none ∨ (s.lane l).adapt.divergence < 63 ∨ (s.lane l).control.mode ≠ .running
            ∨ (s.lane l).selection.route ≠ .primary
            ∨ (∃ n, (s.lane l).selection.current = some n
                ∧ ((s.record n).state ≠ .live ∨ (s.record n).frozen = true ∨ (s.record n).hold ≠ .none)) →
          exec (.divergenceRollback l) s = .next s)
      ∧ ((s.lane l).control.mode ≠ .running ∨ (s.lane l).adapt.mode ≠ .window ∨ (s.lane l).adapt.window ≠ 1 →
          exec (.windowClose l) s = .next s)
      ∧ ((s.lane l).control.mode ≠ .running ∨ (s.lane l).filter.saturationRun < 31 → exec (.laneFault l) s = .next s)
      ∧ (s.decoder.command = none ∨ s.decoder.age < 15 → exec .argumentExpired s = .next s)
      ∧ (s.transfer.state ≠ .waiting ∨ s.transfer.waitCount < 4095 → exec .transferTimeout s = .next s)
      ∧ (s.transfer.current = none ∨ ¬(s.transfer.state = .active ∧ s.transfer.mode = .copy) ∧ ¬(block .words ∧ fits) →
          exec .wordMovement s = .next s)
      ∧ (s.transfer.current = none ∨ ¬(block .header ∧ fits) → exec .blockHeaderAppend s = .next s)
      ∧ (s.transfer.current = none ∨ ¬(block .trailer ∧ fits) → exec .blockTrailerAppend s = .next s)
      ∧ (¬block .examine → exec .sweepExamine s = .next s)

/-! ## Reference acquisition -/

/-- The rotational sample (R2): a channel is scaled at full width, polarity times value times trim, rounded half up by
14 places, and lies within ±131072; r is their difference rounded half up by one place, then Sat16. With both
polarities +1 and both trims 16384, the channels are unscaled and r is their halved difference, rounded half up. -/
def Obligations.RawDifference : Prop :=
  ∀ (p : CondParams) (a1 a2 : Word),
    let c1 := (((if p.negative1 then -1 else 1) * a1.toInt * (p.trim1.toNat : Int) + 8192 : Int)).fdiv 16384
    let c2 := (((if p.negative2 then -1 else 1) * a2.toInt * (p.trim2.toNat : Int) + 8192 : Int)).fdiv 16384
    let half := fun (x : Int) => max (-32768) (min 32767 ((x + 1).fdiv 2))
    (rawDifference p a1 a2).toInt = half (c1 - c2)
      ∧ (-131072 ≤ c1 ∧ c1 ≤ 131072) ∧ (-131072 ≤ c2 ∧ c2 ≤ 131072)
      ∧ (p.negative1 = false → p.negative2 = false → p.trim1 = 16384 → p.trim2 = 16384 →
          c1 = a1.toInt ∧ c2 = a2.toInt ∧ (rawDifference p a1 a2).toInt = half (a1.toInt - a2.toInt))

/-- A sensor frame (R1, R3, R4, R5, R10, R140): the sequence check, the clip, the sample and baseline, the temperature
of a frame numbered 0, the fresh flags of both lanes. A gap and a clipped frame each raise both settle counts to at
least 64, are counted, and queue their notice, the gap's first. The baseline stays in its range. A frame of any other
length changes nothing. -/
def Obligations.SensorFrame : Prop :=
  ∀ (words : List Word) (s : State),
    (words.length ≠ 4 → exec (.sensorFrame words) s = .next s)
      ∧ ∀ h a1 a2 aux : Word, words = [h, a1, a2, aux] →
          let seq := h.extractLsb' 0 4
          let gap := ∃ e, s.cond.expectation = some e ∧ e ≠ seq
          let limit := fun (a : Word) => a.toInt = -32768 ∨ a.toInt = 32767
          let clip := (if limit a1 then 1 else 0) + (if limit a2 then 2 else 0)
          let r := (rawDifference s.cond.params a1 a2).toInt
          let b := s.cond.baseline
          ∃ t, exec (.sensorFrame words) s = .next t
            ∧ t = { s with
                cond := t.cond
                lane0 := { s.lane0 with reference := t.lane0.reference }
                lane1 := { s.lane1 with reference := t.lane1.reference }
                counters := t.counters
                notices := t.notices }
            ∧ t.cond.params = s.cond.params ∧ t.cond.expectation = some (seq + 1)
            ∧ t.cond.sample.toInt = max (-32768) (min 32767 (r - (b + 128).fdiv 256))
            ∧ t.cond.baseline = b + (r * 256 - b).fdiv 1024
            ∧ (-8388608 ≤ b → b ≤ 8388352 → -8388608 ≤ t.cond.baseline ∧ t.cond.baseline ≤ 8388352)
            ∧ (t.cond.temperature = if seq = 0 then some aux else s.cond.temperature)
            ∧ (seq ≠ 0 → t.cond.band = s.cond.band)
            ∧ (∀ l : Lane, ∃ k, (gap ∨ 0 < clip → k = max 64 (s.lane l).reference.settle)
                ∧ (¬gap → clip = 0 → k = (s.lane l).reference.settle)
                ∧ (t.lane l).reference = { (s.lane l).reference with fresh := true, settle := k })
            ∧ (∃ q, (gap → q = s.notices.add .sensorGap none 0) ∧ (¬gap → q = s.notices)
                ∧ t.notices = if 0 < clip then q.add .sensorClip none clip else q)
            ∧ ∃ g, (gap → g = min 65535 (s.counters.sensorGap + 1)) ∧ (¬gap → g = s.counters.sensorGap)
                ∧ t.counters = { s.counters with
                    sensorGap := g
                    sensorClip := if 0 < clip then min 65535 (s.counters.sensorClip + 1) else s.counters.sensorClip }

/-- R6: a first temperature gives the number of thresholds at or below it; a later one the highest band above the
current one whose threshold it reaches by H, else the lowest band below it that it falls below by H, else the band as
it was. The comparisons are literal, for thresholds in any order. -/
def Obligations.TemperatureBand : Prop :=
  ∀ (h a1 a2 aux : Word) (s : State), h.extractLsb' 0 4 = 0 →
    let t : Int := aux.toInt
    let threshold := fun (c : Nat) =>
      if c = 1 then s.cond.params.threshold1.toInt
      else if c = 2 then s.cond.params.threshold2.toInt else s.cond.params.threshold3.toInt
    let up := fun (c : Nat) => s.cond.band.val < c ∧ c ≤ 3 ∧ threshold c + s.cond.params.hysteresis ≤ t
    let down := fun (c : Nat) => c < s.cond.band.val ∧ t < threshold (c + 1) - s.cond.params.hysteresis
    ∃ u, exec (.sensorFrame [h, a1, a2, aux]) s = .next u
      ∧ (s.cond.temperature = none → u.cond.band.val = ((List.range 3).filter fun c => decide (threshold (c + 1) ≤ t)).length)
      ∧ (s.cond.temperature ≠ none →
          (∀ c, up c → (∀ k, up k → k ≤ c) → u.cond.band.val = c)
            ∧ ((∀ k, ¬up k) → ∀ c, down c → (∀ k, down k → c ≤ k) → u.cond.band.val = c)
            ∧ ((∀ k, ¬up k) → (∀ k, ¬down k) → u.cond.band = s.cond.band))

/-- Wedge continuity (R120, R121, R122, R128), outside OFF: an index of WPR or above is a slip and clears the
expectation; any other sets it to the next index, and is in sequence when none was expected or the expected one came,
a gap of one to three indices beyond it, else a slip. A gap is counted wedge by wedge. A slip is counted, empties the
fill count and is reported, with detail 1 for an index of WPR or above; a RUNNING lane leaves for PRIMING by R113. A
lane in OFF is left alone. And what the Reference Conditioner does with a verdict (R10 to R19, R116): outside OFF the
fresh flag is examined and cleared, the stale count becomes 0 or rises to at most 1023, the status is graded by SL and
SL + HL, a change to LOST is reported, a recovery raises the settle count to at least 64 and a gap of g to at least 32;
with the status GOOD the sample is pushed g + 1 times (once without a gap), each push lowering the settle count and
raising the fill count to at most 64, at which a PRIMING lane is RUNNING. In every state the input command joins the other
lane's sibling history. -/
def Obligations.WedgeContinuity : Prop :=
  ∀ (l : Lane) (w : Word) (s : State), 1 ≤ (s.lane l).control.wedgesPerRev →
    let wpr := (s.lane l).control.wedgesPerRev
    let i := w.toNat
    let ahead := fun (e : Nat) => ((i : Int) - e).fmod wpr
    let judged := s.onControl l fun c => { c with expectation := if wpr ≤ i then none else some ((i + 1) % wpr) }
    let slips := fun (detail : Nat) (t : State) =>
      let u := ((judged.onCounters l fun c => { c with wedgeSlip := min 65535 (c.wedgeSlip + 1) }).onControl l
        fun c => { c with fill := 0 }).notify .wedgeSlip (some l) detail
      t = if (s.lane l).control.mode = .running then u.leaveRunning l 2 .priming else u
    ((s.lane l).control.mode = .off → s.judgeWedge l w = (s, .inSequence))
      ∧ ((s.lane l).control.mode ≠ .off →
          (wpr ≤ i → ∃ t, s.judgeWedge l w = (t, .slip 1) ∧ slips 1 t)
            ∧ (i < wpr → (s.lane l).control.expectation = none → s.judgeWedge l w = (judged, .inSequence))
            ∧ ∀ e, i < wpr → (s.lane l).control.expectation = some e →
                (ahead e = 0 → s.judgeWedge l w = (judged, .inSequence))
                  ∧ (∀ g : Nat, 1 ≤ g → g ≤ 3 → ahead e = g →
                      s.judgeWedge l w =
                        (judged.onCounters l fun c => { c with wedgeGap := min 65535 (c.wedgeGap + g) }, .gap g))
                  ∧ (3 < ahead e → ∃ t, s.judgeWedge l w = (t, .slip 0) ∧ slips 0 t))
      ∧ ∀ (v : Verdict) (input : Word),
          let x := s.lane l
          let r := x.reference
          let gap :=
            match v with
            | .gap g => g
            | .inSequence => 0
            | .slip _ => 0
          let count := if r.fresh = true then 0 else min 1023 (r.staleCount + 1)
          let grade :=
            if count < x.control.staleLimit then RefStatus.good
            else if count < x.control.staleLimit + x.control.holdLength then .stale else .lost
          let recovered := max r.settle (if r.fresh = true ∧ r.status ≠ .good then 64 else 0)
          let settled := max recovered (if 0 < gap then 32 else 0)
          let pushes := if grade = .good then gap + 1 else 0
          ∃ (ring : Vector Word 64) (sibling : Vector Word 24),
            (∀ i : Fin 64, ring[i.val] = if i.val < pushes then s.cond.sample else r.ring.toList.getD (i.val - pushes) 0)
              ∧ (∀ i : Fin 24, sibling[i.val] =
                  if i.val = 0 then input else (s.lane l.other).reference.sibling.toList.getD (i.val - 1) 0)
              ∧ (x.control.mode = .off →
                  s.conditionFrame l v input = s.onReference l.other fun y => { y with sibling := sibling })
              ∧ (x.control.mode ≠ .off →
                  s.conditionFrame l v input =
                    (({ s with
                        notices :=
                          if grade = .lost ∧ r.status ≠ .lost then s.notices.add .referenceLost (some l) 0
                          else s.notices } : State).setLane l
                      { x with
                        reference :=
                          { r with
                            ring := ring, fresh := false, staleCount := count, status := grade
                            settle := settled - pushes }
                        control :=
                          { x.control with
                            fill := if pushes = 0 then x.control.fill else min 64 (x.control.fill + pushes)
                            mode :=
                              if x.control.mode = .priming ∧ 0 < pushes ∧ 64 ≤ x.control.fill + pushes then .running
                              else x.control.mode } }).onReference l.other fun y => { y with sibling := sibling })

/-! ## The servo frame -/

/-- A valid servo frame, in every state and with any movements of the engine within it (R123, R134, R135, R137, R138, R139,
R65, R66): it is counted in servo frame time; the Lane Controller, the Reference Conditioner, the Set Selector, the filter,
the probe, the output command and the adaptation act in this order, each on the state the one before left, with the
engine's movements between them, and the lane fault follows them. One drive frame leaves, with its lane, status and wedge
index and Sat16 of the exact sum of input command, correction and probe value; one return frame leaves, with the same
lane, status and wedge index, the correction without the probe, the attention flag as the Notice Queue stands, and up to
four words from the head of the Response Queue, which holds what it held, then the transfer words of the engine's
movements. The status codes are 0 to 3. The correction is 0 in BYPASS and DIAG, and a lane in OFF, STANDBY or FAULT, or
one that a slip takes out of RUNNING, is BYPASS. The probe value is 0 unless the frame is in TRACK while a campaign is
RUNNING on the lane; in a RUNNING lane whose wedge is accepted, as given, in sequence or after a gap of up to three, it is
then plus or minus the campaign's amplitude, by its generator, and at a slip 0 (R64, R99, R101, R107). A stage's movements
are the engine's next ones, one after the other (R130): each leaves the state that the engine row that is due leaves, by
the transfer's mode and by where its block stands, and the state as it is where the engine is not ACTIVE, or is stalled
for want of room for a transfer word (R158, R169 to R173). That a SWEEP's examination, which appends no word, needs no room
is the model's choice (log entry 23). -/
def Obligations.ServoFrame : Prop :=
  (∀ (words : List Word) (f : ServoFields) (slots : EngineSlots) (s : State), receive words = .servo f →
    let x := s.lane f.lane
    let accepted :=
      f.wedge.toNat < x.control.wedgesPerRev
        ∧ ∀ e ∈ x.control.expectation, ((f.wedge.toNat : Int) - e) % (x.control.wedgesPerRev : Int) ≤ 3
    ∃ (t u1 u2 u3 u4 u5 u6 : State) (v : Verdict) (found : Option (SetNo × Route)) (d : Decision) (probe : Int)
        (moved : List Word),
      exec (.servoFrame words slots) s = .next t
        ∧ State.judgeWedge (State.countFrame { s with link := { s.link with receiving := words } }) f.lane f.wedge = (u1, v)
        ∧ u2 = (u1.engineMoves slots.afterLaneControl).conditionFrame f.lane v f.input
        ∧ (u2.engineMoves slots.afterConditioner).selectFrame f = (u3, found)
        ∧ (u3.engineMoves slots.afterSelector).decideFrame f found = (u4, d)
        ∧ u5 = u4.engineMoves slots.afterFilter
        ∧ (let stepped := (u5.lane f.lane).control.mode = .running ∧ f.mode = .track
              ∧ (u5.lane f.lane).campaign.state = .running
          let sum := f.input.toInt + d.correction.toInt + probe
          (¬stepped → probe = 0)
            ∧ (stepped → probe =
                probeValue (probeFeedback (u5.lane f.lane).campaign.generator) (u5.lane f.lane).campaign.amplitude)
            ∧ u6 = (((((u5.probeFrame f).formOutput f.lane sum).engineMoves slots.afterProbe).adaptFrame f found d
                (decide stepped)).engineMoves slots.afterAdaptation).checkFault f.lane
            ∧ t = { u6 with
                responses := u6.responses.drop 4, ports := t.ports
                link := { receiving := [], frameTime := s.link.frameTime + 1 } }
            ∧ t.ports =
              { drive := s.ports.drive ++
                  [sealFrame [BitVec.ofNat 16 (f.lane.toNat * 4 + d.status.code), f.wedge,
                    BitVec.ofInt 16 (max (-32768) (min 32767 sum))]]
                upstream := s.ports.upstream ++
                  [sealFrame (BitVec.ofNat 16
                      (16384 + f.lane.toNat * 8192 + d.status.code * 2048 + (if t.notices.records = [] then 0 else 1024)
                        + (u6.responses.take 4).length * 64 + transferMarks (u6.responses.take 4))
                    :: f.wedge :: d.correction :: (u6.responses.take 4).map QueuedWord.word)]
                driveBegun := true, upstreamBegun := true })
        ∧ u6.responses = s.responses ++ moved.map (QueuedWord.mk .transfer)
        ∧ t.pending = s.pending
        ∧ [OutStatus.bypass, .fresh, .held, .diag].map OutStatus.code = [0, 1, 2, 3]
        ∧ (d.status = .bypass ∨ d.status = .diag → d.correction = 0)
        ∧ (x.control.mode = .off ∨ x.control.mode = .standby ∨ x.control.mode = .fault → d.status = .bypass)
        ∧ (x.control.mode = .running → ¬accepted → d.status = .bypass ∧ probe = 0)
        ∧ (f.mode ≠ .track ∨ x.campaign.state ≠ .running → probe = 0)
        ∧ (x.control.mode = .running → accepted → f.mode = .track → x.campaign.state = .running →
            probe = if x.campaign.generator / 64 % 2 ≠ x.campaign.generator / 32 % 2 then (x.campaign.amplitude : Int)
              else -(x.campaign.amplitude : Int)))
    ∧ ∀ (u : State) (k : Nat),
        let moved := u.engineMoves 1
        let block := fun (p : TransferPhase) => u.transfer.state = .active ∧ u.transfer.mode ≠ .copy ∧ u.transfer.phase = p
        let fits := u.transferWords < 24 ∧ u.responses.length < 32
        u.engineMoves 0 = u
          ∧ u.engineMoves (k + 1) = moved.engineMoves k
          ∧ (u.transfer.state ≠ .active → moved = u)
          ∧ (u.transfer.state = .active → u.transfer.mode = .copy → exec .wordMovement u = .next moved)
          ∧ (block .words → fits → exec .wordMovement u = .next moved)
          ∧ (block .header → fits → exec .blockHeaderAppend u = .next moved)
          ∧ (block .trailer → fits → exec .blockTrailerAppend u = .next moved)
          ∧ (block .examine → exec .sweepExamine u = .next moved)
          ∧ (u.transfer.mode ≠ .copy → u.transfer.phase ≠ .examine → ¬fits → moved = u)

/-- A servo frame of a lane in OFF, with no command pending and no transfer under way (R10, R19, R46, R55, R66, R73,
R112, R123): the applied band follows the current band unless the head writes, the BYPASS frame is counted, the input
command joins the other lane's sibling history and is the output command. Nothing else of the part changes but servo
frame time, the frames sent and the words they took. -/
def Obligations.OffLaneFrame : Prop :=
  ∀ (words : List Word) (f : ServoFields) (slots : EngineSlots) (s : State), receive words = .servo f →
    (s.lane f.lane).control.mode = .off → s.decoder.command = none → s.transfer.state = .idle ∨ s.transfer.state = .done →
    ∃ sibling : Vector Word 24,
      (∀ i : Fin 24, sibling[i.val] = if i.val = 0 then f.input else (s.lane f.lane.other).reference.sibling[i.val - 1])
        ∧ exec (.servoFrame words slots) s =
          .next { ((s.onSelection f.lane fun x => { x with band := if f.writeActive then x.band else s.cond.band }).onCounters
                f.lane fun c => { c with bypassFrame := min 65535 (c.bypassFrame + 1) }).onReference f.lane.other
                (fun r => { r with sibling := sibling }) with
            responses := s.responses.drop 4
            link := { receiving := [], frameTime := s.link.frameTime + 1 }
            ports :=
              { drive := s.ports.drive ++ [sealFrame [BitVec.ofNat 16 (f.lane.toNat * 4), f.wedge, f.input]]
                upstream := s.ports.upstream ++
                  [sealFrame (BitVec.ofNat 16
                      (16384 + f.lane.toNat * 8192 + (if s.notices.records = [] then 0 else 1024)
                        + (s.responses.take 4).length * 64 + transferMarks (s.responses.take 4))
                    :: f.wedge :: 0 :: (s.responses.take 4).map QueuedWord.word)]
                driveBegun := true, upstreamBegun := true } }

/-- The resolution of a frame's set (R45 to R51, R26, R27, R58, R89, R90). The applied band is brought up to date first, in
every lane state; only a RUNNING lane resolves. The map entry at head × 32 + zone × 4 + band comes first, the fallback
next; READY sets are usable, and the lane's own LIVE one. The current set again takes the route alone. Another set
becomes LIVE and current, the one before it READY, the held correction 0, and the shadow its 40 taps, single errors
corrected, with divergence count 0; a double error in a tap ends the reading there, the set is QUARANTINED and the lane
has no current set, route NONE, no shadow and divergence count 0, while the frame's resolution stands (R51, R89). Without a
set the lane has no current set, and the one it had is READY. In the two cases of another set, that set is not the other
lane's current set and no transfer waits on it. That three or more flipped places are a double error is the model's choice
(log entry 6). -/
def Obligations.SetResolution : Prop :=
  ∀ (f : ServoFields) (s : State), s.storesCanonical →
    let l := f.lane
    let x := s.lane l
    let band := if f.writeActive then x.selection.band else s.cond.band
    let entry := s.mapEntry l (f.head.toNat * 32 + f.zone.toNat * 4 + band.val)
    let usable := fun (n : SetNo) =>
      (s.record n).state = .ready ∨ (s.record n).state = .live ∧ x.selection.current = some n
    let retired := fun (n : SetNo) => x.selection.current = some n ∧ (s.record n).state = .live
    let chosen := fun (found : Option (SetNo × Route)) =>
      ∃ t, s.selectFrame f = (t, found)
        ∧ (found = none →
            t = ({ s with bank := { s.bank with records := t.bank.records } } : State).setLane l
                { x.withoutSet with selection := { x.selection with band := band, current := none, route := .none } }
              ∧ ∀ m : SetNo, t.record m = if retired m then { s.record m with state := .ready } else s.record m)
        ∧ ∀ n r, found = some (n, r) →
            (x.selection.current = some n →
              t = s.setLane l { x with selection := { x.selection with band := band, route := r } })
              ∧ (x.selection.current ≠ some n → (∀ k < 40, (s.bankAt (n.val * 64 + 10 + k)).flipped = []) →
                  t = ({ s with bank := { s.bank with records := t.bank.records } } : State).setLane l
                      { x with
                        selection := { x.selection with band := band, current := some n, route := r }
                        filter := { x.filter with held := 0 }
                        adapt :=
                          { x.adapt with
                            divergence := 0
                            shadow := some { set := n
                                             taps := (List.range 40).map fun k => (s.bankAt (n.val * 64 + 10 + k)).value } } }
                    ∧ ∀ m : SetNo, t.record m =
                        if m = n then { s.record n with state := .live }
                        else if retired m then { s.record m with state := .ready } else s.record m)
              ∧ ∀ k ≤ 40, (∀ j < k, (s.bankAt (n.val * 64 + 10 + j)).flipped.length ≤ 1) →
                  (k < 40 → 2 ≤ (s.bankAt (n.val * 64 + 10 + k)).flipped.length) → x.selection.current ≠ some n →
                  (s.lane l.other).selection.current ≠ some n →
                  ¬(s.transfer.state = .waiting ∧ s.transfer.current = some n) →
                  let cs := s.cells n 10 (min 40 (k + 1))
                  t = ({ s with
                        bank := t.bank
                        notices := s.notices.afterReads n false cs
                        counters :=
                          { s.counters with
                            storageCorrection := raisedBy s.counters.storageCorrection (singles cs)
                            storageError := raisedBy s.counters.storageError (doubles cs) } } : State).setLane l
                      { x with
                        selection :=
                          if k < 40 then { x.selection with band := band, current := none, route := .none }
                          else { x.selection with band := band, current := some n, route := r }
                        filter := { x.filter with held := 0 }
                        adapt :=
                          { x.adapt with
                            divergence := 0
                            shadow := if k < 40 then none else some { set := n, taps := cs.map Cell.value } } }
                    ∧ (∀ m : SetNo, t.record m =
                        if m = n then { s.record n with state := if k < 40 then .quarantined else .live }
                        else if retired m then { s.record m with state := .ready } else s.record m)
                    ∧ ∀ a : Nat, t.bankAt a =
                        if n.val * 64 + 10 ≤ a ∧ a < n.val * 64 + 10 + k then (s.bankAt a).afterRead else s.bankAt a
    (x.control.mode ≠ .running →
      s.selectFrame f = (s.setLane l { x with selection := { x.selection with band := band } }, none))
      ∧ (x.control.mode = .running →
          (∀ n, entry = some n → usable n → chosen (some (n, .primary)))
            ∧ (∀ n, (∀ m, entry = some m → ¬usable m) → x.selection.fallback = some n → usable n →
                chosen (some (n, .fallback)))
            ∧ ((∀ m, entry = some m → ¬usable m) → (∀ m, x.selection.fallback = some m → ¬usable m) → chosen none))

/-- The output status and the correction of a frame (R55 to R63, R68, R73), by the first condition that holds: BYPASS
outside RUNNING; DIAG when the frame's set is no longer current; BYPASS when the frame is not correcting, the reference
is LOST, or there is no set; HELD, repeating the held correction, when the reference is STALE; else the set is read: TR,
TS, OS, CL, then the taps in use. With its header in range and no double error in these words, it gives FRESH and the sum
of its taps in use times the aligned reference and the sibling history, rounded half up by 15 + OS places and clamped to
±CL, which becomes the held correction and counts a clamp that changed it. A word with a single error is used with its
corrected value, written back, counted and reported; clean words change nothing else (R61, R35). A double error in its first four words, or with its header in range in a tap in use, makes the
frame DIAG with correction 0 and takes the set from the lane; one error is counted, whatever the words after it hold. That
three or more flipped places are a double error is the model's choice (log entry 6). -/
def Obligations.OutputStatus : Prop :=
  ∀ (f : ServoFields) (found : Option (SetNo × Route)) (s : State),
    let l := f.lane
    let x := s.lane l
    let counted := fun (g : LaneCounters → LaneCounters) => s.onCounters l g
    let bypass : State × Decision :=
      (counted fun c => { c with bypassFrame := min 65535 (c.bypassFrame + 1) }, ⟨.bypass, 0, 0, 0⟩)
    let correcting := f.mode = .settle ∨ f.mode = .track ∨ f.mode = .seek ∧ x.control.seekFeedForward = true
    (x.control.mode ≠ .running → s.decideFrame f found = bypass)
      ∧ (x.control.mode = .running →
          (∀ n r, found = some (n, r) → x.selection.current ≠ some n → s.decideFrame f found = (s, ⟨.diag, 0, 0, 0⟩))
            ∧ (found = none → s.decideFrame f found = bypass)
            ∧ ∀ n r, found = some (n, r) → x.selection.current = some n →
                (¬correcting ∨ x.reference.status = .lost → s.decideFrame f found = bypass)
                  ∧ (correcting → x.reference.status = .stale →
                      s.decideFrame f found =
                        (counted fun c => { c with heldFrame := min 65535 (c.heldFrame + 1) }, ⟨.held, x.filter.held, 0, 0⟩))
                  ∧ (correcting → x.reference.status = .good → s.headerInRange n →
                      let tr := (s.wordInt n 0).toNat
                      let ts := (s.wordInt n 1).toNat
                      let os := (s.wordInt n 2).toNat
                      let read := [0, 1, 2, 3] ++ (List.range tr).map (10 + ·) ++ (List.range ts).map (42 + ·)
                      let cs := read.map fun w => s.bankAt (n.val * 64 + w)
                      let sum :=
                        ∑ k ∈ Finset.range tr,
                            s.wordInt n (10 + k) * (x.reference.ring.toList.getD (x.control.alignment + k) 0).toInt
                          + ∑ j ∈ Finset.range ts, s.wordInt n (42 + j) * (x.reference.sibling.toList.getD j 0).toInt
                      let rounded := (sum + 2 ^ (14 + os)).fdiv (2 ^ (15 + os))
                      let y := max (-s.wordInt n 3) (min (s.wordInt n 3) rounded)
                      let fresh := fun (u : State) =>
                        ((u.onCounters l fun c =>
                            { c with
                              freshFrame := min 65535 (c.freshFrame + 1)
                              correctionClamp :=
                                if y = rounded then c.correctionClamp else min 65535 (c.correctionClamp + 1) }).onFilter l
                            (fun z => { z with held := BitVec.ofInt 16 y }),
                          Decision.mk .fresh (BitVec.ofInt 16 y) tr ts)
                      (BitVec.ofInt 16 y : Word).toInt = y
                        ∧ ((∀ c ∈ cs, c.flipped = []) → s.decideFrame f found = fresh s)
                        ∧ (s.storesCanonical → (∀ c ∈ cs, c.flipped.length ≤ 1) →
                            ∃ words : List (Nat × Cell),
                              s.decideFrame f found =
                                  fresh
                                    { s with
                                      bank := { s.bank with words := words }
                                      notices := s.notices.afterReads n false cs
                                      counters :=
                                        { s.counters with
                                          storageCorrection := raisedBy s.counters.storageCorrection (singles cs) } }
                                ∧ ∀ a : Nat, Memory.read Cell.zero words a =
                                    if ∃ w ∈ read, a = n.val * 64 + w then (s.bankAt a).afterRead else s.bankAt a))
                  ∧ (correcting → x.reference.status = .good → s.storesCanonical → (s.record n).state = .live →
                      ¬(s.transfer.state = .waiting ∧ s.transfer.current = some n) →
                      (∃ w : Nat, 2 ≤ (s.bankAt (n.val * 64 + w)).flipped.length
                        ∧ (w < 4
                          ∨ s.headerInRange n ∧ (10 ≤ w ∧ w < 10 + (s.wordInt n 0).toNat
                            ∨ 42 ≤ w ∧ w < 42 + (s.wordInt n 1).toNat))) →
                      ∃ t, s.decideFrame f found = (t, ⟨.diag, 0, 0, 0⟩) ∧ t.lane l = x.withoutSet
                        ∧ (t.record n).state = .quarantined
                        ∧ t.counters.storageError = min 65535 (s.counters.storageError + 1)))

/-- Adaptation (R75 to R82, R86, R91). The frame is not adapted, and nothing changes, unless the lane is RUNNING and in
TRACK, the status FRESH, the route PRIMARY, the set still current, LIVE, unfrozen and unheld, the settle count 0, |e|
within the PES gate, no campaign in the way, the mode FREE or a window open, and MU above 0. MU is read, then, with MU
above 0, the other header words and the taps in use; a word with a single error is used with its corrected value, written
back, counted and reported (R35). An adapted frame moves each tap in use by the leak, truncated toward zero, and the
gradient step on the filtered delayed reference, each rounded half up, clamps it to ±WL, counts the frame and the clamps,
steps the divergence count and the window, and writes no other word. The step of the divergence count to 64 rolls the set
back in the same event: all 40 taps are the shadow's, the set is frozen, the count is 0, and DIVERGED stands before the
WINDOW DONE of a window that the frame closes; the frame counts as adapted all the same (R92, R93). A double error in MU, or with MU above 0 in another header
word it reads or in a tap in use, abandons the update (R83): no word changes its value, the frame and its clamps are not
counted, the window stays, the set is QUARANTINED and counted once, and the lane loses it. That three or more flipped places
are a double error is the model's choice (log entry 6). -/
def Obligations.Adaptation : Prop :=
  ∀ (f : ServoFields) (found : Option (SetNo × Route)) (d : Decision) (probed : Bool) (s : State),
    let l := f.lane
    let x := s.lane l
    let e := f.pes.toInt
    let gate := fun (n : SetNo) =>
      x.control.mode = .running ∧ f.mode = .track ∧ d.status = .fresh ∧ found = some (n, .primary)
        ∧ x.selection.current = some n ∧ (s.record n).state = .live ∧ (s.record n).frozen = false
        ∧ (s.record n).hold = .none ∧ x.reference.settle = 0 ∧ |e| ≤ x.adapt.pesGate ∧ probed = false
        ∧ (x.adapt.mode = .free ∨ x.adapt.mode = .window ∧ 0 < x.adapt.window)
    ((∀ n, ¬gate n) → s.adaptFrame f found d probed = s)
      ∧ (∀ n, gate n → s.storesCanonical → ¬(s.transfer.state = .waiting ∧ s.transfer.current = some n) →
          (∃ w : Nat, 2 ≤ (s.bankAt (n.val * 64 + w)).flipped.length
            ∧ (w = 4 ∨ s.wordInt n 4 ≠ 0 ∧ (5 ≤ w ∧ w < 10 ∨ 10 ≤ w ∧ w < 10 + d.refTaps
              ∨ 42 ≤ w ∧ w < 42 + d.sibTaps))) →
          ∃ t, s.adaptFrame f found d probed = t
            ∧ t.lane l = x.withoutSet
            ∧ (∀ m : SetNo, t.record m = if m = n then { s.record n with state := .quarantined } else s.record m)
            ∧ t.counters.storageError = min 65535 (s.counters.storageError + 1)
            ∧ ∀ a : Nat, t.bankAt a = s.bankAt a ∨ t.bankAt a = (s.bankAt a).afterRead)
      ∧ ∀ n, gate n → s.storesCanonical → s.headerInRange n →
          let tr := (s.wordInt n 0).toNat
          let ts := (s.wordInt n 1).toNat
          d.refTaps = tr → d.sibTaps = ts →
          let mu := (s.wordInt n 4).toNat
          let lk := (s.wordInt n 5).toNat
          let sd := (s.wordInt n 6).toNat
          let wl := s.wordInt n 8
          let filtered := fun (h : Int) => max (-32768) (min 32767 ((s.wordInt n 7 * h + 16384).fdiv 32768))
          let leaked := fun (w : Int) => if lk = 0 then w else w - w.tdiv (2 ^ lk)
          let stepped := fun (w h : Int) => leaked w - (e * filtered h + 2 ^ (14 + mu)).fdiv (2 ^ (15 + mu))
          let refTap := fun (k : Nat) =>
            stepped (s.wordInt n (10 + k)) (x.reference.ring.toList.getD (x.control.alignment + (k + sd)) 0).toInt
          let sibTap := fun (j : Nat) =>
            stepped (s.wordInt n (42 + j)) (x.reference.sibling.toList.getD (j + sd) 0).toInt
          let clamp := fun (v : Int) => max (-wl) (min wl v)
          let clamps := ((List.range tr).filter fun k => decide (clamp (refTap k) ≠ refTap k)).length
            + ((List.range ts).filter fun j => decide (clamp (sibTap j) ≠ sibTap j)).length
          let read :=
            if mu = 0 then [4]
            else [4, 5, 6, 7, 8, 9] ++ (List.range tr).map (10 + ·) ++ (List.range ts).map (42 + ·)
          let cs := read.map fun w => s.bankAt (n.val * 64 + w)
          let corrected : State :=
            { s with
              notices := s.notices.afterReads n false cs
              counters :=
                { s.counters with storageCorrection := raisedBy s.counters.storageCorrection (singles cs) } }
          let diverges := s.wordInt n 9 < |e| ∧ 63 ≤ x.adapt.divergence
          (∀ c ∈ cs, c.flipped.length ≤ 1) →
            (mu = 0 → (s.bankAt (n.val * 64 + 4)).flipped = [] → s.adaptFrame f found d probed = s)
              ∧ (mu = 0 →
                  ∃ t, s.adaptFrame f found d probed = t
                    ∧ t = { corrected with bank := { s.bank with words := t.bank.words } }
                    ∧ ∀ a : Nat, t.bankAt a = if a = n.val * 64 + 4 then (s.bankAt a).afterRead else s.bankAt a)
              ∧ (1 ≤ mu → ∀ shadow : List Word,
                  (diverges → x.adapt.shadow.map Shadow.taps = some shadow ∧ shadow.length = 40) →
                  let reported :=
                    if diverges then corrected.notices.add .diverged (some l) n.val else corrected.notices
                  ∃ t, s.adaptFrame f found d probed = t
                    ∧ t = ({ corrected with
                        bank := t.bank
                        notices :=
                          if x.adapt.mode = .window ∧ x.adapt.window = 1 then reported.add .windowDone (some l) 0
                          else reported } : State).setLane l
                        { x with
                          counters :=
                            { x.counters with
                              adaptedFrame := min 65535 (x.counters.adaptedFrame + 1)
                              tapClamp := min 65535 (x.counters.tapClamp + clamps) }
                          adapt :=
                            { x.adapt with
                              divergence :=
                                if s.wordInt n 9 < |e| ∧ ¬diverges then x.adapt.divergence + 1 else 0
                              window := if x.adapt.mode = .window then x.adapt.window - 1 else x.adapt.window } }
                    ∧ (∀ m : SetNo, t.record m =
                        if diverges ∧ m = n then { s.record n with frozen := true } else s.record m)
                    ∧ ∀ a : Nat, t.bankAt a =
                        if diverges ∧ n.val * 64 + 10 ≤ a ∧ a < n.val * 64 + 50 then
                          { value := shadow.getD (a - (n.val * 64 + 10)) 0, flipped := [] }
                        else if n.val * 64 + 10 ≤ a ∧ a < n.val * 64 + 10 + tr then
                          { value := BitVec.ofInt 16 (clamp (refTap (a - (n.val * 64 + 10)))), flipped := [] }
                        else if n.val * 64 + 42 ≤ a ∧ a < n.val * 64 + 42 + ts then
                          { value := BitVec.ofInt 16 (clamp (sibTap (a - (n.val * 64 + 42)))), flipped := [] }
                        else if n.val * 64 + 4 ≤ a ∧ a < n.val * 64 + 10 then (s.bankAt a).afterRead
                        else s.bankAt a)

/-- R99: a step's feedback is 1 when exactly one of the state's 64s and 32s places is set; the state doubles, loses its
128s place and takes the feedback; the probe value is plus or minus the amplitude by the feedback. From 127 the states run
through all 127 numbers from 1 to 127 and return to 127, with 64 signs + and 63 signs −, and no number of the cycle leads
to 0. -/
def Obligations.ProbeGenerator : Prop :=
  (∀ g : Fin 128, 1 ≤ g.val →
      (probeFeedback g.val = true ↔ (g.val / 64 + g.val / 32 % 2) = 1)
        ∧ (∀ amplitude : Nat, probeValue (probeFeedback g.val) amplitude =
            if g.val / 64 + g.val / 32 % 2 = 1 then (amplitude : Int) else -(amplitude : Int))
        ∧ nextGenerator g.val = 2 * g.val % 128 + (if probeFeedback g.val then 1 else 0) ∧ nextGenerator g.val ≠ 0)
    ∧ (let cycle := (List.range 127).map fun k => nextGenerator^[k] 127
      cycle.Nodup ∧ (∀ g ∈ cycle, 1 ≤ g ∧ g ≤ 127) ∧ nextGenerator^[127] 127 = 127
        ∧ (cycle.filter probeFeedback).length = 64 ∧ (cycle.filter fun g => !probeFeedback g).length = 63)

/-- A campaign (R100, R102, R103, R104, R105): a frame steps it just when it is a TRACK frame of a RUNNING lane whose
campaign is RUNNING, and the step that reaches the requested length ends it DONE with its notice. After n steps from the
start the sign history holds the last min(n, 16) signs, newest first, and C[d] is the exact sum, over the steps from
d + 1 on, of the position error times the sign d steps before. -/
def Obligations.CampaignCorrelations : Prop :=
  (∀ (f : ServoFields) (s : State),
      let l := f.lane
      let c := (s.lane l).campaign
      let next := c.stepped f.pes.toInt
      let steps := (s.lane l).control.mode = .running ∧ f.mode = .track ∧ c.state = .running
      (¬steps → s.probeFrame f = s)
        ∧ (steps → c.done + 1 ≠ c.requested → s.probeFrame f = s.onCampaign l fun _ => { next with done := c.done + 1 })
        ∧ (steps → c.done + 1 = c.requested →
            s.probeFrame f =
              (s.onCampaign l fun _ => { next with done := c.done + 1, state := .done }).notify .probeDone (some l) 0))
    ∧ ∀ (start : Campaign) (errors : List Word), start.generator = 127 → start.signs = [] →
        start.correlations = Vector.replicate 16 0 → errors.length ≤ 65535 →
        let n := errors.length
        let c := errors.foldl (fun c e => c.stepped e.toInt) start
        let sign := fun (m : Nat) => probeFeedback (nextGenerator^[m] 127)
        c.generator = nextGenerator^[n] 127
          ∧ c.signs = (List.range (min n 16)).map (fun d => sign (n - 1 - d))
          ∧ ∀ d : Fin 16, c.correlations[d.val] =
              ∑ m ∈ Finset.range (n - d.val), (if sign m then 1 else -1) * (errors.getD (m + d.val) 0).toInt

/-- A servo frame of a lane reaches nothing of the other lane but its sibling history, which takes the input command at
its newest place (R19, R112, R123), whatever the frame does to its own lane and to the sets: with the sets in service
coherent, and no transfer under way. -/
def Obligations.LanesAreIndependent : Prop :=
  ∀ (words : List Word) (f : ServoFields) (slots : EngineSlots) (s t : State), receive words = .servo f →
    s.serviceCoherent → s.transfer.state = .idle ∨ s.transfer.state = .done →
    exec (.servoFrame words slots) s = .next t →
    ∃ sibling : Vector Word 24,
      (∀ i : Fin 24, sibling[i.val] = if i.val = 0 then f.input else (s.lane f.lane.other).reference.sibling[i.val - 1])
        ∧ t.lane f.lane.other =
            { s.lane f.lane.other with reference := { (s.lane f.lane.other).reference with sibling := sibling } }

/-! ## The link -/

/-- A frame that fails a check of R132 is discarded whole (R133, R137, R138, R139): the link-check counter rises, LINK
CHECK is queued with lane NONE and the discard cause, and one return frame leaves, of kind 0, with the link-error flag
and, the notice being queued before it, the attention flag. Nothing else changes: no drive frame, no count in servo
frame time, no word taken. The cause is 0, bad check, for fewer than two words or a wrong check word, then 1, undefined
kind, for a kind of 0 or 3, then 2, malformed, for a servo frame that does not hold 5 words and for a management frame
whose payload length N lies outside 1 to 8, whose command count C is above 8, or that does not hold N + 2 words. -/
def Obligations.DiscardedFrame : Prop :=
  ∀ (words : List Word) (s : State),
    (∀ cause, receive words = .discarded cause →
      let detail :=
        match cause with
        | .badCheck => 0
        | .undefinedKind => 1
        | .malformed => 2
      ∃ q, q = s.notices.add .linkCheck none detail ∧ q.records ≠ []
        ∧ exec (.discardedFrame words) s =
          .next { s with
            counters := { s.counters with linkCheck := min 65535 (s.counters.linkCheck + 1) }
            notices := q
            responses := s.responses.drop 4
            link := { s.link with receiving := [] }
            ports :=
              { s.ports with
                upstream := s.ports.upstream ++
                  [sealFrame (BitVec.ofNat 16
                      (1024 + 512 + (s.responses.take 4).length * 64 + transferMarks (s.responses.take 4))
                    :: 0 :: 0 :: (s.responses.take 4).map QueuedWord.word)]
                upstreamBegun := true } })
      ∧ (words.length < 2 ∨ words.getLast? ≠ some (linkCheck words.dropLast) ↔ receive words = .discarded .badCheck)
      ∧ (receive words = .discarded .undefinedKind ↔
          2 ≤ words.length ∧ words.getLast? = some (linkCheck words.dropLast)
            ∧ (words.headD 0).toNat / 16384 ≠ 1 ∧ (words.headD 0).toNat / 16384 ≠ 2)
      ∧ (let header := (words.headD 0).toNat
        let n := header % 16
        let c := header / 16 % 16
        receive words = .discarded .malformed ↔
          2 ≤ words.length ∧ words.getLast? = some (linkCheck words.dropLast)
            ∧ (header / 16384 = 1 ∧ words.length ≠ 5
              ∨ header / 16384 = 2 ∧ (n < 1 ∨ 8 < n ∨ 8 < c ∨ words.length ≠ n + 2)))

/-- What is sent is what is received (R132, R134, R136, R142): the words of a servo frame are received as its fields, and
those of a management frame as its first min(C, N) payload words, the command words, and the rest, the data words,
whatever the unassigned places hold; a command word gives back its code, lane and immediate. -/
def Obligations.FramesAreReceivedAsSent : Prop :=
  (∀ (f : ServoFields) (spare : BitVec 3), receive (servoWords f spare) = .servo f)
    ∧ (∀ (c : BitVec 4) (payload : List Word) (spare : BitVec 6), c.toNat ≤ 8 → 1 ≤ payload.length → payload.length ≤ 8 →
        receive (managementWords c payload spare) = .management (payload.take c.toNat) (payload.drop c.toNat))
    ∧ ∀ (code : BitVec 6) (l : Lane) (imm : BitVec 9), commandFields (commandWord code l imm) = ⟨code, l, imm⟩
        ∧ (commandWord code l imm).toNat = code.toNat * 1024 + l.toNat * 512 + imm.toNat

/-- The link check (R131): the check of no words is 65535 and of the single word 0 is 7439; over all the words of a
frame that carries its check, the register ends at 0; and in a frame of up to ten words, the longest that is received,
one wrong place, or any pair of wrong places, the check word's among them, always makes the frame a bad check. -/
def Obligations.LinkCheckFindsWrongPlaces : Prop :=
  linkCheck [] = 65535 ∧ linkCheck [0] = 7439
    ∧ (∀ words : List Word, linkCheck (sealFrame words) = 0)
    ∧ ∀ words wrong : List Word, words.length ≤ 9 → wrong.length = words.length + 1 →
        (let places := (wrong.map fun m => ((List.range 16).filter fun i => m.getLsbD i).length).sum
        places = 1 ∨ places = 2) →
        receive (List.zipWith (fun a m => a ^^^ m) (sealFrame words) wrong) = .discarded .badCheck

/-! ## What every step keeps -/

/-- The state after a power-on reset has every property of this section. -/
def Obligations.ResetHasEveryInvariant : Prop :=
  State.reset.storesCanonical ∧ State.reset.namesCounted ∧ State.reset.responsesBounded ∧ State.reset.notices.sound
    ∧ State.reset.countersBounded ∧ State.reset.cond.sound ∧ State.reset.lanesInRange ∧ State.reset.decoder.sound
    ∧ State.reset.transferCoherent ∧ State.reset.serviceCoherent ∧ State.reset.setsInRange ∧ State.reset.pending = []

/-- Every step keeps the stores in their canonical form, and the reference count and owner lane of every set what the
lanes' map entries and fallback settings make them: no set is ever named by both lanes (R34, R42, R43, R44). -/
def Obligations.NamesStayCounted : Prop :=
  ∀ s t : State, s.storesCanonical → s.namesCounted → step s = .next t → t.storesCanonical ∧ t.namesCounted

/-- Every step keeps the Response Queue within 32 words, at most 24 of them transfer words, the Notice Queue within 16
distinct records with counts up to 255, and every counter within 65535 (R156, R158, R178, R179, R182). -/
def Obligations.QueuesAndCountersStayBounded : Prop :=
  ∀ s t : State, s.responsesBounded → s.notices.sound → s.countersBounded → step s = .next t →
    t.responsesBounded ∧ t.notices.sound ∧ t.countersBounded

/-- Every step keeps every count, parameter and campaign value of both lanes, the conditioner's values and the
decoder's within their ranges (R3, R7, R11, R13, R17, R70, R91, R96, R99, R103, R104, R120, R147 to R149). -/
def Obligations.ValuesStayInRange : Prop :=
  ∀ s t : State, s.cond.sound → s.lanesInRange → s.decoder.sound → step s = .next t →
    t.cond.sound ∧ t.lanesInRange ∧ t.decoder.sound

/-- Every step keeps the sets in service coherent and the holds those of the transfer under way: a set is LIVE exactly
when it is the current set of one RUNNING lane, and no more than its transfer's sets are held (R26, R29, R33, R44, R51,
R52, R90, R96, R168, R170, R173, R174). -/
def Obligations.ServiceAndHoldsStayCoherent : Prop :=
  ∀ s t : State, s.serviceCoherent → s.transferCoherent → step s = .next t → t.serviceCoherent ∧ t.transferCoherent

/-- Every step keeps the header fields of every READY and LIVE set in their ranges and its 40 taps within ±WL, and so the
taps of both shadows (R30, R25, R29, R81, R89, R92). -/
def Obligations.ReadySetsStayInRange : Prop :=
  ∀ s t : State, s.storesCanonical → s.serviceCoherent → s.transferCoherent → s.setsInRange → step s = .next t →
    t.setsInRange

/-! ## The Notice Queue -/

/-- A notice reaches the Notice Queue (R178, R179): it merges into the record of its kind, lane and detail, whose repeat
count rises up to 255, however many records there are; else it is appended with repeat count 1 while there are fewer
than 16; else it is dropped and the lost count rises up to 255. Every other record keeps its place and its count. -/
def Obligations.NoticesMergeAppendOrAreLost : Prop :=
  ∀ (q : NoticeQueue) (kind : NoticeKind) (lane : Option Lane) (detail : Nat), q.sound →
    let same := fun (r : Notice) => r.kind = kind ∧ r.lane = lane ∧ r.detail = detail
    (∀ (before after : List Notice) (r : Notice), q.records = before ++ r :: after → same r →
        q.add kind lane detail =
          { q with records := before ++ { r with repeats := min 255 (r.repeats + 1) } :: after })
      ∧ ((∀ r ∈ q.records, ¬same r) → q.records.length < 16 →
          q.add kind lane detail =
            { q with records := q.records ++ [{ kind := kind, lane := lane, detail := detail, repeats := 1 }] })
      ∧ ((∀ r ∈ q.records, ¬same r) → q.records.length = 16 →
          q.add kind lane detail = { q with lost := min 255 (q.lost + 1) })
end

