-- ==== Sys2Proof/Laws/State.lean ====
section
/-! SUPPORT. The small lemmas of `State` and its updates: what each update leaves of every other field, one
lemma per field, and what it makes of its own. -/

namespace Sys2Proof.Machine

variable (s : State) (l : Lane)

/-! ## Lanes -/

@[simp] theorem Lane.other_ne : l.other ≠ l := by cases l <;> decide
@[simp] theorem Lane.ne_other : l ≠ l.other := by cases l <;> decide
@[simp] theorem Lane.other_other : l.other.other = l := by cases l <;> rfl

/-- A lane is the given one or the other one. -/
theorem Lane.eq_or_other (k l : Lane) : k = l ∨ k = l.other := by cases k <;> cases l <;> simp [Lane.other]

@[simp] theorem State.setLane_lane (x : LaneState) : (s.setLane l x).lane l = x := by cases l <;> rfl
@[simp] theorem State.setLane_other (x : LaneState) : (s.setLane l x).lane l.other = s.lane l.other := by cases l <;> rfl

/-- What any lane holds after one lane is replaced. -/
theorem State.setLane_lane_eq (k : Lane) (x : LaneState) : (s.setLane l x).lane k = if k = l then x else s.lane k := by
  cases l <;> cases k <;> rfl

@[simp] theorem State.setLane_pending (x : LaneState) : (s.setLane l x).pending = s.pending := (rfl)
@[simp] theorem State.setLane_cond (x : LaneState) : (s.setLane l x).cond = s.cond := (rfl)
@[simp] theorem State.setLane_bank (x : LaneState) : (s.setLane l x).bank = s.bank := (rfl)
@[simp] theorem State.setLane_decoder (x : LaneState) : (s.setLane l x).decoder = s.decoder := (rfl)
@[simp] theorem State.setLane_responses (x : LaneState) : (s.setLane l x).responses = s.responses := (rfl)
@[simp] theorem State.setLane_transfer (x : LaneState) : (s.setLane l x).transfer = s.transfer := (rfl)
@[simp] theorem State.setLane_notices (x : LaneState) : (s.setLane l x).notices = s.notices := (rfl)
@[simp] theorem State.setLane_counters (x : LaneState) : (s.setLane l x).counters = s.counters := (rfl)
@[simp] theorem State.setLane_link (x : LaneState) : (s.setLane l x).link = s.link := (rfl)
@[simp] theorem State.setLane_ports (x : LaneState) : (s.setLane l x).ports = s.ports := (rfl)

/-! ### `onReference` -/

section
variable (f : Reference → Reference)
@[simp] theorem State.onReference_pending : (s.onReference l f).pending = s.pending := (rfl)
@[simp] theorem State.onReference_cond : (s.onReference l f).cond = s.cond := (rfl)
@[simp] theorem State.onReference_bank : (s.onReference l f).bank = s.bank := (rfl)
@[simp] theorem State.onReference_decoder : (s.onReference l f).decoder = s.decoder := (rfl)
@[simp] theorem State.onReference_responses : (s.onReference l f).responses = s.responses := (rfl)
@[simp] theorem State.onReference_transfer : (s.onReference l f).transfer = s.transfer := (rfl)
@[simp] theorem State.onReference_notices : (s.onReference l f).notices = s.notices := (rfl)
@[simp] theorem State.onReference_counters : (s.onReference l f).counters = s.counters := (rfl)
@[simp] theorem State.onReference_link : (s.onReference l f).link = s.link := (rfl)
@[simp] theorem State.onReference_ports : (s.onReference l f).ports = s.ports := (rfl)
@[simp] theorem State.onReference_lane : (s.onReference l f).lane l = { s.lane l with reference := f (s.lane l).reference } := by cases l <;> rfl
@[simp] theorem State.onReference_other : (s.onReference l f).lane l.other = s.lane l.other := by cases l <;> rfl
@[simp] theorem State.onReference_lane_selection (k : Lane) : ((s.onReference l f).lane k).selection = (s.lane k).selection := by cases l <;> cases k <;> rfl
@[simp] theorem State.onReference_lane_filter (k : Lane) : ((s.onReference l f).lane k).filter = (s.lane k).filter := by cases l <;> cases k <;> rfl
@[simp] theorem State.onReference_lane_adapt (k : Lane) : ((s.onReference l f).lane k).adapt = (s.lane k).adapt := by cases l <;> cases k <;> rfl
@[simp] theorem State.onReference_lane_campaign (k : Lane) : ((s.onReference l f).lane k).campaign = (s.lane k).campaign := by cases l <;> cases k <;> rfl
@[simp] theorem State.onReference_lane_control (k : Lane) : ((s.onReference l f).lane k).control = (s.lane k).control := by cases l <;> cases k <;> rfl
@[simp] theorem State.onReference_lane_counters (k : Lane) : ((s.onReference l f).lane k).counters = (s.lane k).counters := by cases l <;> cases k <;> rfl
end

/-! ### `onSelection` -/

section
variable (f : Selection → Selection)
@[simp] theorem State.onSelection_pending : (s.onSelection l f).pending = s.pending := (rfl)
@[simp] theorem State.onSelection_cond : (s.onSelection l f).cond = s.cond := (rfl)
@[simp] theorem State.onSelection_bank : (s.onSelection l f).bank = s.bank := (rfl)
@[simp] theorem State.onSelection_decoder : (s.onSelection l f).decoder = s.decoder := (rfl)
@[simp] theorem State.onSelection_responses : (s.onSelection l f).responses = s.responses := (rfl)
@[simp] theorem State.onSelection_transfer : (s.onSelection l f).transfer = s.transfer := (rfl)
@[simp] theorem State.onSelection_notices : (s.onSelection l f).notices = s.notices := (rfl)
@[simp] theorem State.onSelection_counters : (s.onSelection l f).counters = s.counters := (rfl)
@[simp] theorem State.onSelection_link : (s.onSelection l f).link = s.link := (rfl)
@[simp] theorem State.onSelection_ports : (s.onSelection l f).ports = s.ports := (rfl)
@[simp] theorem State.onSelection_lane : (s.onSelection l f).lane l = { s.lane l with selection := f (s.lane l).selection } := by cases l <;> rfl
@[simp] theorem State.onSelection_other : (s.onSelection l f).lane l.other = s.lane l.other := by cases l <;> rfl
@[simp] theorem State.onSelection_lane_reference (k : Lane) : ((s.onSelection l f).lane k).reference = (s.lane k).reference := by cases l <;> cases k <;> rfl
@[simp] theorem State.onSelection_lane_filter (k : Lane) : ((s.onSelection l f).lane k).filter = (s.lane k).filter := by cases l <;> cases k <;> rfl
@[simp] theorem State.onSelection_lane_adapt (k : Lane) : ((s.onSelection l f).lane k).adapt = (s.lane k).adapt := by cases l <;> cases k <;> rfl
@[simp] theorem State.onSelection_lane_campaign (k : Lane) : ((s.onSelection l f).lane k).campaign = (s.lane k).campaign := by cases l <;> cases k <;> rfl
@[simp] theorem State.onSelection_lane_control (k : Lane) : ((s.onSelection l f).lane k).control = (s.lane k).control := by cases l <;> cases k <;> rfl
@[simp] theorem State.onSelection_lane_counters (k : Lane) : ((s.onSelection l f).lane k).counters = (s.lane k).counters := by cases l <;> cases k <;> rfl
end

/-! ### `onFilter` -/

section
variable (f : Filter → Filter)
@[simp] theorem State.onFilter_pending : (s.onFilter l f).pending = s.pending := (rfl)
@[simp] theorem State.onFilter_cond : (s.onFilter l f).cond = s.cond := (rfl)
@[simp] theorem State.onFilter_bank : (s.onFilter l f).bank = s.bank := (rfl)
@[simp] theorem State.onFilter_decoder : (s.onFilter l f).decoder = s.decoder := (rfl)
@[simp] theorem State.onFilter_responses : (s.onFilter l f).responses = s.responses := (rfl)
@[simp] theorem State.onFilter_transfer : (s.onFilter l f).transfer = s.transfer := (rfl)
@[simp] theorem State.onFilter_notices : (s.onFilter l f).notices = s.notices := (rfl)
@[simp] theorem State.onFilter_counters : (s.onFilter l f).counters = s.counters := (rfl)
@[simp] theorem State.onFilter_link : (s.onFilter l f).link = s.link := (rfl)
@[simp] theorem State.onFilter_ports : (s.onFilter l f).ports = s.ports := (rfl)
@[simp] theorem State.onFilter_lane : (s.onFilter l f).lane l = { s.lane l with filter := f (s.lane l).filter } := by cases l <;> rfl
@[simp] theorem State.onFilter_other : (s.onFilter l f).lane l.other = s.lane l.other := by cases l <;> rfl
@[simp] theorem State.onFilter_lane_reference (k : Lane) : ((s.onFilter l f).lane k).reference = (s.lane k).reference := by cases l <;> cases k <;> rfl
@[simp] theorem State.onFilter_lane_selection (k : Lane) : ((s.onFilter l f).lane k).selection = (s.lane k).selection := by cases l <;> cases k <;> rfl
@[simp] theorem State.onFilter_lane_adapt (k : Lane) : ((s.onFilter l f).lane k).adapt = (s.lane k).adapt := by cases l <;> cases k <;> rfl
@[simp] theorem State.onFilter_lane_campaign (k : Lane) : ((s.onFilter l f).lane k).campaign = (s.lane k).campaign := by cases l <;> cases k <;> rfl
@[simp] theorem State.onFilter_lane_control (k : Lane) : ((s.onFilter l f).lane k).control = (s.lane k).control := by cases l <;> cases k <;> rfl
@[simp] theorem State.onFilter_lane_counters (k : Lane) : ((s.onFilter l f).lane k).counters = (s.lane k).counters := by cases l <;> cases k <;> rfl
end

/-! ### `onAdapt` -/

section
variable (f : Adaptation → Adaptation)
@[simp] theorem State.onAdapt_pending : (s.onAdapt l f).pending = s.pending := (rfl)
@[simp] theorem State.onAdapt_cond : (s.onAdapt l f).cond = s.cond := (rfl)
@[simp] theorem State.onAdapt_bank : (s.onAdapt l f).bank = s.bank := (rfl)
@[simp] theorem State.onAdapt_decoder : (s.onAdapt l f).decoder = s.decoder := (rfl)
@[simp] theorem State.onAdapt_responses : (s.onAdapt l f).responses = s.responses := (rfl)
@[simp] theorem State.onAdapt_transfer : (s.onAdapt l f).transfer = s.transfer := (rfl)
@[simp] theorem State.onAdapt_notices : (s.onAdapt l f).notices = s.notices := (rfl)
@[simp] theorem State.onAdapt_counters : (s.onAdapt l f).counters = s.counters := (rfl)
@[simp] theorem State.onAdapt_link : (s.onAdapt l f).link = s.link := (rfl)
@[simp] theorem State.onAdapt_ports : (s.onAdapt l f).ports = s.ports := (rfl)
@[simp] theorem State.onAdapt_lane : (s.onAdapt l f).lane l = { s.lane l with adapt := f (s.lane l).adapt } := by cases l <;> rfl
@[simp] theorem State.onAdapt_other : (s.onAdapt l f).lane l.other = s.lane l.other := by cases l <;> rfl
@[simp] theorem State.onAdapt_lane_reference (k : Lane) : ((s.onAdapt l f).lane k).reference = (s.lane k).reference := by cases l <;> cases k <;> rfl
@[simp] theorem State.onAdapt_lane_selection (k : Lane) : ((s.onAdapt l f).lane k).selection = (s.lane k).selection := by cases l <;> cases k <;> rfl
@[simp] theorem State.onAdapt_lane_filter (k : Lane) : ((s.onAdapt l f).lane k).filter = (s.lane k).filter := by cases l <;> cases k <;> rfl
@[simp] theorem State.onAdapt_lane_campaign (k : Lane) : ((s.onAdapt l f).lane k).campaign = (s.lane k).campaign := by cases l <;> cases k <;> rfl
@[simp] theorem State.onAdapt_lane_control (k : Lane) : ((s.onAdapt l f).lane k).control = (s.lane k).control := by cases l <;> cases k <;> rfl
@[simp] theorem State.onAdapt_lane_counters (k : Lane) : ((s.onAdapt l f).lane k).counters = (s.lane k).counters := by cases l <;> cases k <;> rfl
end

/-! ### `onCampaign` -/

section
variable (f : Campaign → Campaign)
@[simp] theorem State.onCampaign_pending : (s.onCampaign l f).pending = s.pending := (rfl)
@[simp] theorem State.onCampaign_cond : (s.onCampaign l f).cond = s.cond := (rfl)
@[simp] theorem State.onCampaign_bank : (s.onCampaign l f).bank = s.bank := (rfl)
@[simp] theorem State.onCampaign_decoder : (s.onCampaign l f).decoder = s.decoder := (rfl)
@[simp] theorem State.onCampaign_responses : (s.onCampaign l f).responses = s.responses := (rfl)
@[simp] theorem State.onCampaign_transfer : (s.onCampaign l f).transfer = s.transfer := (rfl)
@[simp] theorem State.onCampaign_notices : (s.onCampaign l f).notices = s.notices := (rfl)
@[simp] theorem State.onCampaign_counters : (s.onCampaign l f).counters = s.counters := (rfl)
@[simp] theorem State.onCampaign_link : (s.onCampaign l f).link = s.link := (rfl)
@[simp] theorem State.onCampaign_ports : (s.onCampaign l f).ports = s.ports := (rfl)
@[simp] theorem State.onCampaign_lane : (s.onCampaign l f).lane l = { s.lane l with campaign := f (s.lane l).campaign } := by cases l <;> rfl
@[simp] theorem State.onCampaign_other : (s.onCampaign l f).lane l.other = s.lane l.other := by cases l <;> rfl
@[simp] theorem State.onCampaign_lane_reference (k : Lane) : ((s.onCampaign l f).lane k).reference = (s.lane k).reference := by cases l <;> cases k <;> rfl
@[simp] theorem State.onCampaign_lane_selection (k : Lane) : ((s.onCampaign l f).lane k).selection = (s.lane k).selection := by cases l <;> cases k <;> rfl
@[simp] theorem State.onCampaign_lane_filter (k : Lane) : ((s.onCampaign l f).lane k).filter = (s.lane k).filter := by cases l <;> cases k <;> rfl
@[simp] theorem State.onCampaign_lane_adapt (k : Lane) : ((s.onCampaign l f).lane k).adapt = (s.lane k).adapt := by cases l <;> cases k <;> rfl
@[simp] theorem State.onCampaign_lane_control (k : Lane) : ((s.onCampaign l f).lane k).control = (s.lane k).control := by cases l <;> cases k <;> rfl
@[simp] theorem State.onCampaign_lane_counters (k : Lane) : ((s.onCampaign l f).lane k).counters = (s.lane k).counters := by cases l <;> cases k <;> rfl
end

/-! ### `onControl` -/

section
variable (f : Control → Control)
@[simp] theorem State.onControl_pending : (s.onControl l f).pending = s.pending := (rfl)
@[simp] theorem State.onControl_cond : (s.onControl l f).cond = s.cond := (rfl)
@[simp] theorem State.onControl_bank : (s.onControl l f).bank = s.bank := (rfl)
@[simp] theorem State.onControl_decoder : (s.onControl l f).decoder = s.decoder := (rfl)
@[simp] theorem State.onControl_responses : (s.onControl l f).responses = s.responses := (rfl)
@[simp] theorem State.onControl_transfer : (s.onControl l f).transfer = s.transfer := (rfl)
@[simp] theorem State.onControl_notices : (s.onControl l f).notices = s.notices := (rfl)
@[simp] theorem State.onControl_counters : (s.onControl l f).counters = s.counters := (rfl)
@[simp] theorem State.onControl_link : (s.onControl l f).link = s.link := (rfl)
@[simp] theorem State.onControl_ports : (s.onControl l f).ports = s.ports := (rfl)
@[simp] theorem State.onControl_lane : (s.onControl l f).lane l = { s.lane l with control := f (s.lane l).control } := by cases l <;> rfl
@[simp] theorem State.onControl_other : (s.onControl l f).lane l.other = s.lane l.other := by cases l <;> rfl
@[simp] theorem State.onControl_lane_reference (k : Lane) : ((s.onControl l f).lane k).reference = (s.lane k).reference := by cases l <;> cases k <;> rfl
@[simp] theorem State.onControl_lane_selection (k : Lane) : ((s.onControl l f).lane k).selection = (s.lane k).selection := by cases l <;> cases k <;> rfl
@[simp] theorem State.onControl_lane_filter (k : Lane) : ((s.onControl l f).lane k).filter = (s.lane k).filter := by cases l <;> cases k <;> rfl
@[simp] theorem State.onControl_lane_adapt (k : Lane) : ((s.onControl l f).lane k).adapt = (s.lane k).adapt := by cases l <;> cases k <;> rfl
@[simp] theorem State.onControl_lane_campaign (k : Lane) : ((s.onControl l f).lane k).campaign = (s.lane k).campaign := by cases l <;> cases k <;> rfl
@[simp] theorem State.onControl_lane_counters (k : Lane) : ((s.onControl l f).lane k).counters = (s.lane k).counters := by cases l <;> cases k <;> rfl
end

/-! ### `onCounters` -/

section
variable (f : LaneCounters → LaneCounters)
@[simp] theorem State.onCounters_pending : (s.onCounters l f).pending = s.pending := (rfl)
@[simp] theorem State.onCounters_cond : (s.onCounters l f).cond = s.cond := (rfl)
@[simp] theorem State.onCounters_bank : (s.onCounters l f).bank = s.bank := (rfl)
@[simp] theorem State.onCounters_decoder : (s.onCounters l f).decoder = s.decoder := (rfl)
@[simp] theorem State.onCounters_responses : (s.onCounters l f).responses = s.responses := (rfl)
@[simp] theorem State.onCounters_transfer : (s.onCounters l f).transfer = s.transfer := (rfl)
@[simp] theorem State.onCounters_notices : (s.onCounters l f).notices = s.notices := (rfl)
@[simp] theorem State.onCounters_counters : (s.onCounters l f).counters = s.counters := (rfl)
@[simp] theorem State.onCounters_link : (s.onCounters l f).link = s.link := (rfl)
@[simp] theorem State.onCounters_ports : (s.onCounters l f).ports = s.ports := (rfl)
@[simp] theorem State.onCounters_lane : (s.onCounters l f).lane l = { s.lane l with counters := f (s.lane l).counters } := by cases l <;> rfl
@[simp] theorem State.onCounters_other : (s.onCounters l f).lane l.other = s.lane l.other := by cases l <;> rfl
@[simp] theorem State.onCounters_lane_reference (k : Lane) : ((s.onCounters l f).lane k).reference = (s.lane k).reference := by cases l <;> cases k <;> rfl
@[simp] theorem State.onCounters_lane_selection (k : Lane) : ((s.onCounters l f).lane k).selection = (s.lane k).selection := by cases l <;> cases k <;> rfl
@[simp] theorem State.onCounters_lane_filter (k : Lane) : ((s.onCounters l f).lane k).filter = (s.lane k).filter := by cases l <;> cases k <;> rfl
@[simp] theorem State.onCounters_lane_adapt (k : Lane) : ((s.onCounters l f).lane k).adapt = (s.lane k).adapt := by cases l <;> cases k <;> rfl
@[simp] theorem State.onCounters_lane_campaign (k : Lane) : ((s.onCounters l f).lane k).campaign = (s.lane k).campaign := by cases l <;> cases k <;> rfl
@[simp] theorem State.onCounters_lane_control (k : Lane) : ((s.onCounters l f).lane k).control = (s.lane k).control := by cases l <;> cases k <;> rfl
end

/-! ## The bank -/

section
variable (n : SetNo) (f : SetRecord → SetRecord)
@[simp] theorem State.onRecord_pending : (s.onRecord n f).pending = s.pending := (rfl)
@[simp] theorem State.onRecord_cond : (s.onRecord n f).cond = s.cond := (rfl)
@[simp] theorem State.onRecord_lane0 : (s.onRecord n f).lane0 = s.lane0 := (rfl)
@[simp] theorem State.onRecord_lane1 : (s.onRecord n f).lane1 = s.lane1 := (rfl)
@[simp] theorem State.onRecord_decoder : (s.onRecord n f).decoder = s.decoder := (rfl)
@[simp] theorem State.onRecord_responses : (s.onRecord n f).responses = s.responses := (rfl)
@[simp] theorem State.onRecord_transfer : (s.onRecord n f).transfer = s.transfer := (rfl)
@[simp] theorem State.onRecord_notices : (s.onRecord n f).notices = s.notices := (rfl)
@[simp] theorem State.onRecord_counters : (s.onRecord n f).counters = s.counters := (rfl)
@[simp] theorem State.onRecord_link : (s.onRecord n f).link = s.link := (rfl)
@[simp] theorem State.onRecord_ports : (s.onRecord n f).ports = s.ports := (rfl)
@[simp] theorem State.onRecord_lane : (s.onRecord n f).lane l = s.lane l := by cases l <;> rfl
end

/-- What any record is after one record is changed. -/
theorem State.onRecord_record (n m : SetNo) (f : SetRecord → SetRecord) :
    (s.onRecord n f).record m = if m = n then f (s.record n) else s.record m := by
  by_cases h : m = n
  · subst h; simp [State.onRecord, State.record]
  · have hv : n.val ≠ m.val := fun e => h (Fin.ext e.symm)
    simp [State.onRecord, State.record, h, hv]
@[simp] theorem State.onRecord_record_self (n : SetNo) (f : SetRecord → SetRecord) :
    (s.onRecord n f).record n = f (s.record n) := by simp [State.onRecord_record]
@[simp] theorem State.onRecord_words (n : SetNo) (f : SetRecord → SetRecord) :
    (s.onRecord n f).bank.words = s.bank.words := (rfl)
@[simp] theorem State.onRecord_cell (n m : SetNo) (w : Nat) (f : SetRecord → SetRecord) :
    (s.onRecord n f).cell m w = s.cell m w := (rfl)

section
variable (n : SetNo) (st : SetState)
@[simp] theorem State.setSetState_pending : (s.setSetState n st).pending = s.pending := (rfl)
@[simp] theorem State.setSetState_cond : (s.setSetState n st).cond = s.cond := (rfl)
@[simp] theorem State.setSetState_lane0 : (s.setSetState n st).lane0 = s.lane0 := (rfl)
@[simp] theorem State.setSetState_lane1 : (s.setSetState n st).lane1 = s.lane1 := (rfl)
@[simp] theorem State.setSetState_decoder : (s.setSetState n st).decoder = s.decoder := (rfl)
@[simp] theorem State.setSetState_responses : (s.setSetState n st).responses = s.responses := (rfl)
@[simp] theorem State.setSetState_transfer : (s.setSetState n st).transfer = s.transfer := (rfl)
@[simp] theorem State.setSetState_notices : (s.setSetState n st).notices = s.notices := (rfl)
@[simp] theorem State.setSetState_counters : (s.setSetState n st).counters = s.counters := (rfl)
@[simp] theorem State.setSetState_link : (s.setSetState n st).link = s.link := (rfl)
@[simp] theorem State.setSetState_ports : (s.setSetState n st).ports = s.ports := (rfl)
@[simp] theorem State.setSetState_lane : (s.setSetState n st).lane l = s.lane l := by cases l <;> rfl
end
@[simp] theorem State.setSetState_cell (n m : SetNo) (w : Nat) (st : SetState) :
    (s.setSetState n st).cell m w = s.cell m w := (rfl)
/-- What any record is after a set's state is changed. -/
theorem State.setSetState_record (n m : SetNo) (st : SetState) :
    (s.setSetState n st).record m = if m = n then { s.record n with state := st } else s.record m :=
  State.onRecord_record s n m _

section
variable (n : SetNo) (w : Nat) (c : Cell)
@[simp] theorem State.putCell_pending : (s.putCell n w c).pending = s.pending := (rfl)
@[simp] theorem State.putCell_cond : (s.putCell n w c).cond = s.cond := (rfl)
@[simp] theorem State.putCell_lane0 : (s.putCell n w c).lane0 = s.lane0 := (rfl)
@[simp] theorem State.putCell_lane1 : (s.putCell n w c).lane1 = s.lane1 := (rfl)
@[simp] theorem State.putCell_decoder : (s.putCell n w c).decoder = s.decoder := (rfl)
@[simp] theorem State.putCell_responses : (s.putCell n w c).responses = s.responses := (rfl)
@[simp] theorem State.putCell_transfer : (s.putCell n w c).transfer = s.transfer := (rfl)
@[simp] theorem State.putCell_notices : (s.putCell n w c).notices = s.notices := (rfl)
@[simp] theorem State.putCell_counters : (s.putCell n w c).counters = s.counters := (rfl)
@[simp] theorem State.putCell_link : (s.putCell n w c).link = s.link := (rfl)
@[simp] theorem State.putCell_ports : (s.putCell n w c).ports = s.ports := (rfl)
@[simp] theorem State.putCell_lane : (s.putCell n w c).lane l = s.lane l := by cases l <;> rfl
end
@[simp] theorem State.putCell_records (n : SetNo) (w : Nat) (c : Cell) :
    (s.putCell n w c).bank.records = s.bank.records := (rfl)
@[simp] theorem State.putCell_record (n m : SetNo) (w : Nat) (c : Cell) : (s.putCell n w c).record m = s.record m := (rfl)

section
variable (n : SetNo) (w : Nat) (v : Word)
@[simp] theorem State.writeWord_pending : (s.writeWord n w v).pending = s.pending := (rfl)
@[simp] theorem State.writeWord_cond : (s.writeWord n w v).cond = s.cond := (rfl)
@[simp] theorem State.writeWord_lane0 : (s.writeWord n w v).lane0 = s.lane0 := (rfl)
@[simp] theorem State.writeWord_lane1 : (s.writeWord n w v).lane1 = s.lane1 := (rfl)
@[simp] theorem State.writeWord_decoder : (s.writeWord n w v).decoder = s.decoder := (rfl)
@[simp] theorem State.writeWord_responses : (s.writeWord n w v).responses = s.responses := (rfl)
@[simp] theorem State.writeWord_transfer : (s.writeWord n w v).transfer = s.transfer := (rfl)
@[simp] theorem State.writeWord_notices : (s.writeWord n w v).notices = s.notices := (rfl)
@[simp] theorem State.writeWord_counters : (s.writeWord n w v).counters = s.counters := (rfl)
@[simp] theorem State.writeWord_link : (s.writeWord n w v).link = s.link := (rfl)
@[simp] theorem State.writeWord_ports : (s.writeWord n w v).ports = s.ports := (rfl)
@[simp] theorem State.writeWord_lane : (s.writeWord n w v).lane l = s.lane l := by cases l <;> rfl
end
@[simp] theorem State.writeWord_records (n : SetNo) (w : Nat) (v : Word) :
    (s.writeWord n w v).bank.records = s.bank.records := (rfl)
@[simp] theorem State.writeWord_record (n m : SetNo) (w : Nat) (v : Word) : (s.writeWord n w v).record m = s.record m := (rfl)


/-! ## Notices, responses, decoder, link and queue -/

section
variable (k : NoticeKind) (ln : Option Lane) (d : Nat)
@[simp] theorem State.notify_pending : (s.notify k ln d).pending = s.pending := (rfl)
@[simp] theorem State.notify_cond : (s.notify k ln d).cond = s.cond := (rfl)
@[simp] theorem State.notify_lane0 : (s.notify k ln d).lane0 = s.lane0 := (rfl)
@[simp] theorem State.notify_lane1 : (s.notify k ln d).lane1 = s.lane1 := (rfl)
@[simp] theorem State.notify_bank : (s.notify k ln d).bank = s.bank := (rfl)
@[simp] theorem State.notify_decoder : (s.notify k ln d).decoder = s.decoder := (rfl)
@[simp] theorem State.notify_responses : (s.notify k ln d).responses = s.responses := (rfl)
@[simp] theorem State.notify_transfer : (s.notify k ln d).transfer = s.transfer := (rfl)
@[simp] theorem State.notify_counters : (s.notify k ln d).counters = s.counters := (rfl)
@[simp] theorem State.notify_link : (s.notify k ln d).link = s.link := (rfl)
@[simp] theorem State.notify_ports : (s.notify k ln d).ports = s.ports := (rfl)
@[simp] theorem State.notify_lane : (s.notify k ln d).lane l = s.lane l := by cases l <;> rfl
end
@[simp] theorem State.notify_record (n : SetNo) (k : NoticeKind) (ln : Option Lane) (d : Nat) : (s.notify k ln d).record n = s.record n := (rfl)
@[simp] theorem State.notify_cell (n : SetNo) (w : Nat) (k : NoticeKind) (ln : Option Lane) (d : Nat) : (s.notify k ln d).cell n w = s.cell n w := (rfl)

@[simp] theorem State.notify_notices (k : NoticeKind) (ln : Option Lane) (d : Nat) :
    (s.notify k ln d).notices = s.notices.add k ln d := (rfl)

section
variable (src : Source) (ws : List Word)
@[simp] theorem State.enqueue_pending : (s.enqueue src ws).pending = s.pending := (rfl)
@[simp] theorem State.enqueue_cond : (s.enqueue src ws).cond = s.cond := (rfl)
@[simp] theorem State.enqueue_lane0 : (s.enqueue src ws).lane0 = s.lane0 := (rfl)
@[simp] theorem State.enqueue_lane1 : (s.enqueue src ws).lane1 = s.lane1 := (rfl)
@[simp] theorem State.enqueue_bank : (s.enqueue src ws).bank = s.bank := (rfl)
@[simp] theorem State.enqueue_decoder : (s.enqueue src ws).decoder = s.decoder := (rfl)
@[simp] theorem State.enqueue_transfer : (s.enqueue src ws).transfer = s.transfer := (rfl)
@[simp] theorem State.enqueue_notices : (s.enqueue src ws).notices = s.notices := (rfl)
@[simp] theorem State.enqueue_counters : (s.enqueue src ws).counters = s.counters := (rfl)
@[simp] theorem State.enqueue_link : (s.enqueue src ws).link = s.link := (rfl)
@[simp] theorem State.enqueue_ports : (s.enqueue src ws).ports = s.ports := (rfl)
@[simp] theorem State.enqueue_lane : (s.enqueue src ws).lane l = s.lane l := by cases l <;> rfl
end
@[simp] theorem State.enqueue_record (n : SetNo) (src : Source) (ws : List Word) : (s.enqueue src ws).record n = s.record n := (rfl)
@[simp] theorem State.enqueue_cell (n : SetNo) (w : Nat) (src : Source) (ws : List Word) : (s.enqueue src ws).cell n w = s.cell n w := (rfl)

@[simp] theorem State.enqueue_responses (src : Source) (ws : List Word) :
    (s.enqueue src ws).responses = s.responses ++ ws.map (QueuedWord.mk src) := (rfl)

section
variable (c : BitVec 6) (r : Reply)
@[simp] theorem State.respond_pending : (s.respond c r).pending = s.pending := (rfl)
@[simp] theorem State.respond_cond : (s.respond c r).cond = s.cond := (rfl)
@[simp] theorem State.respond_lane0 : (s.respond c r).lane0 = s.lane0 := (rfl)
@[simp] theorem State.respond_lane1 : (s.respond c r).lane1 = s.lane1 := (rfl)
@[simp] theorem State.respond_bank : (s.respond c r).bank = s.bank := (rfl)
@[simp] theorem State.respond_decoder : (s.respond c r).decoder = s.decoder := (rfl)
@[simp] theorem State.respond_transfer : (s.respond c r).transfer = s.transfer := (rfl)
@[simp] theorem State.respond_notices : (s.respond c r).notices = s.notices := (rfl)
@[simp] theorem State.respond_counters : (s.respond c r).counters = s.counters := (rfl)
@[simp] theorem State.respond_link : (s.respond c r).link = s.link := (rfl)
@[simp] theorem State.respond_ports : (s.respond c r).ports = s.ports := (rfl)
@[simp] theorem State.respond_lane : (s.respond c r).lane l = s.lane l := by cases l <;> rfl
end
@[simp] theorem State.respond_record (n : SetNo) (c : BitVec 6) (r : Reply) : (s.respond c r).record n = s.record n := (rfl)
@[simp] theorem State.respond_cell (n : SetNo) (w : Nat) (c : BitVec 6) (r : Reply) : (s.respond c r).cell n w = s.cell n w := (rfl)

@[simp] theorem State.respond_responses (c : BitVec 6) (r : Reply) :
    (s.respond c r).responses =
      s.responses ++ (responseHeader c r.result r.words.length :: r.words).map (QueuedWord.mk .command) := (rfl)

section
variable (p : Pointer)
@[simp] theorem State.setPointer_pending : (s.setPointer p).pending = s.pending := (rfl)
@[simp] theorem State.setPointer_cond : (s.setPointer p).cond = s.cond := (rfl)
@[simp] theorem State.setPointer_lane0 : (s.setPointer p).lane0 = s.lane0 := (rfl)
@[simp] theorem State.setPointer_lane1 : (s.setPointer p).lane1 = s.lane1 := (rfl)
@[simp] theorem State.setPointer_bank : (s.setPointer p).bank = s.bank := (rfl)
@[simp] theorem State.setPointer_responses : (s.setPointer p).responses = s.responses := (rfl)
@[simp] theorem State.setPointer_transfer : (s.setPointer p).transfer = s.transfer := (rfl)
@[simp] theorem State.setPointer_notices : (s.setPointer p).notices = s.notices := (rfl)
@[simp] theorem State.setPointer_counters : (s.setPointer p).counters = s.counters := (rfl)
@[simp] theorem State.setPointer_link : (s.setPointer p).link = s.link := (rfl)
@[simp] theorem State.setPointer_ports : (s.setPointer p).ports = s.ports := (rfl)
@[simp] theorem State.setPointer_lane : (s.setPointer p).lane l = s.lane l := by cases l <;> rfl
end
@[simp] theorem State.setPointer_record (n : SetNo) (p : Pointer) : (s.setPointer p).record n = s.record n := (rfl)
@[simp] theorem State.setPointer_cell (n : SetNo) (w : Nat) (p : Pointer) : (s.setPointer p).cell n w = s.cell n w := (rfl)

@[simp] theorem State.clearCommand_pending : (s.clearCommand).pending = s.pending := (rfl)
@[simp] theorem State.clearCommand_cond : (s.clearCommand).cond = s.cond := (rfl)
@[simp] theorem State.clearCommand_lane0 : (s.clearCommand).lane0 = s.lane0 := (rfl)
@[simp] theorem State.clearCommand_lane1 : (s.clearCommand).lane1 = s.lane1 := (rfl)
@[simp] theorem State.clearCommand_bank : (s.clearCommand).bank = s.bank := (rfl)
@[simp] theorem State.clearCommand_responses : (s.clearCommand).responses = s.responses := (rfl)
@[simp] theorem State.clearCommand_transfer : (s.clearCommand).transfer = s.transfer := (rfl)
@[simp] theorem State.clearCommand_notices : (s.clearCommand).notices = s.notices := (rfl)
@[simp] theorem State.clearCommand_counters : (s.clearCommand).counters = s.counters := (rfl)
@[simp] theorem State.clearCommand_link : (s.clearCommand).link = s.link := (rfl)
@[simp] theorem State.clearCommand_ports : (s.clearCommand).ports = s.ports := (rfl)
@[simp] theorem State.clearCommand_lane : (s.clearCommand).lane l = s.lane l := by cases l <;> rfl
@[simp] theorem State.clearCommand_record (n : SetNo)  : (s.clearCommand).record n = s.record n := (rfl)
@[simp] theorem State.clearCommand_cell (n : SetNo) (w : Nat)  : (s.clearCommand).cell n w = s.cell n w := (rfl)

section
variable (p : PendingCommand)
@[simp] theorem State.holdCommand_pending : (s.holdCommand p).pending = s.pending := (rfl)
@[simp] theorem State.holdCommand_cond : (s.holdCommand p).cond = s.cond := (rfl)
@[simp] theorem State.holdCommand_lane0 : (s.holdCommand p).lane0 = s.lane0 := (rfl)
@[simp] theorem State.holdCommand_lane1 : (s.holdCommand p).lane1 = s.lane1 := (rfl)
@[simp] theorem State.holdCommand_bank : (s.holdCommand p).bank = s.bank := (rfl)
@[simp] theorem State.holdCommand_responses : (s.holdCommand p).responses = s.responses := (rfl)
@[simp] theorem State.holdCommand_transfer : (s.holdCommand p).transfer = s.transfer := (rfl)
@[simp] theorem State.holdCommand_notices : (s.holdCommand p).notices = s.notices := (rfl)
@[simp] theorem State.holdCommand_counters : (s.holdCommand p).counters = s.counters := (rfl)
@[simp] theorem State.holdCommand_link : (s.holdCommand p).link = s.link := (rfl)
@[simp] theorem State.holdCommand_ports : (s.holdCommand p).ports = s.ports := (rfl)
@[simp] theorem State.holdCommand_lane : (s.holdCommand p).lane l = s.lane l := by cases l <;> rfl
end
@[simp] theorem State.holdCommand_record (n : SetNo) (p : PendingCommand) : (s.holdCommand p).record n = s.record n := (rfl)
@[simp] theorem State.holdCommand_cell (n : SetNo) (w : Nat) (p : PendingCommand) : (s.holdCommand p).cell n w = s.cell n w := (rfl)

@[simp] theorem State.turnAway_pending : (s.turnAway).pending = s.pending := (rfl)
@[simp] theorem State.turnAway_cond : (s.turnAway).cond = s.cond := (rfl)
@[simp] theorem State.turnAway_lane0 : (s.turnAway).lane0 = s.lane0 := (rfl)
@[simp] theorem State.turnAway_lane1 : (s.turnAway).lane1 = s.lane1 := (rfl)
@[simp] theorem State.turnAway_bank : (s.turnAway).bank = s.bank := (rfl)
@[simp] theorem State.turnAway_decoder : (s.turnAway).decoder = s.decoder := (rfl)
@[simp] theorem State.turnAway_responses : (s.turnAway).responses = s.responses := (rfl)
@[simp] theorem State.turnAway_transfer : (s.turnAway).transfer = s.transfer := (rfl)
@[simp] theorem State.turnAway_notices : (s.turnAway).notices = s.notices := (rfl)
@[simp] theorem State.turnAway_link : (s.turnAway).link = s.link := (rfl)
@[simp] theorem State.turnAway_ports : (s.turnAway).ports = s.ports := (rfl)
@[simp] theorem State.turnAway_lane : (s.turnAway).lane l = s.lane l := by cases l <;> rfl
@[simp] theorem State.turnAway_record (n : SetNo)  : (s.turnAway).record n = s.record n := (rfl)
@[simp] theorem State.turnAway_cell (n : SetNo) (w : Nat)  : (s.turnAway).cell n w = s.cell n w := (rfl)

section
variable (ws : List Word)
@[simp] theorem State.hold_pending : (s.hold ws).pending = s.pending := (rfl)
@[simp] theorem State.hold_cond : (s.hold ws).cond = s.cond := (rfl)
@[simp] theorem State.hold_lane0 : (s.hold ws).lane0 = s.lane0 := (rfl)
@[simp] theorem State.hold_lane1 : (s.hold ws).lane1 = s.lane1 := (rfl)
@[simp] theorem State.hold_bank : (s.hold ws).bank = s.bank := (rfl)
@[simp] theorem State.hold_decoder : (s.hold ws).decoder = s.decoder := (rfl)
@[simp] theorem State.hold_responses : (s.hold ws).responses = s.responses := (rfl)
@[simp] theorem State.hold_transfer : (s.hold ws).transfer = s.transfer := (rfl)
@[simp] theorem State.hold_notices : (s.hold ws).notices = s.notices := (rfl)
@[simp] theorem State.hold_counters : (s.hold ws).counters = s.counters := (rfl)
@[simp] theorem State.hold_ports : (s.hold ws).ports = s.ports := (rfl)
@[simp] theorem State.hold_lane : (s.hold ws).lane l = s.lane l := by cases l <;> rfl
end
@[simp] theorem State.hold_record (n : SetNo) (ws : List Word) : (s.hold ws).record n = s.record n := (rfl)
@[simp] theorem State.hold_cell (n : SetNo) (w : Nat) (ws : List Word) : (s.hold ws).cell n w = s.cell n w := (rfl)

section
variable (q : List Instr)
@[simp] theorem State.withPending_cond : (s.withPending q).cond = s.cond := (rfl)
@[simp] theorem State.withPending_lane0 : (s.withPending q).lane0 = s.lane0 := (rfl)
@[simp] theorem State.withPending_lane1 : (s.withPending q).lane1 = s.lane1 := (rfl)
@[simp] theorem State.withPending_bank : (s.withPending q).bank = s.bank := (rfl)
@[simp] theorem State.withPending_decoder : (s.withPending q).decoder = s.decoder := (rfl)
@[simp] theorem State.withPending_responses : (s.withPending q).responses = s.responses := (rfl)
@[simp] theorem State.withPending_transfer : (s.withPending q).transfer = s.transfer := (rfl)
@[simp] theorem State.withPending_notices : (s.withPending q).notices = s.notices := (rfl)
@[simp] theorem State.withPending_counters : (s.withPending q).counters = s.counters := (rfl)
@[simp] theorem State.withPending_link : (s.withPending q).link = s.link := (rfl)
@[simp] theorem State.withPending_ports : (s.withPending q).ports = s.ports := (rfl)
@[simp] theorem State.withPending_lane : (s.withPending q).lane l = s.lane l := by cases l <;> rfl
end
@[simp] theorem State.withPending_record (n : SetNo) (q : List Instr) : (s.withPending q).record n = s.record n := (rfl)
@[simp] theorem State.withPending_cell (n : SetNo) (w : Nat) (q : List Instr) : (s.withPending q).cell n w = s.cell n w := (rfl)

section
variable (ln : Lane) (st : OutStatus) (wedge output : Word)
@[simp] theorem State.sendDrive_pending : (s.sendDrive ln st wedge output).pending = s.pending := (rfl)
@[simp] theorem State.sendDrive_cond : (s.sendDrive ln st wedge output).cond = s.cond := (rfl)
@[simp] theorem State.sendDrive_lane0 : (s.sendDrive ln st wedge output).lane0 = s.lane0 := (rfl)
@[simp] theorem State.sendDrive_lane1 : (s.sendDrive ln st wedge output).lane1 = s.lane1 := (rfl)
@[simp] theorem State.sendDrive_bank : (s.sendDrive ln st wedge output).bank = s.bank := (rfl)
@[simp] theorem State.sendDrive_decoder : (s.sendDrive ln st wedge output).decoder = s.decoder := (rfl)
@[simp] theorem State.sendDrive_responses : (s.sendDrive ln st wedge output).responses = s.responses := (rfl)
@[simp] theorem State.sendDrive_transfer : (s.sendDrive ln st wedge output).transfer = s.transfer := (rfl)
@[simp] theorem State.sendDrive_notices : (s.sendDrive ln st wedge output).notices = s.notices := (rfl)
@[simp] theorem State.sendDrive_counters : (s.sendDrive ln st wedge output).counters = s.counters := (rfl)
@[simp] theorem State.sendDrive_link : (s.sendDrive ln st wedge output).link = s.link := (rfl)
@[simp] theorem State.sendDrive_lane : (s.sendDrive ln st wedge output).lane l = s.lane l := by cases l <;> rfl
end
@[simp] theorem State.sendDrive_record (n : SetNo) (ln : Lane) (st : OutStatus) (wedge output : Word) : (s.sendDrive ln st wedge output).record n = s.record n := (rfl)
@[simp] theorem State.sendDrive_cell (n : SetNo) (w : Nat) (ln : Lane) (st : OutStatus) (wedge output : Word) : (s.sendDrive ln st wedge output).cell n w = s.cell n w := (rfl)


end Sys2Proof.Machine
end

