-- ==== Sys2Proof/Laws/Memory.lean ====
section
/-! SUPPORT. The laws of the addressed stores: a read after a write, the canonical form kept by every write,
and equality of canonical stores with equal reads; then the same for the words of the bank. -/

namespace Sys2Proof.Machine

section Store

variable {α : Type} [DecidableEq α] {d : α}

/-- Every listed address of a canonical store lies above a bound. -/
theorem Memory.wf_cons {k : Nat} {v : α} {m : List (Nat × α)} :
    Memory.wf d ((k, v) :: m) = true ↔ v ≠ d ∧ (∀ e ∈ m, k < e.1) ∧ Memory.wf d m = true := by
  simp [Memory.wf, and_assoc]

omit [DecidableEq α] in
/-- An address below every listed one reads as unlisted. -/
theorem Memory.read_below {m : List (Nat × α)} {a : Nat} (h : ∀ e ∈ m, a < e.1) : Memory.read d m a = d := by
  cases m with
  | nil => rfl
  | cons e m =>
    have := h e (by simp)
    simp only [Memory.read]
    rw [if_neg (by omega), if_pos this]

/-- A read after a write gives the value written at its address and what it gave before elsewhere. -/
theorem Memory.read_write {m : List (Nat × α)} (hm : Memory.wf d m = true) (a b : Nat) (v : α) :
    Memory.read d (Memory.write d m a v) b = if b = a then v else Memory.read d m b := by
  induction m with
  | nil =>
    by_cases hv : v = d <;> by_cases hb : b = a <;> simp [Memory.write, Memory.read, hv, hb]
  | cons e m ih =>
    obtain ⟨k, w⟩ := e
    obtain ⟨-, hk, hm'⟩ := Memory.wf_cons.mp hm
    have hlow : ∀ c, c ≤ k → Memory.read d m c = d :=
      fun c hc => Memory.read_below fun e he => by have := hk e he; omega
    have hread : ∀ j (x : α) r, Memory.read d ((j, x) :: r) b = if b = j then x else if b < j then d else Memory.read d r b :=
      fun _ _ _ => rfl
    simp only [Memory.write]
    split_ifs <;> (try simp only [hread, ih hm']) <;> (try split_ifs) <;>
      first
        | rfl
        | omega
        | exact hlow _ (by omega)
        | (subst_vars; first | rfl | exact hlow _ (by omega))

/-- The addresses that a write lists are its own and those listed before. -/
theorem Memory.write_above {m : List (Nat × α)} {k a : Nat} {v : α} (h : ∀ e ∈ m, k < e.1) (ha : k < a) :
    ∀ e ∈ Memory.write d m a v, k < e.1 := by
  induction m with
  | nil =>
    by_cases hv : v = d <;> simp [Memory.write, hv, ha]
  | cons e m ih =>
    obtain ⟨j, w⟩ := e
    have hj : k < j := h (j, w) (by simp)
    have ht : ∀ e ∈ m, k < e.1 := fun e he => h e (by simp [he])
    simp only [Memory.write]
    split_ifs <;> intro e he
    · exact h e he
    · rcases List.mem_cons.mp he with rfl | he
      · exact ha
      · exact h e he
    · exact ht e he
    · rcases List.mem_cons.mp he with rfl | he
      · exact ha
      · exact ht e he
    · rcases List.mem_cons.mp he with rfl | he
      · exact hj
      · exact ih ht e he

/-- A write keeps the canonical form. -/
theorem Memory.write_wf {m : List (Nat × α)} (hm : Memory.wf d m = true) (a : Nat) (v : α) :
    Memory.wf d (Memory.write d m a v) = true := by
  induction m with
  | nil => by_cases hv : v = d <;> simp [Memory.write, Memory.wf, hv]
  | cons e m ih =>
    obtain ⟨k, w⟩ := e
    obtain ⟨hw, hk, hm'⟩ := Memory.wf_cons.mp hm
    simp only [Memory.write]
    split_ifs with h1 h2 h3 h4
    · exact hm
    · refine Memory.wf_cons.mpr ⟨h2, ?_, hm⟩
      intro e he
      rcases List.mem_cons.mp he with rfl | he
      · exact h1
      · have := hk e he; omega
    · exact hm'
    · exact Memory.wf_cons.mpr ⟨h4, h3 ▸ hk, hm'⟩
    · exact Memory.wf_cons.mpr ⟨hw, Memory.write_above hk (by omega), ih hm'⟩

/-- Canonical stores that read alike everywhere are equal. -/
theorem Memory.wf_ext {m n : List (Nat × α)} (hm : Memory.wf d m = true) (hn : Memory.wf d n = true)
    (h : ∀ a, Memory.read d m a = Memory.read d n a) : m = n := by
  induction m generalizing n with
  | nil =>
    cases n with
    | nil => rfl
    | cons e n =>
      have := h e.1
      simp [Memory.read] at this
      exact absurd this.symm (Memory.wf_cons.mp hn).1
  | cons e m ih =>
    obtain ⟨k, v⟩ := e
    obtain ⟨hv, hk, hm'⟩ := Memory.wf_cons.mp hm
    cases n with
    | nil => have := h k; simp [Memory.read] at this; exact absurd this hv
    | cons e' n =>
      obtain ⟨j, w⟩ := e'
      obtain ⟨hw, hj, hn'⟩ := Memory.wf_cons.mp hn
      have hkj : k = j := by
        rcases Nat.lt_trichotomy k j with hlt | heq | hgt
        · have := h k
          simp only [Memory.read, if_true] at this
          rw [if_neg (by omega), if_pos hlt] at this
          exact absurd this hv
        · exact heq
        · have := h j
          simp only [Memory.read, if_true] at this
          rw [if_neg (by omega), if_pos hgt] at this
          exact absurd this.symm hw
      subst hkj
      have hvw : v = w := by simpa [Memory.read] using h k
      subst hvw
      rw [ih hm' hn' fun a => ?_]
      rcases Nat.lt_trichotomy a k with hlt | heq | hgt
      · rw [Memory.read_below fun e he => by have := hk e he; omega,
          Memory.read_below fun e he => by have := hj e he; omega]
      · rw [Memory.read_below fun e he => by have := hk e he; omega,
          Memory.read_below fun e he => by have := hj e he; omega]
      · have := h a
        simp only [Memory.read] at this
        rwa [if_neg (by omega), if_neg (by omega), if_neg (by omega), if_neg (by omega)] at this

end Store

/-! ## The words of the bank -/

variable (s : State)

/-- The bank's store is canonical. -/
abbrev State.bankWf : Prop := Memory.wf Cell.zero s.bank.words = true

/-- Words of sets have addresses of their own. -/
theorem wordAddr_inj {n m : SetNo} {w v : Nat} (hw : w < 64) (hv : v < 64) :
    wordAddr n w = wordAddr m v ↔ n = m ∧ w = v := by
  simp only [wordAddr, Config.setStride, Fin.ext_iff]; omega

theorem State.putCell_wf {s : State} (h : s.bankWf) (n : SetNo) (w : Nat) (c : Cell) : (s.putCell n w c).bankWf :=
  Memory.write_wf h _ _

theorem State.writeWord_wf {s : State} (h : s.bankWf) (n : SetNo) (w : Nat) (v : Word) : (s.writeWord n w v).bankWf :=
  Memory.write_wf h _ _

/-- What any word reads as after one word is replaced. -/
theorem State.putCell_cell {s : State} (h : s.bankWf) (n m : SetNo) {w v : Nat} (hw : w < 64) (hv : v < 64) (c : Cell) :
    (s.putCell n w c).cell m v = if m = n ∧ v = w then c else s.cell m v := by
  simp only [State.putCell, State.cell, Memory.read_write h, wordAddr_inj hv hw]

/-- What any word reads as after one word is written. -/
theorem State.writeWord_cell {s : State} (h : s.bankWf) (n m : SetNo) {w v : Nat} (hw : w < 64) (hv : v < 64) (x : Word) :
    (s.writeWord n w x).cell m v = if m = n ∧ v = w then { value := x, flipped := [] } else s.cell m v :=
  State.putCell_cell h n m hw hv _

/-- Writes of consecutive words touch the bank's words only. -/
@[simp] theorem State.writeWords_outside (n : SetNo) (w : Nat) (vs : List Word) :
    (s.writeWords n w vs).bank.records = s.bank.records ∧ (s.writeWords n w vs).pending = s.pending
      ∧ (s.writeWords n w vs).cond = s.cond ∧ (s.writeWords n w vs).lane0 = s.lane0
      ∧ (s.writeWords n w vs).lane1 = s.lane1 ∧ (s.writeWords n w vs).decoder = s.decoder
      ∧ (s.writeWords n w vs).responses = s.responses ∧ (s.writeWords n w vs).transfer = s.transfer
      ∧ (s.writeWords n w vs).notices = s.notices ∧ (s.writeWords n w vs).counters = s.counters
      ∧ (s.writeWords n w vs).link = s.link ∧ (s.writeWords n w vs).ports = s.ports := by
  induction vs generalizing s w with
  | nil => simp [State.writeWords]
  | cons v vs ih => simpa [State.writeWords] using ih (s.writeWord n w v) (w + 1)

@[simp] theorem State.writeWords_record (n m : SetNo) (w : Nat) (vs : List Word) :
    (s.writeWords n w vs).record m = s.record m := by simp [State.record]

@[simp] theorem State.writeWords_lane (n : SetNo) (w : Nat) (vs : List Word) (l : Lane) :
    (s.writeWords n w vs).lane l = s.lane l := by cases l <;> simp [State.lane]

theorem State.writeWords_wf {s : State} (h : s.bankWf) (n : SetNo) (w : Nat) (vs : List Word) :
    (s.writeWords n w vs).bankWf := by
  induction vs generalizing s w with
  | nil => exact h
  | cons v vs ih => exact ih (State.writeWord_wf h n w v) (w + 1)

/-- What any word reads as after consecutive words are written. -/
theorem State.writeWords_cell {s : State} (h : s.bankWf) (n m : SetNo) {w v : Nat} (vs : List Word)
    (hw : w + vs.length ≤ 64) (hv : v < 64) :
    (s.writeWords n w vs).cell m v =
      if m = n ∧ w ≤ v ∧ v < w + vs.length then { value := vs.getD (v - w) 0, flipped := [] } else s.cell m v := by
  induction vs generalizing s w with
  | nil => simp only [State.writeWords, List.length_nil]; rw [if_neg (by omega)]
  | cons x vs ih =>
    simp only [List.length_cons] at hw ⊢
    rw [State.writeWords, ih (State.writeWord_wf h n w x) (by omega),
      State.writeWord_cell h n m (by omega) hv]
    by_cases hm : m = n
    · rcases Nat.lt_trichotomy v w with hlt | rfl | hgt
      · rw [if_neg (by omega), if_neg (by omega), if_neg (by omega)]
      · rw [if_neg (by omega), if_pos ⟨hm, rfl⟩, if_pos ⟨hm, by omega, by omega⟩]; simp
      · by_cases hin : v < w + 1 + vs.length
        · rw [if_pos ⟨hm, by omega, hin⟩, if_pos ⟨hm, by omega, by omega⟩]
          obtain ⟨k, rfl⟩ : ∃ k, v = w + 1 + k := ⟨v - (w + 1), by omega⟩
          simp [show w + 1 + k - w = k + 1 by omega]
        · rw [if_neg (by omega), if_neg (by omega), if_neg (by omega)]
    · rw [if_neg (by simp [hm]), if_neg (by simp [hm]), if_neg (by simp [hm])]

end Sys2Proof.Machine
end

