-- ==== Sys2Proof/Laws/Bank.lean ====
section
/-! SUPPORT. What the words of the bank, the records of the sets and the answers of a command read as after each of
the shared operations, in the words that claims are stated in. -/

namespace Sys2Proof.Machine

variable {s : State} {l : Lane} {n : SetNo}

/-! ## Words -/

/-- Writes of consecutive words of a set replace those words and no other. -/
theorem State.writeWords_bankAt (h : s.bankWf) (n : SetNo) (w : Nat) (vs : List Word) (a : Nat) :
    (s.writeWords n w vs).bankAt a =
      if n.val * 64 + w ≤ a ∧ a < n.val * 64 + w + vs.length then
        { value := vs.getD (a - (n.val * 64 + w)) 0, flipped := [] }
      else s.bankAt a := by
  induction vs generalizing s w with
  | nil => simp only [State.writeWords, List.length_nil]; rw [if_neg (by omega)]
  | cons x vs ih =>
    rw [State.writeWords, ih (State.writeWord_wf h n w x) (w + 1)]
    have hx : (s.writeWord n w x).bankAt a = if a = n.val * 64 + w then ⟨x, []⟩ else s.bankAt a :=
      Memory.read_write h _ _ _
    rw [hx]
    by_cases h1 : n.val * 64 + (w + 1) ≤ a ∧ a < n.val * 64 + (w + 1) + vs.length
    · rw [if_pos h1, if_pos (by simp only [List.length_cons]; omega)]
      obtain ⟨k, hk⟩ : ∃ k, a - (n.val * 64 + w) = k + 1 := ⟨a - (n.val * 64 + w) - 1, by omega⟩
      rw [hk, List.getD_cons_succ, show a - (n.val * 64 + (w + 1)) = k by omega]
    · rw [if_neg h1]
      by_cases h2 : a = n.val * 64 + w
      · rw [if_pos h2, if_pos (by simp only [List.length_cons]; omega), h2]; simp
      · rw [if_neg h2, if_neg (by simp only [List.length_cons]; omega)]

/-- A set zeroed reads 0 in each of its words. -/
theorem State.writeZeros_bankAt (h : s.bankWf) (n : SetNo) (k a : Nat) :
    (s.writeWords n 0 (List.replicate k 0)).bankAt a =
      if n.val * 64 ≤ a ∧ a < n.val * 64 + k then { value := 0, flipped := [] } else s.bankAt a := by
  rw [State.writeWords_bankAt h]
  simp only [List.length_replicate, Nat.add_zero]
  split
  · rw [List.getD_eq_getElem?_getD, List.getElem?_replicate]; split <;> rfl
  · rfl

/-- A change of a set's record leaves every word. -/
@[simp] theorem State.onRecord_bankAt (n : SetNo) (f : SetRecord → SetRecord) (a : Nat) :
    (s.onRecord n f).bankAt a = s.bankAt a := (rfl)

/-- The word at a set's place. -/
theorem State.bankAt_cell (w : Nat) : s.bankAt (n.val * 64 + w) = s.cell n w := (rfl)

/-! ## Records -/

theorem State.onNamed_record (o : Option SetNo) (f : SetRecord → SetRecord) (n : SetNo) :
    (s.onNamed o f).record n = if o = some n then f (s.record n) else s.record n := by
  unfold State.onNamed
  cases o with
  | none => simp
  | some m => simp only [State.onRecord_record]; by_cases h : n = m <;> simp [h, eq_comm]

/-- A change of name changes the records of the sets alone. -/
theorem State.onNamed_eq (o : Option SetNo) (f : SetRecord → SetRecord) :
    ∃ r, s.onNamed o f = { s with bank := { s.bank with records := r } } := by
  unfold State.onNamed; split
  · exact ⟨_, rfl⟩
  · exact ⟨s.bank.records, rfl⟩

theorem State.rename_eq (o new : Option SetNo) :
    ∃ r, s.rename l o new = { s with bank := { s.bank with records := r } } := by
  unfold State.rename; split
  · exact ⟨s.bank.records, rfl⟩
  · obtain ⟨r, h⟩ := State.onNamed_eq (s := s) o SetRecord.lowered
    obtain ⟨r2, h2⟩ := State.onNamed_eq (s := s.onNamed o SetRecord.lowered) new fun r => r.named l
    exact ⟨r2, by rw [h2, h]⟩

/-- The upkeep of the records when a name changes (R42). -/
theorem State.rename_record (o new : Option SetNo) (n : SetNo) :
    (s.rename l o new).record n = (s.record n).renamed n l o new := by
  unfold State.rename SetRecord.renamed
  split
  · rfl
  · rename_i h
    rw [State.onNamed_record, State.onNamed_record]
    by_cases h1 : new = some n
    · have : o ≠ some n := by rintro rfl; exact h h1.symm
      simp [h1, this, SetRecord.named]
    · simp only [h1, if_false]
      split
      · simp only [SetRecord.lowered]; congr 1; split <;> split <;> first | rfl | omega
      · rfl

/-! ## Answers -/

/-- A command's answer in the words of `State.answered`. -/
theorem State.respond_eq (code : BitVec 6) (r : Reply) :
    s.respond code r = s.answered code.toNat r.result.code r.words := by
  simp [State.respond, State.enqueue, State.answered, responseHeader, natWord]

theorem State.reported_none : s.reported 0 0 = s := by simp [State.reported]

/-- The report of one refused and of one clamped word in the words of `State.reported`. -/
theorem State.reported_refused : s.enqueue .command [16400#16] = s.reported 1 0 := by
  simp [State.reported, State.enqueue]
theorem State.reported_clamped : s.enqueue .command [16385#16] = s.reported 0 1 := by
  simp [State.reported, State.enqueue]

end Sys2Proof.Machine
end

