-- ==== Sys2Proof/Laws/Ops.lean ====
section
/-! SUPPORT. What the shared operations leave alone: for each, one lemma that lists the fields of the state it
does not touch, then the same for what it leaves of a lane; and the spec lemmas of the checked read. -/

namespace Sys2Proof.Machine

variable (s : State) (l k : Lane) (n : SetNo)

/-! ## Fields of the whole state -/

@[simp] theorem State.releaseHolds_outside :
    (s.releaseHolds).pending = s.pending
      ∧ (s.releaseHolds).cond = s.cond
      ∧ (s.releaseHolds).decoder = s.decoder
      ∧ (s.releaseHolds).responses = s.responses
      ∧ (s.releaseHolds).link = s.link
      ∧ (s.releaseHolds).ports = s.ports
      ∧ (s.releaseHolds).lane0 = s.lane0
      ∧ (s.releaseHolds).lane1 = s.lane1
      ∧ (s.releaseHolds).transfer = s.transfer
      ∧ (s.releaseHolds).notices = s.notices
      ∧ (s.releaseHolds).counters = s.counters := by
  simp [State.releaseHolds]

@[simp] theorem State.clampSet_outside :
    (s.clampSet n).pending = s.pending
      ∧ (s.clampSet n).cond = s.cond
      ∧ (s.clampSet n).decoder = s.decoder
      ∧ (s.clampSet n).responses = s.responses
      ∧ (s.clampSet n).link = s.link
      ∧ (s.clampSet n).ports = s.ports
      ∧ (s.clampSet n).lane0 = s.lane0
      ∧ (s.clampSet n).lane1 = s.lane1
      ∧ (s.clampSet n).transfer = s.transfer
      ∧ (s.clampSet n).notices = s.notices
      ∧ (s.clampSet n).counters = s.counters := by
  simp [State.clampSet]

@[simp] theorem State.completeCopy_outside :
    (s.completeCopy n).pending = s.pending
      ∧ (s.completeCopy n).cond = s.cond
      ∧ (s.completeCopy n).decoder = s.decoder
      ∧ (s.completeCopy n).responses = s.responses
      ∧ (s.completeCopy n).link = s.link
      ∧ (s.completeCopy n).ports = s.ports
      ∧ (s.completeCopy n).lane0 = s.lane0
      ∧ (s.completeCopy n).lane1 = s.lane1
      ∧ (s.completeCopy n).transfer = s.transfer
      ∧ (s.completeCopy n).notices = s.notices
      ∧ (s.completeCopy n).counters = s.counters := by
  simp [State.completeCopy]

@[simp] theorem State.finishCopy_outside (o : TransferOutcome) :
    (s.finishCopy o).pending = s.pending
      ∧ (s.finishCopy o).cond = s.cond
      ∧ (s.finishCopy o).decoder = s.decoder
      ∧ (s.finishCopy o).responses = s.responses
      ∧ (s.finishCopy o).link = s.link
      ∧ (s.finishCopy o).ports = s.ports
      ∧ (s.finishCopy o).lane0 = s.lane0
      ∧ (s.finishCopy o).lane1 = s.lane1
      ∧ (s.finishCopy o).transfer = s.transfer
      ∧ (s.finishCopy o).notices = s.notices
      ∧ (s.finishCopy o).counters = s.counters := by
  unfold State.finishCopy; split <;> simp

@[simp] theorem State.endTransfer_outside (o : TransferOutcome) :
    (s.endTransfer o).pending = s.pending
      ∧ (s.endTransfer o).cond = s.cond
      ∧ (s.endTransfer o).decoder = s.decoder
      ∧ (s.endTransfer o).responses = s.responses
      ∧ (s.endTransfer o).link = s.link
      ∧ (s.endTransfer o).ports = s.ports
      ∧ (s.endTransfer o).lane0 = s.lane0
      ∧ (s.endTransfer o).lane1 = s.lane1
      ∧ (s.endTransfer o).counters = s.counters := by
  simp [State.endTransfer]

@[simp] theorem State.dropCurrent_outside :
    (s.dropCurrent l).pending = s.pending
      ∧ (s.dropCurrent l).cond = s.cond
      ∧ (s.dropCurrent l).decoder = s.decoder
      ∧ (s.dropCurrent l).responses = s.responses
      ∧ (s.dropCurrent l).link = s.link
      ∧ (s.dropCurrent l).ports = s.ports
      ∧ (s.dropCurrent l).bank = s.bank
      ∧ (s.dropCurrent l).transfer = s.transfer
      ∧ (s.dropCurrent l).notices = s.notices
      ∧ (s.dropCurrent l).counters = s.counters := by
  simp [State.dropCurrent]

@[simp] theorem State.dropCurrentIf_outside :
    (s.dropCurrentIf n l).pending = s.pending
      ∧ (s.dropCurrentIf n l).cond = s.cond
      ∧ (s.dropCurrentIf n l).decoder = s.decoder
      ∧ (s.dropCurrentIf n l).responses = s.responses
      ∧ (s.dropCurrentIf n l).link = s.link
      ∧ (s.dropCurrentIf n l).ports = s.ports
      ∧ (s.dropCurrentIf n l).bank = s.bank
      ∧ (s.dropCurrentIf n l).transfer = s.transfer
      ∧ (s.dropCurrentIf n l).notices = s.notices
      ∧ (s.dropCurrentIf n l).counters = s.counters := by
  unfold State.dropCurrentIf; split <;> simp

@[simp] theorem State.sourceQuarantined_outside :
    (s.sourceQuarantined n).pending = s.pending
      ∧ (s.sourceQuarantined n).cond = s.cond
      ∧ (s.sourceQuarantined n).decoder = s.decoder
      ∧ (s.sourceQuarantined n).responses = s.responses
      ∧ (s.sourceQuarantined n).link = s.link
      ∧ (s.sourceQuarantined n).ports = s.ports
      ∧ (s.sourceQuarantined n).lane0 = s.lane0
      ∧ (s.sourceQuarantined n).lane1 = s.lane1
      ∧ (s.sourceQuarantined n).counters = s.counters := by
  unfold State.sourceQuarantined; split <;> (try split) <;> simp

@[simp] theorem State.sourceReady_outside :
    (s.sourceReady n).pending = s.pending
      ∧ (s.sourceReady n).cond = s.cond
      ∧ (s.sourceReady n).decoder = s.decoder
      ∧ (s.sourceReady n).responses = s.responses
      ∧ (s.sourceReady n).link = s.link
      ∧ (s.sourceReady n).ports = s.ports
      ∧ (s.sourceReady n).lane0 = s.lane0
      ∧ (s.sourceReady n).lane1 = s.lane1
      ∧ (s.sourceReady n).bank = s.bank
      ∧ (s.sourceReady n).notices = s.notices
      ∧ (s.sourceReady n).counters = s.counters := by
  unfold State.sourceReady; split <;> simp

@[simp] theorem State.quarantine_outside :
    (s.quarantine n).pending = s.pending
      ∧ (s.quarantine n).cond = s.cond
      ∧ (s.quarantine n).decoder = s.decoder
      ∧ (s.quarantine n).responses = s.responses
      ∧ (s.quarantine n).link = s.link
      ∧ (s.quarantine n).ports = s.ports
      ∧ (s.quarantine n).counters = s.counters := by
  simp [State.quarantine]

@[simp] theorem State.correctWord_outside (w : Nat) (v : Word) :
    (s.correctWord n w v).pending = s.pending
      ∧ (s.correctWord n w v).cond = s.cond
      ∧ (s.correctWord n w v).decoder = s.decoder
      ∧ (s.correctWord n w v).responses = s.responses
      ∧ (s.correctWord n w v).link = s.link
      ∧ (s.correctWord n w v).ports = s.ports
      ∧ (s.correctWord n w v).lane0 = s.lane0
      ∧ (s.correctWord n w v).lane1 = s.lane1
      ∧ (s.correctWord n w v).transfer = s.transfer := by
  simp [State.correctWord]

@[simp] theorem State.doubleError_outside :
    (s.doubleError n).pending = s.pending
      ∧ (s.doubleError n).cond = s.cond
      ∧ (s.doubleError n).decoder = s.decoder
      ∧ (s.doubleError n).responses = s.responses
      ∧ (s.doubleError n).link = s.link
      ∧ (s.doubleError n).ports = s.ports := by
  unfold State.doubleError; split <;> simp

@[simp] theorem State.readWord_outside (w : Nat) :
    ((s.readWord n w).1).pending = s.pending
      ∧ ((s.readWord n w).1).cond = s.cond
      ∧ ((s.readWord n w).1).decoder = s.decoder
      ∧ ((s.readWord n w).1).responses = s.responses
      ∧ ((s.readWord n w).1).link = s.link
      ∧ ((s.readWord n w).1).ports = s.ports := by
  unfold State.readWord; split <;> simp

@[simp] theorem State.readUntilDouble_outside (ws : List Nat) :
    ((s.readUntilDouble n ws).1).pending = s.pending
      ∧ ((s.readUntilDouble n ws).1).cond = s.cond
      ∧ ((s.readUntilDouble n ws).1).decoder = s.decoder
      ∧ ((s.readUntilDouble n ws).1).responses = s.responses
      ∧ ((s.readUntilDouble n ws).1).link = s.link
      ∧ ((s.readUntilDouble n ws).1).ports = s.ports := by
  induction ws generalizing s with
  | nil => simp [State.readUntilDouble]
  | cons w ws ih =>
    have h := s.readWord_outside n w
    unfold State.readUntilDouble
    split <;> rename_i e <;> simp only [e] at h
    · simpa using h
    · have h2 := ih (s.readWord n w).1
      rw [e] at h2
      split <;> rename_i e2 <;> simp_all

@[simp] theorem State.readAll_outside (ws : List Nat) :
    ((s.readAll n ws).1).pending = s.pending
      ∧ ((s.readAll n ws).1).cond = s.cond
      ∧ ((s.readAll n ws).1).decoder = s.decoder
      ∧ ((s.readAll n ws).1).responses = s.responses
      ∧ ((s.readAll n ws).1).link = s.link
      ∧ ((s.readAll n ws).1).ports = s.ports := by
  induction ws generalizing s with
  | nil => simp [State.readAll]
  | cons w ws ih => simp [State.readAll, ih]

@[simp] theorem State.releaseCurrent_outside :
    (s.releaseCurrent l).pending = s.pending
      ∧ (s.releaseCurrent l).cond = s.cond
      ∧ (s.releaseCurrent l).decoder = s.decoder
      ∧ (s.releaseCurrent l).responses = s.responses
      ∧ (s.releaseCurrent l).link = s.link
      ∧ (s.releaseCurrent l).ports = s.ports
      ∧ (s.releaseCurrent l).transfer = s.transfer
      ∧ (s.releaseCurrent l).notices = s.notices
      ∧ (s.releaseCurrent l).counters = s.counters := by
  unfold State.releaseCurrent; simp only [State.dropCurrent_outside]; split <;> (try split) <;> simp

@[simp] theorem State.cancelWindow_outside :
    (s.cancelWindow l).pending = s.pending
      ∧ (s.cancelWindow l).cond = s.cond
      ∧ (s.cancelWindow l).decoder = s.decoder
      ∧ (s.cancelWindow l).responses = s.responses
      ∧ (s.cancelWindow l).link = s.link
      ∧ (s.cancelWindow l).ports = s.ports
      ∧ (s.cancelWindow l).bank = s.bank
      ∧ (s.cancelWindow l).transfer = s.transfer
      ∧ (s.cancelWindow l).counters = s.counters := by
  unfold State.cancelWindow; split <;> simp

@[simp] theorem State.abortCampaign_outside (d : Nat) :
    (s.abortCampaign l d).pending = s.pending
      ∧ (s.abortCampaign l d).cond = s.cond
      ∧ (s.abortCampaign l d).decoder = s.decoder
      ∧ (s.abortCampaign l d).responses = s.responses
      ∧ (s.abortCampaign l d).link = s.link
      ∧ (s.abortCampaign l d).ports = s.ports
      ∧ (s.abortCampaign l d).bank = s.bank
      ∧ (s.abortCampaign l d).transfer = s.transfer
      ∧ (s.abortCampaign l d).counters = s.counters := by
  unfold State.abortCampaign; split <;> simp

@[simp] theorem State.leaveRunning_outside (d : Nat) (m : LaneMode) :
    (s.leaveRunning l d m).pending = s.pending
      ∧ (s.leaveRunning l d m).cond = s.cond
      ∧ (s.leaveRunning l d m).decoder = s.decoder
      ∧ (s.leaveRunning l d m).responses = s.responses
      ∧ (s.leaveRunning l d m).link = s.link
      ∧ (s.leaveRunning l d m).ports = s.ports
      ∧ (s.leaveRunning l d m).transfer = s.transfer
      ∧ (s.leaveRunning l d m).counters = s.counters := by
  simp [State.leaveRunning]

/-! ## What they leave of a lane -/

@[simp] theorem State.releaseHolds_lane : (s.releaseHolds).lane k = s.lane k := by cases k <;> simp [State.lane]

@[simp] theorem State.clampSet_lane : (s.clampSet n).lane k = s.lane k := by cases k <;> simp [State.lane]

@[simp] theorem State.completeCopy_lane : (s.completeCopy n).lane k = s.lane k := by cases k <;> simp [State.lane]

@[simp] theorem State.finishCopy_lane (o : TransferOutcome) : (s.finishCopy o).lane k = s.lane k := by cases k <;> simp [State.lane]

@[simp] theorem State.endTransfer_lane (o : TransferOutcome) : (s.endTransfer o).lane k = s.lane k := by cases k <;> simp [State.lane]

@[simp] theorem State.sourceQuarantined_lane : (s.sourceQuarantined n).lane k = s.lane k := by cases k <;> simp [State.lane]

@[simp] theorem State.sourceReady_lane : (s.sourceReady n).lane k = s.lane k := by cases k <;> simp [State.lane]

@[simp] theorem State.correctWord_lane (w : Nat) (v : Word) : (s.correctWord n w v).lane k = s.lane k := by cases k <;> simp [State.lane]

@[simp] theorem State.dropCurrent_lane :
    ((s.dropCurrent l).lane k).reference = (s.lane k).reference
      ∧ ((s.dropCurrent l).lane k).campaign = (s.lane k).campaign
      ∧ ((s.dropCurrent l).lane k).control = (s.lane k).control
      ∧ ((s.dropCurrent l).lane k).counters = (s.lane k).counters
      ∧ ((s.dropCurrent l).lane k).selection.map = (s.lane k).selection.map
      ∧ ((s.dropCurrent l).lane k).selection.fallback = (s.lane k).selection.fallback
      ∧ ((s.dropCurrent l).lane k).selection.band = (s.lane k).selection.band
      ∧ ((s.dropCurrent l).lane k).filter.saturationRun = (s.lane k).filter.saturationRun
      ∧ ((s.dropCurrent l).lane k).adapt.mode = (s.lane k).adapt.mode
      ∧ ((s.dropCurrent l).lane k).adapt.pesGate = (s.lane k).adapt.pesGate
      ∧ ((s.dropCurrent l).lane k).adapt.window = (s.lane k).adapt.window := by
  rcases Lane.eq_or_other k l with rfl | rfl <;> simp [State.dropCurrent]

@[simp] theorem State.dropCurrentIf_lane :
    ((s.dropCurrentIf n l).lane k).reference = (s.lane k).reference
      ∧ ((s.dropCurrentIf n l).lane k).campaign = (s.lane k).campaign
      ∧ ((s.dropCurrentIf n l).lane k).control = (s.lane k).control
      ∧ ((s.dropCurrentIf n l).lane k).counters = (s.lane k).counters
      ∧ ((s.dropCurrentIf n l).lane k).selection.map = (s.lane k).selection.map
      ∧ ((s.dropCurrentIf n l).lane k).selection.fallback = (s.lane k).selection.fallback
      ∧ ((s.dropCurrentIf n l).lane k).selection.band = (s.lane k).selection.band
      ∧ ((s.dropCurrentIf n l).lane k).filter.saturationRun = (s.lane k).filter.saturationRun
      ∧ ((s.dropCurrentIf n l).lane k).adapt.mode = (s.lane k).adapt.mode
      ∧ ((s.dropCurrentIf n l).lane k).adapt.pesGate = (s.lane k).adapt.pesGate
      ∧ ((s.dropCurrentIf n l).lane k).adapt.window = (s.lane k).adapt.window := by
  unfold State.dropCurrentIf; split <;> simp

@[simp] theorem State.quarantine_lane :
    ((s.quarantine n).lane k).reference = (s.lane k).reference
      ∧ ((s.quarantine n).lane k).campaign = (s.lane k).campaign
      ∧ ((s.quarantine n).lane k).control = (s.lane k).control
      ∧ ((s.quarantine n).lane k).counters = (s.lane k).counters
      ∧ ((s.quarantine n).lane k).selection.map = (s.lane k).selection.map
      ∧ ((s.quarantine n).lane k).selection.fallback = (s.lane k).selection.fallback
      ∧ ((s.quarantine n).lane k).selection.band = (s.lane k).selection.band
      ∧ ((s.quarantine n).lane k).filter.saturationRun = (s.lane k).filter.saturationRun
      ∧ ((s.quarantine n).lane k).adapt.mode = (s.lane k).adapt.mode
      ∧ ((s.quarantine n).lane k).adapt.pesGate = (s.lane k).adapt.pesGate
      ∧ ((s.quarantine n).lane k).adapt.window = (s.lane k).adapt.window := by
  simp [State.quarantine]

/-- The counters of storage errors aside, a double error in a set does what its state asks for (R36). -/
theorem State.doubleError_eq :
    s.doubleError n =
      (let s1 : State := { s with counters := { s.counters with storageError := raised s.counters.storageError 1 } }
       match (s.record n).state with
       | .free => s1
       | .quarantined => s1.notify .setQuarantined none n.val
       | _ => s1.quarantine n) := rfl

/-- Replacing the part-wide counters leaves every lane. -/
@[simp] theorem State.withCounters_lane (c : PartCounters) : State.lane { s with counters := c } k = s.lane k := by
  cases k <;> rfl
@[simp] theorem State.withTransfer_lane (t : Transfer) : State.lane { s with transfer := t } k = s.lane k := by
  cases k <;> rfl
@[simp] theorem State.withBank_lane (b : Bank) : State.lane { s with bank := b } k = s.lane k := by
  cases k <;> rfl
@[simp] theorem State.withCond_lane (c : Conditioner) : State.lane { s with cond := c } k = s.lane k := by
  cases k <;> rfl
@[simp] theorem State.withDecoder_lane (d : Decoder) : State.lane { s with decoder := d } k = s.lane k := by
  cases k <;> rfl
@[simp] theorem State.withNotices_lane (q : NoticeQueue) : State.lane { s with notices := q } k = s.lane k := by
  cases k <;> rfl


@[simp] theorem State.doubleError_lane :
    ((s.doubleError n).lane k).reference = (s.lane k).reference
      ∧ ((s.doubleError n).lane k).campaign = (s.lane k).campaign
      ∧ ((s.doubleError n).lane k).control = (s.lane k).control
      ∧ ((s.doubleError n).lane k).counters = (s.lane k).counters
      ∧ ((s.doubleError n).lane k).selection.map = (s.lane k).selection.map
      ∧ ((s.doubleError n).lane k).selection.fallback = (s.lane k).selection.fallback
      ∧ ((s.doubleError n).lane k).selection.band = (s.lane k).selection.band
      ∧ ((s.doubleError n).lane k).filter.saturationRun = (s.lane k).filter.saturationRun
      ∧ ((s.doubleError n).lane k).adapt.mode = (s.lane k).adapt.mode
      ∧ ((s.doubleError n).lane k).adapt.pesGate = (s.lane k).adapt.pesGate
      ∧ ((s.doubleError n).lane k).adapt.window = (s.lane k).adapt.window := by
  unfold State.doubleError; split <;> simp

@[simp] theorem State.readWord_lane (w : Nat) :
    (((s.readWord n w).1).lane k).reference = (s.lane k).reference
      ∧ (((s.readWord n w).1).lane k).campaign = (s.lane k).campaign
      ∧ (((s.readWord n w).1).lane k).control = (s.lane k).control
      ∧ (((s.readWord n w).1).lane k).counters = (s.lane k).counters
      ∧ (((s.readWord n w).1).lane k).selection.map = (s.lane k).selection.map
      ∧ (((s.readWord n w).1).lane k).selection.fallback = (s.lane k).selection.fallback
      ∧ (((s.readWord n w).1).lane k).selection.band = (s.lane k).selection.band
      ∧ (((s.readWord n w).1).lane k).filter.saturationRun = (s.lane k).filter.saturationRun
      ∧ (((s.readWord n w).1).lane k).adapt.mode = (s.lane k).adapt.mode
      ∧ (((s.readWord n w).1).lane k).adapt.pesGate = (s.lane k).adapt.pesGate
      ∧ (((s.readWord n w).1).lane k).adapt.window = (s.lane k).adapt.window := by
  unfold State.readWord; split <;> simp

@[simp] theorem State.readUntilDouble_lane (ws : List Nat) :
    (((s.readUntilDouble n ws).1).lane k).reference = (s.lane k).reference
      ∧ (((s.readUntilDouble n ws).1).lane k).campaign = (s.lane k).campaign
      ∧ (((s.readUntilDouble n ws).1).lane k).control = (s.lane k).control
      ∧ (((s.readUntilDouble n ws).1).lane k).counters = (s.lane k).counters
      ∧ (((s.readUntilDouble n ws).1).lane k).selection.map = (s.lane k).selection.map
      ∧ (((s.readUntilDouble n ws).1).lane k).selection.fallback = (s.lane k).selection.fallback
      ∧ (((s.readUntilDouble n ws).1).lane k).selection.band = (s.lane k).selection.band
      ∧ (((s.readUntilDouble n ws).1).lane k).filter.saturationRun = (s.lane k).filter.saturationRun
      ∧ (((s.readUntilDouble n ws).1).lane k).adapt.mode = (s.lane k).adapt.mode
      ∧ (((s.readUntilDouble n ws).1).lane k).adapt.pesGate = (s.lane k).adapt.pesGate
      ∧ (((s.readUntilDouble n ws).1).lane k).adapt.window = (s.lane k).adapt.window := by
  induction ws generalizing s with
  | nil => simp [State.readUntilDouble]
  | cons w ws ih =>
    have h := s.readWord_lane k n w
    unfold State.readUntilDouble
    split <;> rename_i e <;> simp only [e] at h
    · simpa using h
    · have h2 := ih (s.readWord n w).1
      rw [e] at h2
      split <;> rename_i e2 <;> simp_all

@[simp] theorem State.readAll_lane (ws : List Nat) :
    (((s.readAll n ws).1).lane k).reference = (s.lane k).reference
      ∧ (((s.readAll n ws).1).lane k).campaign = (s.lane k).campaign
      ∧ (((s.readAll n ws).1).lane k).control = (s.lane k).control
      ∧ (((s.readAll n ws).1).lane k).counters = (s.lane k).counters
      ∧ (((s.readAll n ws).1).lane k).selection.map = (s.lane k).selection.map
      ∧ (((s.readAll n ws).1).lane k).selection.fallback = (s.lane k).selection.fallback
      ∧ (((s.readAll n ws).1).lane k).selection.band = (s.lane k).selection.band
      ∧ (((s.readAll n ws).1).lane k).filter.saturationRun = (s.lane k).filter.saturationRun
      ∧ (((s.readAll n ws).1).lane k).adapt.mode = (s.lane k).adapt.mode
      ∧ (((s.readAll n ws).1).lane k).adapt.pesGate = (s.lane k).adapt.pesGate
      ∧ (((s.readAll n ws).1).lane k).adapt.window = (s.lane k).adapt.window := by
  induction ws generalizing s with
  | nil => simp [State.readAll]
  | cons w ws ih => simp [State.readAll, ih]


/-! ## What they do to the sets and to a lane -/

/-- What any set's record is after a lane's current set is released (R27, R52). -/
theorem State.releaseCurrent_record (m : SetNo) :
    (s.releaseCurrent l).record m =
      if (s.lane l).selection.current = some m ∧ (s.record m).state = .live then { s.record m with state := .ready }
      else s.record m := by
  have hd : ∀ t : State, (t.dropCurrent l).record m = t.record m := fun t => by simp [State.record]
  unfold State.releaseCurrent
  rw [hd]
  rcases hc : (s.lane l).selection.current with - | c
  · simp
  · by_cases hmc : m = c
    · subst hmc
      by_cases hl : (s.record m).state = .live <;> simp [hl, State.setSetState_record]
    · have : ¬ c = m := fun h => hmc h.symm
      by_cases hl : (s.record c).state = .live <;> simp [hl, State.setSetState_record, hmc, this]

/-- The release of a current set changes no word of the bank. -/
@[simp] theorem State.releaseCurrent_words : (s.releaseCurrent l).bank.words = s.bank.words := by
  unfold State.releaseCurrent
  rw [(State.dropCurrent_outside _ _).2.2.2.2.2.2.1]
  split <;> (try split) <;> rfl

/-- A lane whose current set is released: no current set, no route, held correction 0, no shadow, divergence
count 0 (R51, R58, R90). -/
@[simp] theorem State.dropCurrent_lane_self :
    (s.dropCurrent l).lane l =
      { s.lane l with
        selection := { (s.lane l).selection with current := none, route := .none }
        filter := { (s.lane l).filter with held := 0 }
        adapt := { (s.lane l).adapt with shadow := none, divergence := 0 } } := by
  cases l <;> rfl
@[simp] theorem State.dropCurrent_lane_other : (s.dropCurrent l).lane l.other = s.lane l.other := by cases l <;> rfl

theorem State.releaseCurrent_lane : (s.releaseCurrent l).lane k = (s.dropCurrent l).lane k := by
  unfold State.releaseCurrent
  simp only [State.dropCurrent]
  split <;> (try split) <;> cases l <;> cases k <;> rfl

end Sys2Proof.Machine
end

