-- ==== Sys2Proof/Laws/Decoder.lean ====
section
/-! SUPPORT. The Command Decoder: the fields of a command word, and what a management frame of one command, or
of one data word, makes of the state. -/

namespace Sys2Proof.Machine

variable (s : State) (l : Lane)

@[simp] theorem Lane.ofBit_toBit : Lane.ofBit l.toBit = l := by cases l <;> rfl

/-- The fields of a command word are the ones it was built from (R142). -/
@[simp] theorem commandFields_commandWord (code : BitVec 6) (imm : BitVec 9) :
    commandFields (commandWord code l imm) = ⟨code, l, imm⟩ := by
  have hc : (commandWord code l imm).extractLsb' 10 6 = code := by
    ext i hi
    rw [BitVec.getElem_extractLsb', commandWord, BitVec.getLsbD_append, if_neg (by omega), BitVec.getLsbD_append,
      if_neg (by omega), show 10 + i - 9 - 1 = i by omega, BitVec.getLsbD_eq_getElem hi]
  have hl : (commandWord code l imm).getLsbD 9 = l.toBit := by
    rw [commandWord, BitVec.getLsbD_append, if_neg (by omega), BitVec.getLsbD_append, if_pos (by omega)]
    simp
  have hi : (commandWord code l imm).extractLsb' 0 9 = imm := by
    ext i hi
    rw [BitVec.getElem_extractLsb', commandWord, BitVec.getLsbD_append, if_pos (by omega), Nat.zero_add,
      BitVec.getLsbD_eq_getElem hi]
  rw [commandFields, hc, hl, hi, Lane.ofBit_toBit]

@[simp] theorem State.report_none : s.report ⟨0, 0⟩ = s := by simp [State.report]

@[simp] theorem State.takeData_nil : s.takeData [] = s := by simp [State.takeData, State.offerAll]

/-- A frame of one command that takes no argument, with none pending and room for its header, is that command's
execution (R144, R145, R147). -/
theorem State.command_bare {s : State} (hc : s.decoder.command = none) (hr : s.responses.length + 1 ≤ 32)
    (code : BitVec 6) (ha : argCount code = 0) (imm : BitVec 9) :
    s.command code l imm [] = s.execCommand ⟨code, l, imm⟩ [] 0 false := by
  have hg : ¬ s.freeRoom < headerNeed [commandWord code l imm] [] := by
    simp [State.freeRoom, headerNeed]; omega
  unfold State.command State.manage
  rw [if_neg hg]
  simp only [State.takeWords, State.takeWord, hc, commandFields_commandWord, ha, List.length_nil, List.isEmpty_nil,
    Bool.not_true, if_true]
  cases decide (code = partResetCode) <;> simp

/-- A frame of one command with its one argument, with none pending and room for two headers (R147). -/
theorem State.command_one {s : State} (hc : s.decoder.command = none) (hr : s.responses.length + 2 ≤ 32)
    (code : BitVec 6) (ha : argCount code = 1) (imm : BitVec 9) (a : Word) :
    s.command code l imm [a] = s.clearCommand.execCommand ⟨code, l, imm⟩ [a] 0 false := by
  have hg : ¬ s.freeRoom < headerNeed [commandWord code l imm, a] [] := by
    simp [State.freeRoom, headerNeed]; omega
  unfold State.command State.manage
  rw [if_neg hg]
  simp only [State.takeWords, State.takeWord, hc, commandFields_commandWord, ha, List.length_nil, List.isEmpty_nil,
    Bool.not_true, Nat.one_ne_zero, if_false, State.holdCommand, State.clearCommand, List.length_cons, Nat.zero_add,
    Nat.le_refl, if_true, List.nil_append]
  simp

/-- A frame of one command with its two arguments, with none pending and room for three headers (R147). -/
theorem State.command_two {s : State} (hc : s.decoder.command = none) (hr : s.responses.length + 3 ≤ 32)
    (code : BitVec 6) (ha : argCount code = 2) (imm : BitVec 9) (a b : Word) :
    s.command code l imm [a, b] = s.clearCommand.execCommand ⟨code, l, imm⟩ [a, b] 0 false := by
  have hg : ¬ s.freeRoom < headerNeed [commandWord code l imm, a, b] [] := by
    simp [State.freeRoom, headerNeed]; omega
  unfold State.command State.manage
  rw [if_neg hg]
  simp [State.takeWords, State.takeWord, hc, ha, State.holdCommand, State.clearCommand]

/-- A command that carries no data words executes by its own rule (R157). -/
theorem State.execCommand_served (f : CommandFields) (args : List Word) (following : Nat) (hasData : Bool)
    (h : s.dataNeed f ≤ s.roomAvailable following hasData) :
    s.execCommand f args following hasData =
      (s.runCommand f args (s.roomAvailable following hasData)).1.respond f.code
        (s.runCommand f args (s.roomAvailable following hasData)).2 := by
  simp only [State.execCommand]; rw [if_neg (by omega)]

/-- A command whose data words would not fit answers FULL with a header alone (R157). -/
theorem State.execCommand_full (f : CommandFields) (args : List Word) (following : Nat) (hasData : Bool)
    (h : s.roomAvailable following hasData < s.dataNeed f) :
    s.execCommand f args following hasData = s.respond f.code (.bare .full) := by
  simp only [State.execCommand]; rw [if_pos h]

/-- A frame of one data word at its owner, with room for a report (R144, R152). -/
theorem State.manageWrite_eq {s : State} (hr : s.responses.length + 1 ≤ 32) (r : State × WriteOutcome) :
    s.manageWrite r = r.1.report (Tally.count ⟨0, 0⟩ r.2) := by
  unfold State.manageWrite
  rw [if_neg (by simp [State.freeRoom]; omega)]

/-- What a frame of one data word queues: nothing when it was stored, else a report of one (R152). -/
@[simp] theorem State.report_stored : s.report (Tally.count ⟨0, 0⟩ .stored) = s := by simp [Tally.count]
@[simp] theorem State.report_refused (e : Result) :
    s.report (Tally.count ⟨0, 0⟩ (.refused e)) = s.enqueue .command [16400#16] := by
  simp [Tally.count, State.report, dataReportHeader, natWord]
@[simp] theorem State.report_clamped : s.report (Tally.count ⟨0, 0⟩ .clamped) = s.enqueue .command [16385#16] := by
  simp [Tally.count, State.report, dataReportHeader, natWord]

end Sys2Proof.Machine
end

