-- ==== Sys2Proof/Laws/Sets.lean ====
section
/-! SUPPORT. What each shared operation over the sets does, said once: the checked read and its two consequences, a
set's quarantine, the end of a transfer and the commit clamping, and a lane's departure from RUNNING. -/

namespace Sys2Proof.Machine

variable (s : State) (l k : Lane) (n m : SetNo)

/-! ## The checked read (R35, R36) -/

theorem Cell.finding_clean {c : Cell} (h : c.flipped = []) : c.finding = .clean c.value := by simp [Cell.finding, h]

theorem Cell.finding_single {c : Cell} (h : c.flipped.length = 1) : c.finding = .single c.value := by
  obtain ⟨p, hp⟩ := List.length_eq_one_iff.mp h; simp [Cell.finding, hp]

theorem Cell.finding_double {c : Cell} (h : 2 ≤ c.flipped.length) : c.finding = .double := by
  unfold Cell.finding; split <;> simp_all

/-- A read of a clean word changes nothing. -/
theorem State.readWord_clean {s : State} {n : SetNo} {w : Nat} (h : (s.cell n w).flipped = []) :
    s.readWord n w = (s, some (s.cell n w).value) := by simp [State.readWord, Cell.finding_clean h]

/-- A read of a word with a single error corrects it. -/
theorem State.readWord_single {s : State} {n : SetNo} {w : Nat} (h : (s.cell n w).flipped.length = 1) :
    s.readWord n w = (s.correctWord n w (s.cell n w).value, some (s.cell n w).value) := by
  simp [State.readWord, Cell.finding_single h]

/-- A read of a word with a double error gives no value. -/
theorem State.readWord_double {s : State} {n : SetNo} {w : Nat} (h : 2 ≤ (s.cell n w).flipped.length) :
    s.readWord n w = (s.doubleError n, none) := by simp [State.readWord, Cell.finding_double h]

/-- Clean words are read in order and nothing changes. -/
theorem State.readUntilDouble_clean {s : State} {n : SetNo} {ws : List Nat} (h : ∀ w ∈ ws, (s.cell n w).flipped = []) :
    s.readUntilDouble n ws = (s, some (ws.map fun w => (s.cell n w).value)) := by
  induction ws with
  | nil => rfl
  | cons w ws ih =>
    have h0 := h w (by simp)
    have h1 := ih fun v hv => h v (by simp [hv])
    simp [State.readUntilDouble, State.readWord_clean h0, h1]

theorem State.readAll_clean {s : State} {n : SetNo} {ws : List Nat} (h : ∀ w ∈ ws, (s.cell n w).flipped = []) :
    s.readAll n ws = (s, ws.map fun w => some (s.cell n w).value) := by
  induction ws with
  | nil => rfl
  | cons w ws ih =>
    have h0 := h w (by simp)
    have h1 := ih fun v hv => h v (by simp [hv])
    simp [State.readAll, State.readWord_clean h0, h1]

/-- A correction writes one word back, counts it and queues its notice, and does nothing else (R35). -/
theorem State.correctWord_eq (w : Nat) (v : Word) :
    s.correctWord n w v =
      { s with
        bank := { s.bank with words := Memory.write Cell.zero s.bank.words (wordAddr n w) { value := v, flipped := [] } }
        notices := s.notices.add .storageCorrected none n.val
        counters := { s.counters with storageCorrection := raised s.counters.storageCorrection 1 } } := (rfl)

/-- A counter raised once, then `k` times. -/
theorem raisedBy_one (c k : Nat) : raisedBy (raised c 1) k = raisedBy c (k + 1) := by
  simp only [raisedBy, raised, Config.counterMax]; split <;> simp <;> omega

/-- Words of a set that hold single errors at most are read in order: each single error is corrected, counted and
reported, and nothing else changes (R35, R61, R76). -/
theorem State.readUntilDouble_corrected {s : State} {n : SetNo} {ws : List Nat} (hs : s.bankWf) (hd : ws.Nodup)
    (h : ∀ w ∈ ws, (s.cell n w).flipped.length ≤ 1) :
    let cs := ws.map (s.cell n)
    ∃ words : List (Nat × Cell), Memory.wf Cell.zero words = true
      ∧ s.readUntilDouble n ws =
        ({ s with
            bank := { s.bank with words := words }
            notices := s.notices.afterReads n false cs
            counters :=
              { s.counters with storageCorrection := raisedBy s.counters.storageCorrection (singles cs) } },
          some (cs.map Cell.value))
      ∧ ∀ a : Nat, Memory.read Cell.zero words a =
          if ∃ w ∈ ws, a = n.val * 64 + w then (s.bankAt a).afterRead else s.bankAt a := by
  induction ws generalizing s with
  | nil => exact ⟨s.bank.words, hs, by simp [State.readUntilDouble, NoticeQueue.afterReads, singles, raisedBy], by simp [State.bankAt]⟩
  | cons w ws ih =>
    obtain ⟨hw, hd⟩ := List.nodup_cons.mp hd
    have h0 := h w (by simp)
    rcases Nat.le_one_iff_eq_zero_or_eq_one.mp h0 with h0 | h0
    · obtain ⟨words, wf, e, r⟩ := ih hs hd fun v hv => h v (by simp [hv])
      have h0' : (s.cell n w).flipped = [] := List.length_eq_zero_iff.mp h0
      refine ⟨words, wf, ?_, fun a => ?_⟩
      · simp [State.readUntilDouble, State.readWord_clean h0', e, NoticeQueue.afterReads, singles, h0']
      · rw [r a]
        by_cases ha : a = n.val * 64 + w
        · subst ha
          rw [if_neg (by simpa using hw), if_pos ⟨w, by simp, rfl⟩, State.bankAt_cell]
          simp [Cell.afterRead, h0']
        · simp [ha]
    · have hc : ∀ v ∈ ws, (s.correctWord n w (s.cell n w).value).cell n v = s.cell n v := by
        intro v hv
        have hne : v ≠ w := fun e => hw (e ▸ hv)
        show Memory.read Cell.zero (Memory.write Cell.zero s.bank.words (n.val * 64 + w) _) (n.val * 64 + v) = _
        rw [Memory.read_write hs, if_neg (by omega)]; rfl
      obtain ⟨words, wf, e, r⟩ := ih (s := s.correctWord n w (s.cell n w).value) (Memory.write_wf hs _ _) hd
        fun v hv => by rw [hc v hv]; exact h v (by simp [hv])
      have hm : ws.map ((s.correctWord n w (s.cell n w).value).cell n) = ws.map (s.cell n) :=
        List.map_congr_left hc
      rw [hm] at e
      refine ⟨words, wf, ?_, fun a => ?_⟩
      · simp only [State.readUntilDouble, State.readWord_single h0, e, List.map_cons]
        simp [State.correctWord_eq, NoticeQueue.afterReads, singles, h0, raisedBy_one]
      · have hb : (s.correctWord n w (s.cell n w).value).bankAt a =
            if a = n.val * 64 + w then ⟨(s.cell n w).value, []⟩ else s.bankAt a := Memory.read_write hs _ _ _
        rw [r a, hb]
        by_cases ha : a = n.val * 64 + w
        · subst ha
          rw [if_neg (by simpa using hw), if_pos rfl, if_pos ⟨w, by simp, rfl⟩, State.bankAt_cell]
          simp [Cell.afterRead, h0]
        · simp [ha]

/-- A double error in a word of a FREE set, and of a set that is QUARANTINED already, is counted; the second is
reported again (R36). -/
theorem State.doubleError_free {s : State} {n : SetNo} (h : (s.record n).state = .free) :
    s.doubleError n = { s with counters := { s.counters with storageError := raised s.counters.storageError 1 } } := by
  simp [State.doubleError, h]
theorem State.doubleError_quarantined {s : State} {n : SetNo} (h : (s.record n).state = .quarantined) :
    s.doubleError n =
      { s with
        counters := { s.counters with storageError := raised s.counters.storageError 1 }
        notices := s.notices.add .setQuarantined none n.val } := by
  simp [State.doubleError, h, State.notify]

/-- A double error in a word of any other set quarantines the set (R36). -/
theorem State.doubleError_quarantines {s : State} {n : SetNo} (h : (s.record n).state ≠ .free)
    (h2 : (s.record n).state ≠ .quarantined) :
    s.doubleError n =
      State.quarantine { s with counters := { s.counters with storageError := raised s.counters.storageError 1 } } n := by
  unfold State.doubleError; split <;> simp_all

/-! ## The end of a transfer (R174) -/

@[simp] theorem State.releaseHolds_record : (s.releaseHolds).record m = { s.record m with hold := .none } := by
  simp [State.releaseHolds, State.record]
@[simp] theorem State.releaseHolds_words : (s.releaseHolds).bank.words = s.bank.words := (rfl)
@[simp] theorem State.clampSet_record : (s.clampSet n).record m = s.record m := by simp [State.clampSet]

/-- The commit clamping replaces the 50 words of the set and no other (R25). -/
theorem State.clampSet_bankAt {s : State} (h : s.bankWf) (n : SetNo) (a : Nat) :
    (s.clampSet n).bankAt a =
      if n.val * 64 ≤ a ∧ a < n.val * 64 + 50 then
        { value := commitClamp (s.cell n 8).value (a - n.val * 64) (s.cell n (a - n.val * 64)).value, flipped := [] }
      else s.bankAt a := by
  unfold State.clampSet
  rw [State.writeWords_bankAt h]
  simp only [Config.setWords, Nat.add_zero, List.length_map, List.length_range]
  split
  · rename_i hr
    rw [List.getD_eq_getElem?_getD, List.getElem?_map, List.getElem?_range (by omega)]; rfl
  · rfl

/-- A completed COPY's destination is clamped, unfrozen and READY (R29). -/
theorem State.completeCopy_record :
    (s.completeCopy n).record m =
      if m = n then { s.record n with state := .ready, frozen := false } else s.record m := by
  simp [State.completeCopy, State.onRecord_record]

@[simp] theorem State.completeCopy_bankAt (a : Nat) : (s.completeCopy n).bankAt a = (s.clampSet n).bankAt a :=
  State.onRecord_bankAt (s := s.clampSet n) _ _ _

/-- A transfer that is no completed COPY ends: its holds, its record and its notice, and nothing else (R174). -/
theorem State.endTransfer_eq (o : TransferOutcome) (h : s.transfer.mode ≠ .copy ∨ o ≠ .complete) :
    s.endTransfer o =
      { s with
        bank := s.releaseHolds.bank
        transfer := { s.transfer with state := .done, outcome := some o }
        notices := s.notices.add .transferDone none o.code } := by
  have hf : s.releaseHolds.finishCopy o = s.releaseHolds := by
    unfold State.finishCopy
    split <;> simp_all
  simp only [State.endTransfer, hf]
  simp only [State.notify, State.releaseHolds]

/-- The end of a COPY that is COMPLETE (R174, step 2). -/
theorem State.endTransfer_copy {s : State} {d : SetNo} (h : s.transfer.mode = .copy) (hd : s.transfer.destination = some d) :
    s.endTransfer .complete =
      { s with
        bank := (s.releaseHolds.completeCopy d).bank
        transfer := { s.transfer with state := .done, outcome := some .complete }
        notices := s.notices.add .transferDone none 0 } := by
  have hf : s.releaseHolds.finishCopy .complete = s.releaseHolds.completeCopy d := by
    unfold State.finishCopy; simp [h, hd]
  obtain ⟨a1, a2, a3, a4, a5, a6, a7, a8, a9, a10, a11⟩ := State.completeCopy_outside s.releaseHolds d
  obtain ⟨b1, b2, b3, b4, b5, b6, b7, b8, b9, b10, b11⟩ := State.releaseHolds_outside s
  simp only [State.endTransfer, hf]
  generalize s.releaseHolds.completeCopy d = t at *
  simp only [State.notify, a1, a2, a3, a4, a5, a6, a7, a8, a9, a10, a11, b1, b2, b3, b4, b5, b6, b7, b8, b9, b10, b11,
    TransferOutcome.code]

/-! ## A set's quarantine (R36, R51, R168) -/

/-- No transfer waits on the set: its record is QUARANTINED, its notice is queued, and the lanes lose it. -/
theorem State.quarantine_eq {s : State} {n : SetNo} (h : ¬(s.transfer.state = .waiting ∧ s.transfer.current = some n)) :
    s.quarantine n =
      (((s.setSetState n .quarantined).notify .setQuarantined none n.val).dropCurrentIf n .zero).dropCurrentIf n .one := by
  simp only [State.quarantine]
  unfold State.sourceQuarantined
  rw [if_neg (by simpa [State.setSetState] using h)]

theorem State.quarantine_record {s : State} {n : SetNo} (h : ¬(s.transfer.state = .waiting ∧ s.transfer.current = some n))
    (m : SetNo) :
    (s.quarantine n).record m = if m = n then { s.record n with state := .quarantined } else s.record m := by
  rw [State.quarantine_eq h]
  have : ∀ (t : State) (l : Lane), (t.dropCurrentIf n l).record m = t.record m := fun t l => by simp [State.record]
  rw [this, this]
  exact State.setSetState_record _ _ _ _

/-! ## A lane's departure from RUNNING (R113) -/

/-- What a departure does to the lane: `LaneState.departed`. -/
theorem State.leaveRunning_lane (d : Nat) (next : LaneMode) :
    (s.leaveRunning l d next).lane l = (s.lane l).departed next := by
  have h1 := State.releaseCurrent_lane s l l
  rw [State.dropCurrent_lane_self] at h1
  simp only [State.leaveRunning, State.onControl_lane, State.abortCampaign, State.cancelWindow, LaneState.departed]
  split <;> split <;> simp_all

/-- A departure leaves the other lane alone. -/
theorem State.leaveRunning_other (d : Nat) (next : LaneMode) :
    (s.leaveRunning l d next).lane l.other = s.lane l.other := by
  have h1 := State.releaseCurrent_lane s l l.other
  rw [State.dropCurrent_lane_other] at h1
  simp only [State.leaveRunning, State.abortCampaign, State.cancelWindow]
  split <;> split <;> simp_all

/-- A departure makes the lane's current set READY, if it was LIVE, and changes no other record and no word. -/
theorem State.leaveRunning_record (d : Nat) (next : LaneMode) :
    (s.leaveRunning l d next).record m = s.recordReleased l m := by
  have : (s.leaveRunning l d next).bank = (s.releaseCurrent l).bank := by
    simp only [State.leaveRunning, State.abortCampaign, State.cancelWindow]; split <;> split <;> simp
  simp only [State.record, this]
  exact State.releaseCurrent_record s l m

@[simp] theorem State.leaveRunning_words (d : Nat) (next : LaneMode) :
    (s.leaveRunning l d next).bank.words = s.bank.words := by
  have : (s.leaveRunning l d next).bank = (s.releaseCurrent l).bank := by
    simp only [State.leaveRunning, State.abortCampaign, State.cancelWindow]; split <;> split <;> simp
  rw [this, State.releaseCurrent_words]

/-- The notices of a departure, after the one of its cause. -/
theorem State.leaveRunning_notices (d : Nat) (next : LaneMode) :
    (s.leaveRunning l d next).notices = s.notices.afterDeparture l (s.lane l) d := by
  have h1 := State.releaseCurrent_lane s l l
  rw [State.dropCurrent_lane_self] at h1
  have h2 : (s.releaseCurrent l).notices = s.notices := by simp
  simp only [State.leaveRunning, State.abortCampaign, State.cancelWindow, NoticeQueue.afterDeparture]
  split <;> split <;> simp_all

/-! ## Notices -/

/-- A notice that reaches the queue leaves it with at least one record. -/
theorem NoticeQueue.add_ne_nil (q : NoticeQueue) (kind : NoticeKind) (lane : Option Lane) (detail : Nat) :
    (q.add kind lane detail).records ≠ [] := by
  unfold NoticeQueue.add
  split
  · rename_i h
    rintro h2
    simp only [List.map_eq_nil_iff] at h2
    simp [h2] at h
  · split
    · simp
    · rename_i h; rintro h2; simp only at h2; simp [h2] at h

/-- The Response Queue admits a transfer word when it holds at most 23 of them and at most 31 words (R158). -/
theorem State.admitsTransferWord_iff : s.admitsTransferWord = true ↔ s.transferWords < 24 ∧ s.responses.length < 32 := by
  simp only [State.admitsTransferWord, Bool.and_eq_true, decide_eq_true_eq, Config.transferRoom, Config.responseRoom]
  omega

end Sys2Proof.Machine
end

