-- ==== Sys2Proof/Laws/Frame.lean ====
section
/-! SUPPORT. What the stages of a frame do, said once: the outgoing ports and the reset line, the counting of a servo
frame, the output command, the lane fault, the rollback row's gate, the tally of a frame's data words, and what the
engine's movements leave alone. -/

namespace Sys2Proof.Machine

variable (s : State) (l : Lane) (n : SetNo)

/-! ## The outgoing ports and the reset line (R141) -/

theorem cutLast_append (k : Nat) (before : List (List Word)) (f : List Word) :
    cutLast k (before ++ [f]) = before ++ [f.take k] := by
  induction before with
  | nil => rfl
  | cons g rest ih =>
    cases rest with
    | nil => rfl
    | cons h rest => simpa [cutLast] using ih

@[simp] theorem cutPort_of_none_begun (k : Option Nat) (fs : List (List Word)) : cutPort false k fs = fs := rfl
@[simp] theorem cutPort_whole (b : Bool) (fs : List (List Word)) : cutPort b none fs = fs := by cases b <;> rfl
@[simp] theorem cutPort_append (k : Nat) (before : List (List Word)) (f : List Word) :
    cutPort true (some k) (before ++ [f]) = before ++ [f.take k] := cutLast_append k before f

section
variable (p : Ports) (cut : CutShort)
@[simp] theorem Ports.cut_drive : (p.cut cut).drive = cutPort p.driveBegun cut.drive p.drive := (rfl)
@[simp] theorem Ports.cut_upstream : (p.cut cut).upstream = cutPort p.upstreamBegun cut.upstream p.upstream := (rfl)
@[simp] theorem Ports.cut_driveBegun : (p.cut cut).driveBegun = false := (rfl)
@[simp] theorem Ports.cut_upstreamBegun : (p.cut cut).upstreamBegun = false := (rfl)
end

section
variable (cut : CutShort)
@[simp] theorem State.powerOn_pending : (s.powerOn cut).pending = s.pending := (rfl)
@[simp] theorem State.powerOn_ports : (s.powerOn cut).ports = s.ports.cut cut := (rfl)
@[simp] theorem State.powerOn_bank : (s.powerOn cut).bank = Bank.reset := (rfl)
@[simp] theorem State.powerOn_lane : (s.powerOn cut).lane l = LaneState.reset := by cases l <;> rfl
end

section
variable (e : Echo)
@[simp] theorem State.sendReturn_pending : (s.sendReturn e).pending = s.pending := (rfl)
@[simp] theorem State.sendReturn_bank : (s.sendReturn e).bank = s.bank := (rfl)
@[simp] theorem State.sendReturn_notices : (s.sendReturn e).notices = s.notices := (rfl)
@[simp] theorem State.sendReturn_responses : (s.sendReturn e).responses = s.responses.drop 4 := (rfl)
@[simp] theorem State.sendReturn_driveBegun : (s.sendReturn e).ports.driveBegun = s.ports.driveBegun := (rfl)
@[simp] theorem State.sendReturn_upstreamBegun : (s.sendReturn e).ports.upstreamBegun = true := (rfl)
@[simp] theorem State.sendReturn_lane : (s.sendReturn e).lane l = s.lane l := by cases l <;> rfl
end

@[simp] theorem State.sendDrive_driveBegun (st : OutStatus) (w o : Word) :
    (s.sendDrive l st w o).ports.driveBegun = true := (rfl)

/-! ## The counting of a frame (R134, R148, R168) -/

/-- The argument age touches the decoder and, where it expires, the Notice Queue. -/
theorem State.ageCommand_eq :
    s.ageCommand = { s with decoder := s.ageCommand.decoder, notices := s.ageCommand.notices } := by
  unfold State.ageCommand
  split
  · rfl
  · split <;> rfl

/-- The wait touches the transfer record and, where it times out, the holds and the Notice Queue. -/
theorem State.countWait_eq :
    s.countWait =
      { s with
        transfer := s.countWait.transfer, notices := s.countWait.notices
        bank := { s.bank with records := s.countWait.bank.records } } := by
  unfold State.countWait
  split
  · split <;> simp [State.endTransfer, State.finishCopy, State.releaseHolds, State.notify]
  · rfl

/-- A frame that is counted leaves lanes and Response Queue as they were. -/
@[simp] theorem State.countFrame_outside :
    s.countFrame.pending = s.pending ∧ s.countFrame.cond = s.cond ∧ s.countFrame.lane0 = s.lane0
      ∧ s.countFrame.lane1 = s.lane1 ∧ s.countFrame.responses = s.responses ∧ s.countFrame.counters = s.counters
      ∧ s.countFrame.ports = s.ports := by
  unfold State.countFrame
  rw [State.countWait_eq, State.ageCommand_eq]
  simp

/-! ## The output command and the lane fault (R65, R70, R71) -/

theorem saturated_iff (sum : Int) : saturated sum = true ↔ sum < -32768 ∨ 32767 < sum := by simp [saturated]

/-- Forming the output command touches its lane alone. -/
theorem State.formOutput_eq (sum : Int) : s.formOutput l sum = s.setLane l ((s.formOutput l sum).lane l) := by
  unfold State.formOutput
  split <;> split <;> cases l <;> rfl

theorem State.checkFault_of_run_below {s : State} {l : Lane} (h : (s.lane l).filter.saturationRun < 32) :
    s.checkFault l = s := by
  simp [State.checkFault, Config.saturationLimit, Nat.not_le.mpr h]

/-! ## The rollback row's gate (R33, R75) -/

theorem State.setAdapts_iff :
    s.setAdapts l n = true ↔
      (s.lane l).selection.current = some n ∧ (s.record n).state = .live ∧ (s.record n).frozen = false
        ∧ (s.record n).hold = .none := by
  simp [State.setAdapts, and_assoc]

theorem State.rollbackAllowed_iff :
    s.rollbackAllowed l n = true ↔
      (s.lane l).control.mode = .running ∧ (s.lane l).selection.route = .primary ∧ s.setAdapts l n = true := by
  simp [State.rollbackAllowed, and_assoc]

/-! ## The tally of a frame's data words (R152) -/

theorem Tally.count_refused (t : Tally) (r : Result) :
    t.count (.refused r) = { t with refused := t.refused + 1 } := rfl

theorem State.offerAll_append (t : Tally) (vs ws : List Word) :
    s.offerAll t (vs ++ ws) = (s.offerAll t vs).1.offerAll (s.offerAll t vs).2 ws := by
  induction vs generalizing s t with
  | nil => rfl
  | cons v vs ih => simpa [State.offerAll] using ih _ _

/-! ## The engine's movements (R130) -/

theorem State.engineMoves_zero : s.engineMoves 0 = s := rfl

theorem State.engineMoves_succ (k : Nat) : s.engineMoves (k + 1) = s.engineMove.engineMoves k := rfl

/-- A property that every movement keeps is kept by any number of them. -/
theorem State.engineMoves_induction {P : State → Prop} (keep : ∀ u : State, P u → P u.engineMove) (h : P s) (k : Nat) :
    P (s.engineMoves k) := by
  induction k generalizing s with
  | zero => exact h
  | succ k ih => exact ih _ (keep s h)

end Sys2Proof.Machine
end

