-- ==== Sys2Proof/WellFormed.lean ====
section
/-! DEFINITION. When a command is one its row describes: the words of a frame row are such a frame, a frame that
the reset line cuts on its way out has begun and has a word left to send, an undefined code is undefined, and a
disturbance flips one place or two different ones. Every other operand is within its range by its type. -/

namespace Sys2Proof

/-- The words pass the checks of R132 as a servo frame. -/
def isServo (words : List Word) : Bool :=
  match receive words with
  | .servo _ => true
  | _ => false

/-- The words pass the checks of R132 as a management frame. -/
def isManagement (words : List Word) : Bool :=
  match receive words with
  | .management _ _ => true
  | _ => false

/-- The words fail a check of R132. -/
def isDiscarded (words : List Word) : Bool :=
  match receive words with
  | .discarded _ => true
  | _ => false

/-- A frame of up to `longest` words is cut on its way out after its first word and before its last. -/
def cutInside (longest : Nat) (k : Option Nat) : Bool :=
  match k with
  | some k => decide (1 ≤ k ∧ k < longest)
  | none => true

/-- A command is well-formed when its operands are ones its row admits. A sensor frame may hold any
number of words: R140 says what becomes of one with other than four. -/
def Instr.wellFormed (i : Instr) : Bool :=
  match i with
  | .powerOnReset cut => cutInside 4 cut.drive && cutInside 8 cut.upstream
  | .sensorFrame _ => true
  | .servoFrame words _ => isServo words
  | .referenceLost _ => true
  | .primingComplete _ => true
  | .campaignDone _ => true
  | .divergenceRollback _ => true
  | .windowClose _ => true
  | .laneFault _ => true
  | .argumentExpired => true
  | .transferTimeout => true
  | .discardedFrame words => isDiscarded words
  | .managementFrame words => isManagement words
  | .dataWord _ => true
  | .bankDataWord _ _ _ => true
  | .mapEntryWrite _ _ _ => true
  | .fallbackWrite _ _ => true
  | .laneParameterWrite _ _ _ => true
  | .condParameterWrite _ _ => true
  | .nop => true
  | .undefinedCode code _ _ => decide (Config.undefinedFrom ≤ code.toNat)
  | .point _ _ => true
  | .read _ => true
  | .patchOpen => true
  | .patchClose => true
  | .commitSet _ => true
  | .freeSet _ => true
  | .unfreezeSet _ => true
  | .laneEnable _ => true
  | .laneStart _ => true
  | .laneStop _ => true
  | .laneOff _ => true
  | .adaptWindow _ _ => true
  | .probeStart _ _ _ => true
  | .probeStop _ => true
  | .transferStart _ _ => true
  | .transferAbort => true
  | .transferStatus => true
  | .fetchNotices _ => true
  | .poll => true
  | .countersClear => true
  | .partReset => true
  | .wordMovement => true
  | .blockHeaderAppend => true
  | .blockTrailerAppend => true
  | .sweepExamine => true
  | .wordDisturbed _ _ place second => decide (second ≠ some place)

end Sys2Proof
end

