-- ==== Sys2Proof/Tests/Slice0.lean ====
section
/-! SUPPORT. Tests of the model: what WellFormed refuses, the worked figures of spec/ (each test names the section its
expected values come from), and, for every statement with hypotheses, a state and operands that meet them: `witness_<Name>`,
with the boundary values of each clause. -/

open Sys2Proof Sys2Proof.Machine

namespace Sys2Proof.Tests

/- One theorem at a time: side by side, their kernel checks would each reserve a thread's stack. -/
set_option Elab.async false

/-! ## States the tests start from -/

/-- The state after a command. -/
def after (c : Instr) (s : State) : State :=
  match exec c s with
  | .next t => t
  | _ => s

/-- Bank words, each with valid check information. -/
def clean (l : List (Nat × Int)) : List (Nat × Cell) :=
  l.map fun e => (e.1, { value := BitVec.ofInt 16 e.2, flipped := [] })

/-- A history whose newest entries are the given ones, and 0 beyond. -/
def history {n : Nat} (l : List Int) : Vector Word n := Vector.ofFn fun i => BitVec.ofInt 16 (l.getD i.val 0)

/-- The state after a reset, the Response Queue with room for `k` words. -/
def room (k : Nat) : State := { State.reset with responses := List.replicate (32 - k) ⟨.command, 0⟩ }

/-- A state with lane 0 in a lane state. -/
def inMode (s : State) (m : LaneMode) : State := s.onControl .zero fun c => { c with mode := m }

/-- A state with the record of a set changed to a state and a hold. -/
def withSet (s : State) (n : SetNo) (st : SetState) (h : Hold) : State :=
  s.onRecord n fun r => { r with state := st, hold := h }

/-- A state with one stored word, and its flipped places. -/
def withWord (s : State) (a : Nat) (c : Cell) : State := { s with bank := { s.bank with words := [(a, c)] } }

/-- A state with a transfer under way, of set 5 to set 6 when it is a COPY. -/
def moving (m : TransferMode) (p : TransferPhase) (w remaining : Nat) : State :=
  { State.reset with transfer :=
      { Transfer.reset with
        state := .active, mode := m, phase := p, current := some 5, destination := some 6, word := w, remaining := remaining } }

/-- A state with the pointer at an address. -/
def pointing (r : Region) (a : Nat) : State :=
  { State.reset with decoder := { Decoder.reset with pointer := { region := r, lane := .zero, addr := a } } }

/-- Lane 0 as in the worked figures of chapters 4 and 5: RUNNING, set 5 LIVE by route PRIMARY, a sample of 2100 waiting
for the next frame. -/
def service : State :=
  { State.reset with
    cond := { Conditioner.reset with sample := 2100 }
    bank :=
      { words := clean [(320, 4), (321, 1), (322, 2), (323, 3000), (324, 2), (326, 2), (327, -24576), (328, 30000),
          (329, 8000), (330, 12000), (331, -6000), (332, 3000), (333, 1500), (362, -2000)]
        records := Bank.reset.records.set 5 { SetRecord.reset with state := .live, refCount := 1, owner := some .zero } }
    lane0 :=
      { LaneState.reset with
        reference :=
          { Reference.reset with
            ring := history [2050, 2000, 1800, -500, 400, 900, -300], sibling := history [1500, 1400, 1300]
            fresh := true }
        selection := { Selection.reset with map := [(85, some 5)], current := some 5, route := .primary }
        adapt :=
          { Adaptation.reset with
            mode := .free
            shadow := some
              { set := 5
                taps := [12000, -6000, 3000, 1500].map (BitVec.ofInt 16) ++ List.replicate 28 0
                  ++ BitVec.ofInt 16 (-2000) :: List.replicate 7 0 } }
        control := { Control.reset with mode := .running, expectation := some 100, fill := 64 } } }

/-- The TRACK frame of the worked figures. -/
def trackFrame : ServoFields :=
  { lane := .zero, mode := .track, writeActive := false, head := 2, zone := 5, wedge := 100, pes := 3000, input := 1200 }

/-- The frame as the link delivers it, its unassigned places 0. -/
def trackWords : List Word := servoWords trackFrame 0

/-! ## What WellFormed refuses -/

theorem test_wellFormed_accepts : Instr.wellFormed (.servoFrame trackWords .none) = true := by decide +kernel

theorem test_wellFormed_refuses_servo_words_of_another_frame :
    Instr.wellFormed (.servoFrame (managementWords 1 [0] 0) .none) = false
      ∧ Instr.wellFormed (.servoFrame (sealFrame [16384, 0, 0]) .none) = false := by decide +kernel

theorem test_wellFormed_refuses_a_management_frame_without_payload :
    Instr.wellFormed (.managementFrame (sealFrame [32768])) = false
      ∧ Instr.wellFormed (.managementFrame trackWords) = false := by decide +kernel

theorem test_wellFormed_refuses_a_valid_frame_as_discarded :
    Instr.wellFormed (.discardedFrame trackWords) = false ∧ Instr.wellFormed (.discardedFrame []) = true := by
  decide +kernel

theorem test_wellFormed_refuses_a_defined_code :
    Instr.wellFormed (.undefinedCode 21 .zero 0) = false ∧ Instr.wellFormed (.undefinedCode 22 .zero 0) = true := by decide

theorem test_wellFormed_refuses_one_place_flipped_twice :
    Instr.wellFormed (.wordDisturbed 0 0 3 (some 3)) = false ∧ Instr.wellFormed (.wordDisturbed 0 0 3 (some 4)) = true := by
  decide

theorem test_wellFormed_refuses_a_frame_cut_outside_its_words :
    Instr.wellFormed (.powerOnReset ⟨[], some 0, none⟩) = false ∧ Instr.wellFormed (.powerOnReset ⟨[], some 4, none⟩) = false
      ∧ Instr.wellFormed (.powerOnReset ⟨[], none, some 8⟩) = false
      ∧ Instr.wellFormed (.powerOnReset ⟨[], some 3, some 7⟩) = true := by decide

/-! ## Worked figures of spec/ -/

/-- Section 8.2 (R131). -/
theorem test_linkCheck_of_the_word_0 : linkCheck [] = 65535 ∧ linkCheck [0] = 7439 := by decide +kernel

/-- Section 8.5, the readout across two return frames: POINT 7, 0 and READ 3 in one management frame. -/
theorem test_readout_across_return_frames :
    let t := after (.managementFrame (sealFrame [32819, 1031, 0, 2051])) service
    t.ports.upstream.map (fun w => w.take 7) = [[33024, 0, 0, 256, 515, 3, 5]] ∧ t.responses = [⟨.command, 1⟩] := by
  decide +kernel

/-- Section 8.5, the frame lost in transit: return header 1600. -/
theorem test_discarded_frame_return_header :
    let s : State := { State.reset with responses := [⟨.command, 1⟩] }
    let t := after (.discardedFrame (trackWords.set 3 1201)) s
    t.ports.upstream.map (fun w => w.take 4) = [[1600, 0, 0, 1]] ∧ t.ports.drive = [] := by decide +kernel

/-- Section 4, the FRESH correction: y = 71, the output command 1271. -/
theorem test_fresh_correction :
    let t := after (.servoFrame trackWords .none) service
    t.ports.drive.map (fun w => w.take 3) = [[1, 100, 1271]]
      ∧ t.ports.upstream.map (fun w => w.take 3) = [[18432, 100, 71]] := by decide +kernel

/-- Section 5, the adapted frame: the five taps in use after it. -/
theorem test_adapted_frame :
    let t := after (.servoFrame trackWords .none) service
    [0, 1, 2, 3, 32].map (fun k => t.wordInt 5 (10 + k)) = [11991, -5993, 3015, 1495, -1978]
      ∧ t.lane0.counters.adaptedFrame = 1 := by decide +kernel

/-- Section 1, the steady input: the second frame, with B = 268 before it. -/
theorem test_conditioner_steady_input :
    let s : State := { State.reset with cond :=
      { Conditioner.reset with
        params := { CondParams.default with trim2 := 17203 }, baseline := 268, expectation := some 5 } }
    let t := after (.sensorFrame [5, 1200, BitVec.ofInt 16 (-900), 0]) s
    t.cond.sample = 1072 ∧ t.cond.baseline = 535 ∧ t.notices.records = [] := by decide +kernel

/-- Section 1, the band sequence: 500 in band 3 falls to band 1; the converse step is 900 in band 1. -/
theorem test_band_sequence :
    let s := fun (b : Fin 4) => ({ State.reset with cond := { Conditioner.reset with temperature := some 0, band := b } } : State)
    (after (.sensorFrame [0, 0, 0, 500]) (s 3)).cond.band = 1 ∧ (after (.sensorFrame [0, 0, 0, 900]) (s 1)).cond.band = 3 := by
  decide +kernel

/-- Section 1, the converter dropout: the 20th frame without a sensor frame makes the reference LOST. -/
theorem test_reference_lost_at_20 :
    let s := State.reset.onReference .zero fun r => { r with status := .stale, staleCount := 19 }
    let t := after (.referenceLost .zero) (inMode s .running)
    t.lane0.reference.status = .lost ∧ t.lane0.reference.staleCount = 20 ∧ t.notices.records.length = 1 := by
  decide +kernel

/-- Section 1, the two-wedge gap, on lane 0: wedge 102 where 100 is expected pushes the sample three times. -/
theorem test_gap_of_two :
    let t := after (.servoFrame (servoWords { trackFrame with wedge := 102 } 0) .none) service
    t.lane0.reference.ring.toList.take 5 = [2100, 2100, 2100, 2050, 2000] ∧ t.lane0.reference.settle = 29 := by
  decide +kernel

/-- Section 2, loading and committing set 7: MU, DL and w[0] are clamped. -/
theorem test_commit_clamps :
    let s : State := withSet { State.reset with bank :=
      { State.reset.bank with words := clean [(448, 4), (449, 1), (450, 2), (451, 3000), (452, 20), (454, 2),
          (455, -24576), (456, 10000), (458, 12000), (459, -6000), (490, -2000)] } } 7 .loading .none
    let t := after (.commitSet 7) s
    [4, 9, 10, 11, 42].map (t.wordInt 7) = [15, 1, 10000, -6000, -2000] ∧ (t.record 7).state = .ready := by
  decide +kernel

/-- Section 2, losing a set: a double error in w[2] of the LIVE set makes the frame DIAG with correction 0. -/
theorem test_double_error_in_service :
    let s : State := { service with bank :=
      { service.bank with words := Memory.write Cell.zero service.bank.words 332 ⟨3000, [0, 1]⟩ } }
    let t := after (.servoFrame trackWords .none) s
    t.ports.drive.map (fun w => w.take 3) = [[3, 100, 1200]] ∧ (t.record 5).state = .quarantined
      ∧ t.lane0.selection.current = none ∧ t.counters.storageError = 1 := by decide +kernel

/-- Section 3, the sixth write of the two maps: lane 0's only name for set 3 becomes set 4. -/
theorem test_map_write_moves_the_names :
    let s := after (.mapEntryWrite .zero 86 4) (after (.mapEntryWrite .zero 85 3) State.reset)
    let t := after (.mapEntryWrite .zero 85 4) s
    (s.record 3).refCount = 1 ∧ (t.record 3).refCount = 0 ∧ (t.record 3).owner = none ∧ (t.record 4).refCount = 2
      ∧ (t.record 4).owner = some .zero := by decide +kernel

/-- Section 4, the lane driven into fault: the 32nd saturated frame in a row. -/
theorem test_saturation_run_faults_the_lane :
    let s := service.onFilter .zero fun z => { z with saturationRun := 31 }
    let t := after (.servoFrame (servoWords { trackFrame with input := 32767 } 0) .none) s
    t.lane0.control.mode = .fault ∧ (t.record 5).state = .ready ∧ t.ports.drive.map (fun w => w.take 3) = [[1, 100, 32767]]
      ∧ t.lane0.counters.laneFault = 1 := by decide +kernel

/-- R141: the frames begun for the worked frame end after two words and one, and a second reset leaves them so. -/
theorem test_reset_line_cuts_the_frames_being_sent :
    let t := after (.powerOnReset ⟨[], some 2, some 1⟩) (after (.servoFrame trackWords .none) service)
    t.ports.drive = [[1, 100]] ∧ t.ports.upstream = [[18432]]
      ∧ (after (.powerOnReset ⟨[], some 1, none⟩) t).ports.drive = [[1, 100]] := by decide +kernel

/-- R33, R75: the rollback row changes no word of a held set. -/
theorem test_rollback_spares_a_held_set :
    let s := (service.onAdapt .zero fun x => { x with divergence := 63 }).onRecord 5 fun r => { r with hold := .source }
    after (.divergenceRollback .zero) s = s := by decide +kernel

/-! ## Witnesses of the statements' hypotheses -/

/-- The records of a set in every state and under every hold. -/
def inEveryState (n : SetNo) : List State :=
  [SetState.free, .loading, .ready, .live, .quarantined].map fun st => withSet State.reset n st .none

theorem witness_StepRunsTheFrontCommand :
    (State.reset.withPending [.nop, .poll]).pending = .nop :: [.poll] ∧ State.reset.pending = [] := by decide

/-- A port with a frame begun, one with none, and one whose last frame had left. -/
theorem witness_PowerOnResetReturnsEveryBlock :
    let s := after (.servoFrame trackWords .none) service
    s.ports.driveBegun = true ∧ s.ports.upstreamBegun = true
      ∧ s.ports.drive = [] ++ [sealFrame [1, 100, 1271]] ∧ s.ports.upstream = [] ++ [sealFrame [18432, 100, 71]]
      ∧ (⟨[1, 100], some 1, some 7⟩ : CutShort).drive = some 1 ∧ (⟨[1, 100], some 1, some 7⟩ : CutShort).upstream = some 7
      ∧ State.reset.ports.driveBegun = false ∧ State.reset.ports.upstreamBegun = false
      ∧ CutShort.whole.drive = none ∧ CutShort.whole.upstream = none := by decide +kernel

theorem witness_PartResetReturnsEveryBlock : State.reset.accepts 1 ∧ (room 1).accepts 1 := by decide

theorem witness_NopAndUndefinedCodesChangeNothing :
    (room 1).accepts 1 ∧ 22 ≤ (22#6).toNat ∧ 22 ≤ (63#6).toNat := by decide

theorem witness_LaneCommandsOutsideRunning :
    (∀ m ∈ [LaneMode.off, .standby, .priming, .fault],
        (inMode (room 1) m).accepts 1 ∧ ((inMode (room 1) m).lane .zero).control.mode = m ∧ m ≠ .running)
      ∧ (State.reset.cond.params.threshold1.toInt < State.reset.cond.params.threshold2.toInt
        ∧ State.reset.cond.params.threshold2.toInt < State.reset.cond.params.threshold3.toInt) := by decide

/-- Two thresholds that are equal do not increase. -/
theorem witness_LaneCommandsOutsideRunning_thresholds :
    let s := { inMode State.reset .standby with cond :=
      { Conditioner.reset with params := { CondParams.default with threshold2 := 800 } } }
    s.accepts 1 ∧ (s.lane .zero).control.mode = .standby
      ∧ ¬(s.cond.params.threshold1.toInt < s.cond.params.threshold2.toInt
        ∧ s.cond.params.threshold2.toInt < s.cond.params.threshold3.toInt) := by decide

theorem witness_DepartureFromRunning :
    (service.lane .zero).control.mode = .running ∧ service.accepts 1
      ∧ let s := service.onFilter .zero fun z => { z with saturationRun := 31 }
        (s.lane .zero).control.mode = .running ∧ 31 ≤ (s.lane .zero).filter.saturationRun := by decide

theorem witness_LaneParameterWrite :
    (room 1).responses.length + 1 ≤ 32 ∧ (∀ m ∈ [LaneMode.off, .standby], ((inMode (room 1) m).lane .zero).atRest)
      ∧ ∀ m ∈ [LaneMode.priming, .running, .fault], ¬((inMode (room 1) m).lane .zero).atRest := by decide

theorem witness_ConditionerParameterWrite :
    (room 1).responses.length + 1 ≤ 32 ∧ ((room 1).lane0.atRest ∧ (room 1).lane1.atRest)
      ∧ ∀ m ∈ [LaneMode.priming, .running, .fault], ¬((inMode (room 1) m).lane0.atRest ∧ (inMode (room 1) m).lane1.atRest) := by
  decide

theorem witness_BankDataWord :
    State.reset.responses.length + 1 ≤ 32 ∧ State.reset.storesCanonical
      ∧ (∀ h ∈ [Hold.source, .destination], ((withSet State.reset 47 .ready h).record 47).hold ≠ .none)
      ∧ ((withSet State.reset 47 .live .none).record 47).state = .live
      ∧ ∀ st ∈ [SetState.free, .loading, .ready, .quarantined],
          ((withSet State.reset 47 st .none).record 47).hold = .none ∧ ((withSet State.reset 47 st .none).record 47).state ≠ .live := by
  decide +kernel

theorem witness_MapAndFallbackWrites :
    State.reset.responses.length + 1 ≤ 32 ∧ State.reset.storesCanonical
      ∧ (∀ v ∈ [48, 254, 256, 65535], 48 ≤ (BitVec.ofNat 16 v).toNat ∧ (BitVec.ofNat 16 v).toNat ≠ 255)
      ∧ ((47#16).toNat = (47 : SetNo).val
        ∧ ((State.reset.onRecord 47 fun r => { r with owner := some .one }).record 47).owner = some Lane.zero.other)
      ∧ ((255#16).toNat = ((none : Option SetNo).map Fin.val).getD 255)
      ∧ ((47#16).toNat = ((some 47 : Option SetNo).map Fin.val).getD 255
        ∧ (State.reset.record 47).owner ≠ some Lane.zero.other) := by decide +kernel

theorem witness_CommitSetOfALoadingSet :
    ∀ c ∈ [(⟨3, []⟩ : Cell), ⟨3, [16]⟩, ⟨3, [0, 15]⟩],
      let s := withWord (withSet (room 1) 47 .loading .source) (47 * 64 + 49) c
      s.accepts 1 ∧ s.storesCanonical ∧ (47#9).toNat = (47 : SetNo).val ∧ (s.record 47).state = .loading
        ∧ (s.record 47).hold ≠ .destination ∧ ¬(s.transfer.state = .waiting ∧ s.transfer.current = some 47)
        ∧ (s.lane .zero).selection.current ≠ some 47 ∧ (s.lane .one).selection.current ≠ some 47 := by decide +kernel

/-- A transfer that waits on set 5 while set 47 is committed or read. -/
theorem witness_a_transfer_that_waits_on_another_set :
    let s : State :=
      { withSet (pointing .bank (47 * 64)) 47 .loading .none with
        transfer := { (moving .dump .header 0 50).transfer with state := .waiting } }
    s.accepts 1 ∧ s.storesCanonical ∧ (s.record 47).state = .loading ∧ (s.record 47).hold ≠ .destination
      ∧ s.transfer.state = .waiting ∧ ¬(s.transfer.state = .waiting ∧ s.transfer.current = some 47)
      ∧ s.decoder.pointer.region = .bank ∧ s.decoder.pointer.addr = (47 : SetNo).val * 64 + 0
      ∧ s.responses.length + 1 + min 16 (50 - 0) ≤ 32 := by decide +kernel

theorem witness_SetCommands :
    (room 1).accepts 1 ∧ (room 1).storesCanonical ∧ 48 ≤ (48#9).toNat ∧ 48 ≤ (511#9).toNat
      ∧ (47#9).toNat = (47 : SetNo).val
      ∧ (inEveryState 47).map (fun s => (s.record 47).state) = [.free, .loading, .ready, .live, .quarantined]
      ∧ ((withSet (room 1) 47 .loading .destination).record 47).hold = .destination
      ∧ ((room 1).onRecord 47 fun r => { r with frozen := true }).accepts 1
      ∧ (((room 1).onRecord 47 fun r => { r with frozen := true }).record 47).frozen = true := by decide +kernel

theorem witness_WordDisturbed :
    State.reset.storesCanonical ∧ (none : Option Nat) ≠ some 15 ∧ (some 16 : Option Nat) ≠ some 15
      ∧ (State.reset.bankAt (47 * 64 + 49)).flipped = []
      ∧ (let s := withWord State.reset (47 * 64 + 49) ⟨0, [15]⟩
         s.storesCanonical ∧ (s.bankAt (47 * 64 + 49)).flipped = [15] ∧ (15 : Nat) ≠ 14) := by decide

theorem witness_CheckedRead :
    (∀ c ∈ [(⟨3, []⟩ : Cell), ⟨0, [20]⟩, ⟨3, [0, 16]⟩],
      let s := withWord service (47 * 64 + 49) c
      s.storesCanonical ∧ ¬(s.transfer.state = .waiting ∧ s.transfer.current = some 47) ∧ s.bankAt (47 * 64 + 49) = c)
      ∧ ([(⟨3, []⟩ : Cell), ⟨0, [20]⟩, ⟨3, [0, 16]⟩].map fun c => c.flipped.length) = [0, 1, 2] := by decide +kernel

/-- The last address of each region, and the first past it. -/
theorem witness_Point :
    (room 2).accepts 2 ∧ (room 2).decoder.origin = none ∧ 15 < (16#9).toNat ∧ (15#9).toNat ≤ 15
      ∧ ({ room 2 with decoder := { Decoder.reset with origin := some (room 2).decoder.pointer } } : State).decoder.origin ≠ none
      ∧ (3057#16).toNat / 64 ≤ 47 ∧ (3057#16).toNat % 64 ≤ 49 ∧ ¬(3058#16).toNat % 64 ≤ 49 ∧ ¬(3072#16).toNat / 64 ≤ 47
      ∧ (List.range 8).map (fun r => Region.ofCode r) =
          [.bank, .map, .lane, .cond, .results, .counters, .sets, .lanes] := by decide

theorem witness_PatchWindow :
    (room 1).accepts 1 ∧ (room 1).decoder.origin = none
      ∧ ({ room 1 with decoder := { Decoder.reset with origin := some ⟨.map, .one, 512⟩ } } : State).accepts 1 := by decide

theorem witness_ReadOutsideTheBank :
    (room 1).accepts 1 ∧ (0#9).toNat = 0 ∧ 16 < (17#9).toNat ∧ 1 ≤ (1#9).toNat ∧ (16#9).toNat ≤ 16
      ∧ (∀ a ∈ [498, 512], let s := pointing .map a
        s.accepts 1 ∧ s.decoder.pointer.region ≠ .bank
          ∧ s.responses.length + 1 + min 16 (s.decoder.pointer.stop - s.decoder.pointer.addr) ≤ 32)
      ∧ (let s := { room 15 with decoder := (pointing .map 498).decoder }
         s.accepts 1 ∧ s.responses.length + 1 + min 16 (s.decoder.pointer.stop - s.decoder.pointer.addr) ≤ 32)
      ∧ (let s := { room 14 with decoder := (pointing .map 498).decoder }
         s.accepts 1 ∧ 32 < s.responses.length + 1 + min 16 (s.decoder.pointer.stop - s.decoder.pointer.addr))
      ∧ ∀ x ∈ [(-2147483648 : Int), 2147483647], -2147483648 ≤ x ∧ x ≤ 2147483647 := by decide

theorem witness_ReadInTheBank :
    ∀ a ∈ [47 * 64, 47 * 64 + 49, 47 * 64 + 50],
      let s := withWord { pointing .bank a with responses := (room 17).responses } (47 * 64 + 49) ⟨3, [0, 1]⟩
      s.accepts 1 ∧ s.storesCanonical ∧ 1 ≤ (16#9).toNat ∧ (16#9).toNat ≤ 16 ∧ s.decoder.pointer.region = .bank
        ∧ s.decoder.pointer.addr = (47 : SetNo).val * 64 + (a - 47 * 64) ∧ a - 47 * 64 ≤ 50
        ∧ ¬(s.transfer.state = .waiting ∧ s.transfer.current = some 47)
        ∧ (s.lane .zero).selection.current ≠ some 47 ∧ (s.lane .one).selection.current ≠ some 47
        ∧ s.responses.length + 1 + min 16 (50 - (a - 47 * 64)) ≤ 32 := by decide +kernel

/-- A lane's current set, LIVE, with a double error in its word 3: a READ takes the set from the lane (R51, R154). -/
theorem witness_ReadInTheBank_of_a_current_set :
    let s : State :=
      { service.putCell 5 3 ⟨3000, [0, 1]⟩ with
        decoder := { Decoder.reset with pointer := { region := .bank, lane := .zero, addr := 320 } } }
    s.accepts 1 ∧ s.storesCanonical ∧ s.decoder.pointer.addr = (5 : SetNo).val * 64 + 0
      ∧ ¬(s.transfer.state = .waiting ∧ s.transfer.current = some 5) ∧ (s.lane .zero).selection.current = some 5
      ∧ (s.record 5).state = .live ∧ s.responses.length + 1 + min 4 (50 - 0) ≤ 32
      ∧ ((after (.read 4) s).lane .zero).selection.current = none ∧ ((after (.read 4) s).record 5).state = .quarantined := by
  decide +kernel

theorem witness_DataWord :
    State.reset.responses.length + 1 ≤ 32
      ∧ ({ State.reset with decoder :=
          { Decoder.reset with command := some ⟨⟨1, .zero, 0⟩, []⟩ } } : State).decoder.command ≠ none
      ∧ ((pointing .bank 3058).decoder.pointer.stop ≤ 3058 ∧ (pointing .map 512).decoder.pointer.stop ≤ 512)
      ∧ (∀ e ∈ [(Region.results, 33), (.counters, 25), (.sets, 47), (.lanes, 13), (.bank, 3057), (.map, 511), (.lane, 1),
          (.lane, 7), (.cond, 9)],
          (pointing e.1 e.2).decoder.command = none ∧ e.2 < (pointing e.1 e.2).decoder.pointer.stop)
      ∧ 3057 = (47 : SetNo).val * 64 + (49 : WordNo).val ∧ 511 = (511 : Fin 512).val
      ∧ laneParamAt 7 = some .holdLength ∧ condParamAt 9 = some .retain := by decide +kernel

theorem witness_StatusPollAndClear :
    (∀ k ∈ [1, 2, 7, 8], (room k).accepts 1) ∧ 24 < (room 7).responses.length ∧ (room 8).responses.length ≤ 24
      ∧ 30 < (room 1).responses.length ∧ (room 2).responses.length ≤ 30 ∧ State.reset.notices.lost ≤ 255 := by decide

theorem witness_FetchNotices :
    (∀ k ∈ [1, 2], (room k).accepts 1) ∧ (0#9).toNat = 0 ∧ 8 < (9#9).toNat ∧ 1 ≤ (1#9).toNat ∧ (8#9).toNat ≤ 8
      ∧ 30 < (room 1).responses.length ∧ (room 2).responses.length ≤ 30 := by decide

/-- POINT takes one argument, PROBE START two. -/
theorem witness_CommandWordsOfFrames :
    (room 3).accepts 3 ∧ argCount (commandFields (commandWord 1 .zero 0)).code = 1
      ∧ argCount (commandFields (commandWord 13 .one 0)).code = 2
      ∧ (room 3).responses.length + [0#16].length + 2 ≤ 32 := by decide

/-- PROBE START and POINT with their last argument still to come, and PROBE START with two to come; the queue with just
room for a header and the amplitude, and with room for a header alone. -/
theorem witness_CommandWordsOfFrames_arguments :
    let waiting := fun (k : Nat) (code : BitVec 6) (args : List Word) =>
      { room k with decoder := { Decoder.reset with command := some ⟨⟨code, .one, 0⟩, args⟩ } }
    (waiting 1 13 [5]).decoder.command = some ⟨⟨13, .one, 0⟩, [5]⟩ ∧ [5#16].length + 1 = argCount 13
      ∧ ([] : List Word).length + 1 = argCount 1 ∧ ([] : List Word).length + 2 ≤ argCount 13
      ∧ commandFields (commandWord 13 .one 0) = ⟨13, .one, 0⟩
      ∧ ((waiting 1 13 [5]).responses.length + (1 + 0 + 0) ≤ 32 ∧ 32 < (waiting 1 13 [5]).responses.length + (1 + 0 + 0) + 1)
      ∧ (waiting 2 13 [5]).responses.length + (1 + 0 + 0) + 1 ≤ 32
      ∧ ((waiting 3 13 [5]).responses.length + (1 + [0#16].length + 1) ≤ 32
        ∧ 32 < (waiting 3 13 [5]).responses.length + (1 + [0#16].length + 1) + 1)
      ∧ (room 3).decoder.command = none := by decide

/-- A frame of TRANSFER STATUS, NOP and a data word reserves three words and needs seven: room for ten, and for nine; and
one that fetches eight notices, with just the room for its lost count. -/
theorem witness_CommandWordsOfFrames_of_several_words :
    (∀ e ∈ [(17, 0), (18, 8)],
        argCount (commandFields (commandWord (BitVec.ofNat 6 e.1) .zero (BitVec.ofNat 9 e.2))).code = 0
          ∧ (commandFields (commandWord (BitVec.ofNat 6 e.1) .zero (BitVec.ofNat 9 e.2))).code.toNat = e.1
          ∧ (commandFields (commandWord (BitVec.ofNat 6 e.1) .zero (BitVec.ofNat 9 e.2))).imm.toNat = e.2)
      ∧ (∀ k ∈ [4, 9, 10], (room k).accepts 3 ∧ (room k).responses.length + (1 + [0#16].length + 1) ≤ 32)
      ∧ 32 < (room 9).responses.length + (1 + [0#16].length + 1) + 7
      ∧ (room 10).responses.length + (1 + [0#16].length + 1) + 7 ≤ 32
      ∧ (room 4).responses.length + (1 + [0#16].length + 1) + 1 ≤ 32 ∧ [5#16] ≠ [] := by decide

/-- Frame A of the worked sequence of chapter 9: two data words behind POINT without its argument are refused in place, one
data report says so, and room for that one word is enough. -/
theorem witness_CommandWordsOfFrames_data_while_pending :
    let s := { room 1 with decoder := { Decoder.reset with command := some ⟨⟨1, .zero, 10⟩, []⟩ } }
    s.decoder.command ≠ none ∧ s.responses.length + 1 ≤ 32
      ∧ s.manage [] [40000, 8] = { s with responses := s.responses ++ [⟨.command, 16384 + 2 * 16⟩] }
      ∧ (room 1).decoder.command = none ∧ (room 1).responses.length + 1 ≤ 32 := by decide +kernel

theorem witness_ManagementFrame :
    receive (managementWords 1 [0, 5] 0) = .management [0] [5] ∧ receive (managementWords 8 [0] 63) = .management [0] []
      ∧ receive (managementWords 0 [5] 0) = .management [] [5] ∧ 32 - (room 1).responses.length < 1 + 1
      ∧ ¬(32 - (room 2).responses.length < 1 + 1) := by decide +kernel

/-- R142: a payload of a command word, a transfer word, a command word and a transfer word marks places 1 and 3. -/
theorem witness_ManagementFrame_marks :
    let payload : List QueuedWord := [⟨.command, 7⟩, ⟨.transfer, 7⟩, ⟨.command, 7⟩, ⟨.transfer, 7⟩]
    transferMarks payload = 10 ∧ payload[0]? = some ⟨.command, 7⟩ ∧ payload[3]? = some ⟨.transfer, 7⟩ ∧ payload[4]? = none := by
  decide

theorem witness_WindowAndProbeCommands :
    (service.accepts 2 ∧ service.accepts 3 ∧ service.accepts 1)
      ∧ ((0#16).toNat = 0 ∧ (1#16).toNat ≠ 0 ∧ (65535#16).toNat ≠ 0)
      ∧ ¬((service.lane .zero).control.mode = .running ∧ (service.lane .zero).adapt.mode = .window)
      ∧ (∀ k ∈ [0, 1], let s := service.onAdapt .zero fun x => { x with mode := .window, window := k }
        s.accepts 2 ∧ ((s.lane .zero).control.mode = .running ∧ (s.lane .zero).adapt.mode = .window)
          ∧ (s.lane .zero).adapt.window = k)
      ∧ (State.reset.lane .zero).control.mode ≠ .running ∧ (service.lane .zero).control.mode = .running
      ∧ (service.lane .zero).campaign.state ≠ .running
      ∧ let s := service.onCampaign .zero fun c => { c with state := .running, requested := 1 }
        s.accepts 3 ∧ (s.lane .zero).campaign.state = .running := by decide

/-- Mode 3, source 48, destination 48, counts of 0 and 51, and the same words one inside those limits. -/
theorem witness_TransferStartRefused :
    (room 3).accepts 3 ∧ (3#16).toNat % 4 = 3 ∧ 47 < (48#16 * 256).toNat / 256 % 64 ∧ 47 < (48#16).toNat
      ∧ ((1#16).toNat % 4 = 1 ∧ ((0#16).toNat = 0 ∨ 50 < (0#16).toNat) ∧ 50 < (51#16).toNat)
      ∧ (2#16).toNat % 4 = 2
      ∧ ((moving .copy .words 0 50).accepts 3 ∧ (moving .copy .words 0 50).transfer.state = .active)
      ∧ ((47#16 * 256).toNat % 4 = 0 ∧ (47#16 * 256).toNat / 256 % 64 = (47 : SetNo).val)
      ∧ (inEveryState 46).map (fun s => (s.record 46).state) = [.free, .loading, .ready, .live, .quarantined]
      ∧ ((47#16 * 256 + 1).toNat % 4 = 1 ∧ (State.reset.record 47).state = .free) := by decide +kernel

theorem witness_TransferStartAccepted :
    ∀ st ∈ [SetState.loading, .ready, .live],
      let s := withSet (room 3) 47 st .none
      s.accepts 3 ∧ (∀ k < 16, (BitVec.ofNat 16 (47 * 256 + k)).toNat / 256 % 64 = 47)
        ∧ s.transfer.state ≠ .active ∧ s.transfer.state ≠ .waiting ∧ (46 : SetNo) ≠ 47
        ∧ (s.record 47).state ≠ .free ∧ (s.record 47).state ≠ .quarantined
        ∧ (s.record 46).state ≠ .loading ∧ (s.record 46).state ≠ .live
        ∧ [0, 1, 2].map (fun k => (BitVec.ofNat 16 (47 * 256 + k)).toNat % 4) = [0, 1, 2]
        ∧ (1 ≤ (50#16).toNat ∧ (50#16).toNat ≤ 50) := by decide +kernel

theorem witness_TransferAbort :
    ((moving .copy .words 0 50).accepts 1 ∧ (moving .copy .words 0 50).transfer.state = .active)
      ∧ State.reset.accepts 1 ∧ State.reset.transfer.state = .idle := by decide

theorem witness_WordMovementDelivers :
    ∀ c ∈ [(⟨3, []⟩ : Cell), ⟨3, [16]⟩],
      (let s := withWord (moving .copy .words 48 2) (5 * 64 + 48) c
       s.storesCanonical ∧ s.transfer.state = .active ∧ s.transfer.current = some 5 ∧ s.transfer.word = (48 : WordNo).val
         ∧ (s.bankAt (5 * 64 + 48)).flipped.length ≤ 1 ∧ s.transfer.mode = .copy ∧ s.transfer.destination = some 6
         ∧ (6 : SetNo) ≠ 5 ∧ 48 < 49)
        ∧ (let s := withWord
              { moving .dump .words 49 1 with responses := List.replicate 23 ⟨.transfer, 0⟩ ++ List.replicate 8 ⟨.command, 0⟩ }
              (5 * 64 + 49) c
           s.storesCanonical ∧ s.transfer.state = .active ∧ s.transfer.current = some 5
             ∧ s.transfer.word = (49 : WordNo).val ∧ (s.bankAt (5 * 64 + 49)).flipped.length ≤ 1 ∧ s.transfer.mode ≠ .copy
             ∧ s.transfer.phase = .words ∧ s.transferWords < 24 ∧ s.responses.length < 32) := by decide +kernel

theorem witness_CopyCompletes :
    ∀ c ∈ [(⟨3, []⟩ : Cell), ⟨3, [16]⟩],
      let s := withWord (moving .copy .words 49 1) (5 * 64 + 49) c
      s.storesCanonical ∧ s.transfer.state = .active ∧ s.transfer.mode = .copy ∧ s.transfer.current = some 5
        ∧ s.transfer.word = 49 ∧ s.transfer.destination = some 6 ∧ (6 : SetNo) ≠ 5
        ∧ (s.bankAt ((5 : SetNo).val * 64 + 49)).flipped.length ≤ 1 := by decide +kernel

theorem witness_WordMovementDoubleError :
    ∀ skip ∈ [true, false],
      let m := withWord (withSet (moving .dump .words 49 1) 5 .ready .source) (5 * 64 + 49) ⟨3, [0, 1]⟩
      let s := { m with transfer := { m.transfer with skipBad := skip } }
      s.transfer.state = .active ∧ s.transfer.mode ≠ .copy ∧ s.transfer.phase = .words ∧ s.transferWords < 24
        ∧ s.responses.length < 32 ∧ s.transfer.current = some 5 ∧ s.transfer.word = (49 : WordNo).val
        ∧ (s.record 5).state ≠ .free ∧ 2 ≤ (s.bankAt ((5 : SetNo).val * 64 + 49)).flipped.length := by decide +kernel

/-- A COPY at word 48 and at its last word, under both data policies. -/
theorem witness_WordMovementDoubleError_of_a_copy :
    ∀ skip ∈ [true, false], ∀ w ∈ [(48 : WordNo), 49],
      let m := withWord (withSet (moving .copy .words w.val (50 - w.val)) 5 .live .source) (5 * 64 + w.val) ⟨3, [0, 1]⟩
      let s := { m with transfer := { m.transfer with skipBad := skip } }
      s.transfer.state = .active ∧ s.transfer.mode = .copy ∧ s.transfer.current = some 5 ∧ s.transfer.word = w.val
        ∧ (s.record 5).state ≠ .free ∧ 2 ≤ (s.bankAt ((5 : SetNo).val * 64 + w.val)).flipped.length
        ∧ s.transfer.destination = some 6 ∧ (6 : SetNo) ≠ 5 ∧ s.storesCanonical := by decide +kernel

theorem witness_BlockHeaderAndTrailer :
    ∀ s ∈ [moving .dump .header 0 50, moving .dump .trailer 50 0, moving .sweep .trailer 50 0, moving .sweep .trailer 50 1],
      s.transfer.state = .active ∧ s.transfer.mode ≠ .copy ∧ s.transfer.current = some 5 ∧ s.transferWords < 24
        ∧ s.responses.length < 32 := by decide

theorem witness_SweepExamine :
    (∀ st ∈ [SetState.free, .loading, .ready, .live, .quarantined],
        let s := withSet (moving .sweep .examine 0 1) 5 st .none
        s.transfer.state = .active ∧ s.transfer.mode = .sweep ∧ s.transfer.phase = .examine ∧ s.transfer.current = some 5
          ∧ (s.record 5).state = st)
      ∧ ({ moving .sweep .examine 0 1 with transfer :=
          { (moving .sweep .examine 0 1).transfer with current := none } } : State).transfer.current = none := by
  decide +kernel

theorem witness_WaitingTransfer :
    ∀ m ∈ [TransferMode.copy, .dump],
      let u := withSet (moving m .words 0 50) 5 .loading .source
      let s := { u with transfer := { u.transfer with state := .waiting, waitCount := 4095 } }
      s.transfer.state = .waiting ∧ s.transfer.current = some 5 ∧ 4095 ≤ s.transfer.waitCount
        ∧ (s.record 5).state = .loading := by decide +kernel

/-- A waiting transfer whose source holds no error, one or two, with the pointer at its last word and past it. -/
theorem witness_WaitingTransfer_of_reads :
    ∀ m ∈ [TransferMode.copy, .dump], ∀ c ∈ [(⟨3, []⟩ : Cell), ⟨3, [16]⟩, ⟨3, [0, 15]⟩], ∀ w ∈ [49, 50],
      let u := withWord (withSet (moving m .words 0 50) 5 .loading .source) (5 * 64 + 49) c
      let s := { u with
        transfer := { u.transfer with state := .waiting }
        decoder := { Decoder.reset with pointer := ⟨.bank, .zero, 5 * 64 + w⟩ } }
      s.transfer.state = .waiting ∧ s.transfer.current = some 5 ∧ (s.record 5).state = .loading ∧ s.storesCanonical
        ∧ (s.lane .zero).selection.current ≠ some 5 ∧ (s.lane .one).selection.current ≠ some 5 ∧ s.accepts 1
        ∧ (5#9).toNat = (5 : SetNo).val ∧ (s.record 5).hold ≠ .destination ∧ 1 ≤ (16#9).toNat ∧ (16#9).toNat ≤ 16 ∧ w ≤ 50
        ∧ s.decoder.pointer.region = .bank ∧ s.decoder.pointer.addr = (5 : SetNo).val * 64 + w
        ∧ s.responses.length + 1 + min (16#9).toNat (50 - w) ≤ 32 := by decide +kernel

theorem witness_LimitEvents :
    (let s := (inMode State.reset .standby).onReference .zero fun r => { r with status := .stale, staleCount := 19 }
     (s.lane .zero).control.mode ≠ .off ∧ (s.lane .zero).reference.fresh = false ∧ (s.lane .zero).reference.status ≠ .lost
       ∧ 1 ≤ (s.lane .zero).control.staleLimit ∧ (s.lane .zero).reference.staleCount ≤ 1022
       ∧ (s.lane .zero).control.staleLimit + (s.lane .zero).control.holdLength ≤ (s.lane .zero).reference.staleCount + 1)
      ∧ (let s := State.reset.onControl .zero fun c => { c with mode := .priming, fill := 63 }
         (s.lane .zero).control.mode = .priming ∧ (s.lane .zero).reference.status = .good ∧ (s.lane .zero).control.fill = 63)
      ∧ (let s := service.onCampaign .zero fun c => { c with state := .running, requested := 65535, done := 65534 }
         (s.lane .zero).campaign.state = .running ∧ (s.lane .zero).campaign.done + 1 = (s.lane .zero).campaign.requested)
      ∧ (let s := service.onAdapt .zero fun x => { x with mode := .window, window := 1 }
         (s.lane .zero).control.mode = .running ∧ (s.lane .zero).adapt.mode = .window ∧ (s.lane .zero).adapt.window = 1)
      ∧ let s : State := { State.reset with decoder := { Decoder.reset with command := some ⟨⟨1, .zero, 0⟩, []⟩, age := 15 } }
        s.decoder.command = some ⟨⟨1, .zero, 0⟩, []⟩ ∧ s.decoder.age = 15 := by decide

/-- A saturation run of 31 and of 32 in a RUNNING lane, sums at both sides of the signed-16 range, an age and a wait count
one short of their limits. -/
theorem witness_LimitEvents_of_a_frame :
    (let s := service.onFilter .zero fun z => { z with saturationRun := 31 }
     (s.lane .zero).filter.saturationRun < 32)
      ∧ (let s := service.onFilter .zero fun z => { z with saturationRun := 32 }
         (s.lane .zero).control.mode = .running ∧ 32 ≤ (s.lane .zero).filter.saturationRun)
      ∧ (∀ x ∈ [(-32769 : Int), 32768], x < -32768 ∨ 32767 < x) ∧ (∀ x ∈ [(-32768 : Int), 32767], ¬(x < -32768 ∨ 32767 < x))
      ∧ (let s : State :=
          { moving .dump .header 0 50 with
            transfer := { (moving .dump .header 0 50).transfer with state := .waiting, waitCount := 4095 }
            decoder := { Decoder.reset with command := some ⟨⟨1, .zero, 0⟩, []⟩, age := 15 } }
         (s.decoder.command ≠ none ∧ 15 ≤ s.decoder.age) ∧ s.transfer.state = .waiting ∧ 4095 ≤ s.transfer.waitCount) := by
  decide

theorem witness_DivergenceRollback :
    let s := service.onAdapt .zero fun x => { x with divergence := 63 }
    (s.storesCanonical ∧ (s.lane .zero).selection.current = some 5 ∧ (s.lane .zero).adapt.divergence = 63
        ∧ (s.lane .zero).adapt.shadow.map (fun h => h.taps.length) = some 40)
      ∧ ((s.lane .zero).control.mode = .running ∧ (s.lane .zero).selection.route = .primary ∧ (s.record 5).state = .live
        ∧ (s.record 5).frozen = false ∧ (s.record 5).hold = .none)
      ∧ ((s.onRecord 5 fun r => { r with hold := .source }).record 5).hold ≠ .none := by decide +kernel

/-- No limit is one rise away in the state after a reset; each is two rises away in the other. -/
theorem witness_EventsNotDueChangeNothing :
    ((State.reset.lane .zero).control.mode = .off ∧ (State.reset.lane .zero).selection.current = none
        ∧ State.reset.decoder.command = none ∧ State.reset.transfer.state ≠ .waiting ∧ State.reset.transfer.state ≠ .active)
      ∧ (let s := service.onAdapt .zero fun x => { x with divergence := 62, mode := .window, window := 2 }
         (s.lane .zero).adapt.divergence < 63 ∧ (s.lane .zero).adapt.window ≠ 1 ∧ (s.lane .zero).filter.saturationRun < 31)
      ∧ (let s := moving .dump .words 0 50
         { s with responses := List.replicate 24 ⟨.transfer, 0⟩ }.transferWords = 24 ∧ s.transfer.mode ≠ .copy) := by
  decide +kernel

/-- A reference one frame short of LOST at SL + HL = 20, a PRIMING lane at 63 whose reference is STALE, a window about to
close in a lane that is not RUNNING, and an engine at each place with room, where the other rows are not due. -/
theorem witness_EventsNotDueChangeNothing_of_each_row :
    (let s := (inMode State.reset .standby).onReference .zero fun r => { r with status := .stale, staleCount := 18 }
     min 1023 ((s.lane .zero).reference.staleCount + 1) < (s.lane .zero).control.staleLimit + (s.lane .zero).control.holdLength)
      ∧ (let s := (State.reset.onControl .zero fun c => { c with mode := .priming, fill := 63 }).onReference .zero fun r =>
            { r with status := .stale }
         (s.lane .zero).control.mode = .priming ∧ (s.lane .zero).reference.status ≠ .good)
      ∧ (let s := State.reset.onAdapt .zero fun x => { x with mode := .window, window := 1 }
         (s.lane .zero).adapt.window = 1 ∧ (s.lane .zero).control.mode ≠ .running)
      ∧ (∀ p ∈ [TransferPhase.header, .trailer, .examine],
          (moving .sweep p 0 50).transfer.phase ≠ .words ∧ (moving .sweep p 0 50).transfer.mode ≠ .copy
            ∧ (moving .sweep p 0 50).transferWords < 24)
      ∧ (∀ p ∈ [TransferPhase.words, .trailer, .header], (moving .sweep p 0 50).transfer.phase ≠ .examine)
      ∧ (moving .copy .words 0 50).transfer.mode = .copy := by decide

theorem witness_RawDifference :
    CondParams.default.negative1 = false ∧ CondParams.default.negative2 = false ∧ CondParams.default.trim1 = 16384
      ∧ CondParams.default.trim2 = 16384 := by decide

/-- Frames of three and of five words, and one whose channels are at their two limits. -/
theorem witness_SensorFrame :
    [0#16, 0, 0].length ≠ 4 ∧ [0#16, 0, 0, 0, 0].length ≠ 4
      ∧ ((32768#16).toInt = -32768 ∧ (32767#16).toInt = 32767)
      ∧ ∀ b ∈ [(-8388608 : Int), 8388352], -8388608 ≤ b ∧ b ≤ 8388352 := by decide

theorem witness_TemperatureBand :
    (16#16).extractLsb' 0 4 = 0#4 ∧ State.reset.cond.temperature = none
      ∧ (let s : State := { State.reset with cond := { Conditioner.reset with temperature := some 0 } }
         s.cond.temperature ≠ none ∧ s.cond.band.val < 2 ∧ s.cond.params.threshold2.toInt + s.cond.params.hysteresis ≤ 672
           ∧ ¬s.cond.params.threshold2.toInt + s.cond.params.hysteresis ≤ 671
           ∧ 0 < s.cond.band.val ∧ 447 < s.cond.params.threshold1.toInt - s.cond.params.hysteresis) := by decide

/-- Lane 0 expects wedge 100: 100, 101, 103, 104 and 504 fall under one clause each. -/
theorem witness_WedgeContinuity :
    let c := (service.lane .zero).control
    1 ≤ c.wedgesPerRev ∧ c.mode ≠ .off ∧ c.expectation = some 100
      ∧ ([100, 101, 103, 104, 503].map fun i : Nat => ((i : Int) - (100 : Nat)).fmod c.wedgesPerRev) = [0, 1, 3, 4, 403]
      ∧ c.wedgesPerRev ≤ 504 ∧ (State.reset.lane .zero).control.mode = .off
      ∧ (inMode State.reset .standby).lane0.control.expectation = none := by decide

/-- Lanes of the Reference Conditioner's part: OFF; STANDBY finding a fresh sample, and none; PRIMING one push short. -/
theorem witness_WedgeContinuity_of_the_conditioner :
    (State.reset.lane .zero).control.mode = .off
      ∧ (∀ fresh ∈ [true, false], ∀ m ∈ [LaneMode.standby, .priming, .running, .fault],
        let s := (inMode State.reset m).onReference .zero fun r => { r with fresh := fresh, staleCount := 1023, status := .lost }
        (s.lane .zero).control.mode ≠ .off ∧ (s.lane .zero).reference.fresh = fresh)
      ∧ (let s := State.reset.onControl .zero fun c => { c with mode := .priming, fill := 63 }
         (s.lane .zero).control.mode = .priming ∧ (s.lane .zero).control.fill + 1 = 64) := by decide

theorem witness_ServoFrame :
    receive trackWords = .servo trackFrame ∧ (service.lane .zero).control.mode = .running ∧ trackFrame.mode = .track
      ∧ ((service.onCampaign .zero fun c => { c with state := .running, requested := 1 }).lane .zero).campaign.state = .running
      ∧ (service.lane .zero).control.expectation = some 100 ∧ (service.lane .zero).control.wedgesPerRev = 504
      ∧ ([100, 103, 104].map fun i : Nat => decide (((i : Int) - 100) % 504 ≤ 3)) = [true, true, false]
      ∧ 503 < 504 ∧ ¬504 < 504 := by
  decide +kernel

/-- An engine at each place of its blocks, one stalled for want of room, and one that is not ACTIVE. -/
theorem witness_ServoFrame_movements :
    ((moving .copy .words 0 50).transfer.state = .active ∧ (moving .copy .words 0 50).transfer.mode = .copy)
      ∧ (∀ p ∈ [TransferPhase.header, .words, .trailer, .examine],
          (moving .sweep p 0 50).transfer.state = .active ∧ (moving .sweep p 0 50).transfer.mode ≠ .copy
            ∧ (moving .sweep p 0 50).transfer.phase = p)
      ∧ ((moving .dump .words 0 50).transferWords < 24 ∧ (moving .dump .words 0 50).responses.length < 32)
      ∧ (let s := { moving .dump .words 0 50 with responses := List.replicate 24 ⟨.transfer, 0⟩ }
         ¬(s.transferWords < 24 ∧ s.responses.length < 32) ∧ s.transfer.mode ≠ .copy ∧ s.transfer.phase ≠ .examine)
      ∧ State.reset.transfer.state ≠ .active := by decide

theorem witness_OffLaneFrame :
    receive trackWords = .servo trackFrame ∧ (State.reset.lane trackFrame.lane).control.mode = .off
      ∧ State.reset.decoder.command = none ∧ State.reset.transfer.state = .idle := by decide +kernel

/-- The frame's key leads to set 5; with the map entry at NONE the fallback does, and with neither no set. -/
theorem witness_SetResolution :
    service.storesCanonical ∧ (service.lane .zero).control.mode = .running
      ∧ service.mapEntry .zero (2 * 32 + 5 * 4 + service.cond.band.val) = some 5
      ∧ ((service.record 5).state = .live ∧ (service.lane .zero).selection.current = some 5)
      ∧ (let s := (withSet service 6 .ready .none).onSelection .zero fun x => { x with map := [(85, some 6)] }
         s.storesCanonical ∧ s.mapEntry .zero 85 = some 6 ∧ (s.record 6).state = .ready
           ∧ (s.lane .zero).selection.current ≠ some 6
           ∧ ∀ k < 40, (s.bankAt ((6 : SetNo).val * 64 + 10 + k)).flipped = [])
      ∧ (let s := (withSet service 6 .ready .none).onSelection .zero fun x => { x with map := [], fallback := some 6 }
         s.mapEntry .zero 85 = none ∧ (s.lane .zero).selection.fallback = some 6 ∧ (s.record 6).state = .ready)
      ∧ let s := service.onSelection .zero fun x => { x with map := [] }
        s.mapEntry .zero 85 = none ∧ (s.lane .zero).selection.fallback = none := by decide +kernel

/-- Set 6 is to become current: its taps clean but for single errors, and with a double error in the last. -/
theorem witness_SetResolution_of_bad_taps :
    ∀ c ∈ [(⟨3, [16]⟩ : Cell), ⟨3, [0, 1]⟩],
      let s := (withSet { service with bank :=
        { service.bank with words := service.bank.words ++ [(6 * 64 + 49, c)] } } 6 .ready .none).onSelection .zero
          fun x => { x with map := [(85, some 6)] }
      s.storesCanonical ∧ s.mapEntry .zero 85 = some 6 ∧ (s.record 6).state = .ready
        ∧ (s.lane .zero).selection.current ≠ some 6 ∧ (s.lane .one).selection.current ≠ some 6
        ∧ ¬(s.transfer.state = .waiting ∧ s.transfer.current = some 6)
        ∧ (∀ j < 39, (s.bankAt ((6 : SetNo).val * 64 + 10 + j)).flipped.length ≤ 1)
        ∧ s.bankAt ((6 : SetNo).val * 64 + 10 + 39) = c := by decide +kernel

theorem witness_OutputStatus :
    (State.reset.lane .zero).control.mode ≠ .running ∧ (service.lane .zero).control.mode = .running
      ∧ (service.lane .zero).selection.current = some 5 ∧ (service.lane .zero).selection.current ≠ some 6
      ∧ trackFrame.mode = .track ∧ (service.lane .zero).reference.status = .good
      ∧ (∀ w : WordNo, (service.bankAt ((5 : SetNo).val * 64 + w.val)).flipped = []) ∧ service.headerInRange 5
      ∧ (let s := service.onReference .zero fun r => { r with status := .stale }
         (s.lane .zero).reference.status = .stale)
      ∧ let s : State := { service with bank :=
          { service.bank with words := Memory.write Cell.zero service.bank.words 323 ⟨3000, [0, 1]⟩ } }
        s.storesCanonical ∧ (s.record 5).state = .live ∧ ¬(s.transfer.state = .waiting ∧ s.transfer.current = some 5)
          ∧ 2 ≤ (s.bankAt ((5 : SetNo).val * 64 + (3 : Fin 4).val)).flipped.length := by decide +kernel

/-- Single errors in CL and in a tap in use, and none in a word the filter does not read. -/
theorem witness_OutputStatus_corrected :
    let s := (service.putCell 5 3 ⟨3000, [21]⟩).putCell 5 10 ⟨12000, [0]⟩
    s.storesCanonical ∧ s.headerInRange 5 ∧ (s.lane .zero).selection.current = some 5
      ∧ (s.wordInt 5 0).toNat = 4 ∧ (s.wordInt 5 1).toNat = 1
      ∧ (([0, 1, 2, 3] ++ (List.range 4).map (10 + ·) ++ (List.range 1).map (42 + ·)).map fun w =>
          (s.bankAt ((5 : SetNo).val * 64 + w)).flipped.length) = [0, 0, 0, 1, 1, 0, 0, 0, 0] := by decide +kernel

/-- A double error in the last header word that the filter reads, in the last reference tap and the last sibling tap in use,
and in MU, DL and those taps for the adaptation. -/
theorem witness_OutputStatus_and_Adaptation_of_bad_words :
    ∀ w ∈ [3, 4, 9, 13, 42],
      let s : State := { service with bank :=
        { service.bank with words := Memory.write Cell.zero service.bank.words (5 * 64 + w) ⟨8000, [0, 1]⟩ } }
      s.storesCanonical ∧ (s.record 5).state = .live ∧ ¬(s.transfer.state = .waiting ∧ s.transfer.current = some 5)
        ∧ 2 ≤ (s.bankAt ((5 : SetNo).val * 64 + w)).flipped.length
        ∧ (w ≠ 4 → s.headerInRange 5 ∧ (s.wordInt 5 0).toNat = 4 ∧ (s.wordInt 5 1).toNat = 1 ∧ s.wordInt 5 4 ≠ 0) := by
  decide +kernel

/-- The state and frame of the worked figures of section 5, at the PES gate's two ends. -/
theorem witness_Adaptation :
    let x := service.lane .zero
    (x.control.mode = .running ∧ trackFrame.mode = .track ∧ x.selection.current = some 5
        ∧ (service.record 5).state = .live ∧ (service.record 5).frozen = false ∧ (service.record 5).hold = .none
        ∧ x.reference.settle = 0 ∧ x.adapt.mode = .free)
      ∧ (∀ e ∈ [(-4096 : Int), 3000, 4096], |e| ≤ x.adapt.pesGate) ∧ ¬|(4097 : Int)| ≤ x.adapt.pesGate
      ∧ service.storesCanonical ∧ (∀ w : WordNo, (service.bankAt ((5 : SetNo).val * 64 + w.val)).flipped = [])
      ∧ service.headerInRange 5
      ∧ ((service.wordInt 5 0).toNat = 4 ∧ (service.wordInt 5 1).toNat = 1 ∧ 1 ≤ (service.wordInt 5 4).toNat)
      ∧ |(3000 : Int)| ≤ service.wordInt 5 9 ∧ x.adapt.divergence < 63 := by decide +kernel

/-- Single errors in MU, in WL and in a tap in use; MU at 0, clean and with a single error. -/
theorem witness_Adaptation_corrected :
    (let s := ((service.putCell 5 4 ⟨2, [21]⟩).putCell 5 8 ⟨30000, [3]⟩).putCell 5 42 ⟨BitVec.ofInt 16 (-2000), [0]⟩
     s.storesCanonical ∧ s.headerInRange 5 ∧ (s.wordInt 5 0).toNat = 4 ∧ (s.wordInt 5 1).toNat = 1 ∧ (s.wordInt 5 4).toNat = 2
       ∧ (([4, 5, 6, 7, 8, 9] ++ (List.range 4).map (10 + ·) ++ (List.range 1).map (42 + ·)).map fun w =>
          (s.bankAt ((5 : SetNo).val * 64 + w)).flipped.length) = [1, 0, 0, 0, 1, 0, 0, 0, 0, 0, 1])
      ∧ ∀ flips ∈ [[], [7]],
          let s := service.putCell 5 4 ⟨0, flips⟩
          s.storesCanonical ∧ s.headerInRange 5 ∧ (s.wordInt 5 4).toNat = 0
            ∧ (s.bankAt ((5 : SetNo).val * 64 + 4)).flipped = flips := by decide +kernel

/-- The frame that raises the divergence count to 64 and closes the window: the shadow holds 40 taps, DL is 8000. R92 and
R93: the taps are the shadow's, the set is frozen, and DIVERGED stands before WINDOW DONE. -/
theorem witness_Adaptation_rolled_back :
    let s := service.onAdapt .zero fun x => { x with mode := .window, window := 1, pesGate := 8001, divergence := 63 }
    let t := s.adaptFrame { trackFrame with pes := 8001 } (some (5, .primary)) ⟨.fresh, 71, 4, 1⟩ false
    (s.storesCanonical ∧ s.headerInRange 5 ∧ s.wordInt 5 9 < |(8001 : Int)| ∧ |(8001 : Int)| ≤ (s.lane .zero).adapt.pesGate
        ∧ 0 < (s.lane .zero).adapt.window ∧ (s.lane .zero).adapt.shadow.map (fun h => h.taps.length) = some 40)
      ∧ t.notices.records.map (fun r => (r.kind, r.detail)) = [(NoticeKind.diverged, 5), (.windowDone, 0)]
      ∧ (t.record 5).frozen = true ∧ t.wordInt 5 10 = 12000 ∧ (t.lane .zero).adapt.divergence = 0
      ∧ (t.lane .zero).counters.adaptedFrame = 1 := by decide +kernel

theorem witness_CampaignCorrelations :
    (let s := service.onCampaign .zero fun c => { c with state := .running, requested := 2 }
     (s.lane .zero).control.mode = .running ∧ trackFrame.mode = .track ∧ (s.lane .zero).campaign.state = .running
       ∧ (s.lane .zero).campaign.done + 1 ≠ (s.lane .zero).campaign.requested)
      ∧ (let s := service.onCampaign .zero fun c => { c with state := .running, requested := 1 }
         (s.lane .zero).campaign.done + 1 = (s.lane .zero).campaign.requested)
      ∧ (Campaign.reset.generator = 127 ∧ Campaign.reset.signs = []
        ∧ Campaign.reset.correlations = Vector.replicate 16 0 ∧ [3000#16].length ≤ 65535) := by decide

theorem witness_LanesAreIndependent :
    receive trackWords = .servo trackFrame ∧ service.serviceCoherent ∧ service.transfer.state = .idle
      ∧ exec (.servoFrame trackWords .none) service = .next (after (.servoFrame trackWords .none) service) :=
  ⟨by decide +kernel, by decide +kernel, by decide, rfl⟩

theorem witness_DiscardedFrame :
    receive [] = .discarded .badCheck ∧ receive [0] = .discarded .badCheck
      ∧ receive (sealFrame [0]) = .discarded .undefinedKind ∧ receive (sealFrame [49152]) = .discarded .undefinedKind
      ∧ receive (sealFrame [16384]) = .discarded .malformed
      ∧ (∀ words ∈ [[16384, 0, 0], [16384, 0, 0, 0, 0], [32768], [32768 + 9], [32768 + 9 * 16 + 1, 0], [32768 + 2, 0]],
          receive (sealFrame words) = .discarded .malformed) := by decide +kernel

theorem witness_FramesAreReceivedAsSent :
    (8#4).toNat ≤ 8 ∧ 1 ≤ [0#16].length ∧ [0#16].length ≤ 8 ∧ (List.replicate 8 0#16).length ≤ 8 := by decide

/-- One wrong place in the first word, two in different words, and two in the check word. -/
theorem witness_LinkCheckFindsWrongPlaces :
    let words := trackWords.dropLast
    words.length ≤ 9
      ∧ [[32768#16, 0, 0, 0, 0], [1, 0, 0, 32768, 0], [0, 0, 0, 0, 32769]].all (fun wrong =>
          wrong.length = words.length + 1
            && [1, 2].contains (wrong.map fun m => ((List.range 16).filter fun i => m.getLsbD i).length).sum) = true := by
  decide +kernel

theorem witness_NamesStayCounted : service.storesCanonical ∧ service.namesCounted := by decide +kernel

theorem witness_QueuesAndCountersStayBounded :
    service.responsesBounded ∧ service.notices.sound ∧ service.countersBounded := by decide +kernel

theorem witness_ValuesStayInRange : service.cond.sound ∧ service.lanesInRange ∧ service.decoder.sound :=
  ⟨by decide, by decide +kernel, by decide⟩

theorem witness_ServiceAndHoldsStayCoherent : service.serviceCoherent ∧ service.transferCoherent :=
  ⟨by decide +kernel, by decide +kernel⟩

theorem witness_ReadySetsStayInRange :
    service.storesCanonical ∧ service.serviceCoherent ∧ service.transferCoherent ∧ service.setsInRange := by
  refine ⟨by decide, by decide +kernel, by decide +kernel, by decide +kernel, ?_, by decide⟩
  have taps : service.lane0.adapt.shadow.all
      (fun h => h.taps.all fun v => decide (|v.toInt| ≤ service.wordInt h.set 8)) = true := by decide +kernel
  intro h hh v hv
  rw [Option.mem_def] at hh
  rw [hh] at taps
  exact of_decide_eq_true (List.all_eq_true.mp taps v hv)

/-- A step from the worked state answers a next state, so the statements of every step speak of one. -/
theorem witness_of_a_step :
    step (service.withPending [.servoFrame trackWords .none]) = .next (after (.servoFrame trackWords .none) service) := rfl

theorem witness_NoticesMergeAppendOrAreLost :
    (let q : NoticeQueue := { records := [⟨.sensorClip, none, 1, 255⟩, ⟨.sensorGap, none, 0, 1⟩], lost := 0 }
     q.sound ∧ q.records = [⟨.sensorClip, none, 1, 255⟩] ++ ⟨.sensorGap, none, 0, 1⟩ :: [])
      ∧ (let q : NoticeQueue :=
          { records := (List.range 16).map fun d => ⟨.setQuarantined, none, d, 1⟩, lost := 255 }
         q.sound ∧ q.records.length = 16
           ∧ ∀ r ∈ q.records, ¬(r.kind = .sensorGap ∧ r.lane = none ∧ r.detail = 0)) := by decide +kernel

end Sys2Proof.Tests
end

