-- ==== Sys2Proof/Proofs/Reads.lean ====
section
/-! SUPPORT. What checked reads and the engine's movements do to a lane and to the transfer record: a lane is left
alone, or loses its current set when a double error is found in it (R36, R51). -/

namespace Sys2Proof.Machine

variable (s : State) (l k : Lane) (n : SetNo)

/-! ## Inductions over reads -/

/-- A property that every checked read keeps is kept by reads up to the first double error. -/
theorem State.readUntilDouble_induction {P : State → Prop} (keep : ∀ (u : State) (w : Nat), P u → P (u.readWord n w).1)
    (h : P s) (ws : List Nat) : P (s.readUntilDouble n ws).1 := by
  induction ws generalizing s with
  | nil => exact h
  | cons w ws ih =>
    have h1 := keep s w h
    unfold State.readUntilDouble
    split <;> rename_i e <;> rw [e] at h1
    · exact h1
    · have h2 := ih _ h1
      split <;> rename_i e2 <;> rw [e2] at h2 <;> exact h2

/-- A property that every checked read keeps is kept by reads that go on past double errors. -/
theorem State.readAll_induction {P : State → Prop} (keep : ∀ (u : State) (w : Nat), P u → P (u.readWord n w).1)
    (h : P s) (ws : List Nat) : P (s.readAll n ws).1 := by
  induction ws generalizing s with
  | nil => exact h
  | cons w ws ih => exact ih _ (keep s w h)

/-! ## A lane under checked reads of a set -/

/-- Reads of set `n` have left the lane as it was, or it has lost `n`, which was its current set. -/
def LaneState.KeptOrLost (n : SetNo) (x y : LaneState) : Prop :=
  y = x ∨ x.selection.current = some n ∧ y = x.withoutSet

theorem LaneState.KeptOrLost.refl (x : LaneState) : x.KeptOrLost n x := .inl rfl

variable {n} in
theorem LaneState.KeptOrLost.trans {x y z : LaneState} (h1 : x.KeptOrLost n y) (h2 : y.KeptOrLost n z) :
    x.KeptOrLost n z := by
  rcases h1 with rfl | ⟨hc, rfl⟩
  · exact h2
  · rcases h2 with rfl | ⟨hc2, -⟩
    · exact .inr ⟨hc, rfl⟩
    · cases hc2

variable {n} in
/-- A lane with another current set, or none, is kept. -/
theorem LaneState.KeptOrLost.kept {x y : LaneState} (h : x.KeptOrLost n y) (hc : x.selection.current ≠ some n) : y = x :=
  h.resolve_right fun e => hc e.1

theorem State.dropCurrentIf_lane_eq :
    (s.dropCurrentIf n l).lane k =
      if k = l ∧ (s.lane k).selection.current = some n then (s.lane k).withoutSet else s.lane k := by
  rcases Lane.eq_or_other k l with rfl | rfl <;> unfold State.dropCurrentIf <;> split <;>
    simp_all [LaneState.withoutSet]

/-- The quarantine of a set takes it from the lane whose current set it is (R51). -/
theorem State.quarantine_lane_eq :
    (s.quarantine n).lane k =
      if (s.lane k).selection.current = some n then (s.lane k).withoutSet else s.lane k := by
  simp only [State.quarantine, State.sourceQuarantined_lane, State.dropCurrentIf_lane_eq, State.notify_lane,
    State.setSetState_lane]
  cases k <;> simp

theorem State.doubleError_keptOrLost : (s.lane k).KeptOrLost n ((s.doubleError n).lane k) := by
  have hq : ∀ u : State, u.lane k = s.lane k → (s.lane k).KeptOrLost n ((u.quarantine n).lane k) := by
    intro u hu
    rw [State.quarantine_lane_eq, hu]
    split
    · exact .inr ⟨‹_›, rfl⟩
    · exact .inl rfl
  unfold State.doubleError
  split
  · exact .inl (by simp)
  · exact .inl (by simp)
  · exact hq _ (by simp)

theorem State.readWord_keptOrLost (w : Nat) : (s.lane k).KeptOrLost n ((s.readWord n w).1.lane k) := by
  unfold State.readWord
  split
  · exact .refl n _
  · exact .inl (by simp)
  · exact s.doubleError_keptOrLost k n

theorem State.readUntilDouble_keptOrLost (ws : List Nat) :
    (s.lane k).KeptOrLost n ((s.readUntilDouble n ws).1.lane k) :=
  s.readUntilDouble_induction n (P := fun u => (s.lane k).KeptOrLost n (u.lane k))
    (fun u w h => h.trans (u.readWord_keptOrLost k n w)) (.refl n _) ws

theorem State.readAll_keptOrLost (ws : List Nat) : (s.lane k).KeptOrLost n ((s.readAll n ws).1.lane k) :=
  s.readAll_induction n (P := fun u => (s.lane k).KeptOrLost n (u.lane k))
    (fun u w h => h.trans (u.readWord_keptOrLost k n w)) (.refl n _) ws

/-! ## The transfer record under checked reads -/

variable {s} in
/-- Only a transfer that waits learns of a double error. -/
theorem State.readWord_transfer (h : s.transfer.state ≠ .waiting) (w : Nat) :
    (s.readWord n w).1.transfer = s.transfer := by
  unfold State.readWord State.doubleError State.quarantine State.sourceQuarantined
  split
  · rfl
  · simp
  · split
    · rfl
    · rfl
    · rw [if_neg (by simp [h])]; simp

variable {s} in
theorem State.readUntilDouble_transfer (h : s.transfer.state ≠ .waiting) (ws : List Nat) :
    (s.readUntilDouble n ws).1.transfer = s.transfer :=
  s.readUntilDouble_induction n (P := fun u => u.transfer = s.transfer)
    (fun u w hu => by rw [u.readWord_transfer n (by rw [hu]; exact h), hu]) rfl ws

/-! ## The engine's movements -/

variable {s} in
/-- An engine that is not ACTIVE makes no movement (R170, R171). -/
theorem State.engineMove_of_not_active (h : s.transfer.state ≠ .active) : s.engineMove = s := by
  simp [State.engineMove, State.due, h]

variable {s} in
theorem State.engineMoves_of_not_active (h : s.transfer.state ≠ .active) (j : Nat) : s.engineMoves j = s := by
  induction j with
  | zero => rfl
  | succ j ih => rw [State.engineMoves_succ, State.engineMove_of_not_active h, ih]

@[simp] theorem State.deliver_outside (v : Word) :
    (s.deliver v).pending = s.pending ∧ (s.deliver v).cond = s.cond ∧ (s.deliver v).decoder = s.decoder
      ∧ (s.deliver v).lane0 = s.lane0 ∧ (s.deliver v).lane1 = s.lane1 ∧ (s.deliver v).link = s.link
      ∧ (s.deliver v).ports = s.ports := by
  unfold State.deliver; split <;> (try split) <;> simp

@[simp] theorem State.advanceWord_outside :
    s.advanceWord.pending = s.pending ∧ s.advanceWord.cond = s.cond ∧ s.advanceWord.decoder = s.decoder
      ∧ s.advanceWord.lane0 = s.lane0 ∧ s.advanceWord.lane1 = s.lane1 ∧ s.advanceWord.link = s.link
      ∧ s.advanceWord.ports = s.ports := by
  simp only [State.advanceWord]; split <;> split <;> simp

@[simp] theorem State.countBadWord_outside :
    s.countBadWord.pending = s.pending ∧ s.countBadWord.cond = s.cond ∧ s.countBadWord.decoder = s.decoder
      ∧ s.countBadWord.lane0 = s.lane0 ∧ s.countBadWord.lane1 = s.lane1 ∧ s.countBadWord.link = s.link
      ∧ s.countBadWord.ports = s.ports := by
  simp [State.countBadWord]

@[simp] theorem State.appendHeader_outside :
    (s.appendHeader n).pending = s.pending ∧ (s.appendHeader n).cond = s.cond ∧ (s.appendHeader n).decoder = s.decoder
      ∧ (s.appendHeader n).lane0 = s.lane0 ∧ (s.appendHeader n).lane1 = s.lane1 ∧ (s.appendHeader n).link = s.link
      ∧ (s.appendHeader n).ports = s.ports := by
  simp [State.appendHeader]

@[simp] theorem State.sweepNext_outside :
    (s.sweepNext n).pending = s.pending ∧ (s.sweepNext n).cond = s.cond ∧ (s.sweepNext n).decoder = s.decoder
      ∧ (s.sweepNext n).lane0 = s.lane0 ∧ (s.sweepNext n).lane1 = s.lane1 ∧ (s.sweepNext n).link = s.link
      ∧ (s.sweepNext n).ports = s.ports := by
  simp [State.sweepNext]

@[simp] theorem State.appendTrailer_outside :
    (s.appendTrailer n).pending = s.pending ∧ (s.appendTrailer n).cond = s.cond
      ∧ (s.appendTrailer n).decoder = s.decoder ∧ (s.appendTrailer n).lane0 = s.lane0
      ∧ (s.appendTrailer n).lane1 = s.lane1 ∧ (s.appendTrailer n).link = s.link
      ∧ (s.appendTrailer n).ports = s.ports := by
  simp only [State.appendTrailer]; split <;> (try split) <;> simp

@[simp] theorem State.examineSet_outside (cur : Option SetNo) :
    (s.examineSet cur).pending = s.pending ∧ (s.examineSet cur).cond = s.cond
      ∧ (s.examineSet cur).decoder = s.decoder ∧ (s.examineSet cur).lane0 = s.lane0
      ∧ (s.examineSet cur).lane1 = s.lane1 ∧ (s.examineSet cur).link = s.link
      ∧ (s.examineSet cur).ports = s.ports := by
  simp only [State.examineSet]; split <;> (try split) <;> simp [State.holdSource]

@[simp] theorem State.moveWord_outside :
    (s.moveWord n).pending = s.pending ∧ (s.moveWord n).cond = s.cond ∧ (s.moveWord n).decoder = s.decoder
      ∧ (s.moveWord n).link = s.link ∧ (s.moveWord n).ports = s.ports := by
  have h := State.readWord_outside { s with transfer := { s.transfer with remaining := s.transfer.remaining - 1 } } n
    s.transfer.word
  simp only [State.moveWord]
  split <;> rename_i e <;> rw [e] at h <;> (try split) <;> simp_all

@[simp] theorem State.engineMove_outside :
    s.engineMove.pending = s.pending ∧ s.engineMove.cond = s.cond ∧ s.engineMove.decoder = s.decoder
      ∧ s.engineMove.link = s.link ∧ s.engineMove.ports = s.ports := by
  unfold State.engineMove State.move
  split <;> (try split) <;> simp

@[simp] theorem State.engineMoves_outside (j : Nat) :
    (s.engineMoves j).pending = s.pending ∧ (s.engineMoves j).cond = s.cond ∧ (s.engineMoves j).decoder = s.decoder
      ∧ (s.engineMoves j).link = s.link ∧ (s.engineMoves j).ports = s.ports := by
  induction j generalizing s with
  | zero => simp [State.engineMoves]
  | succ j ih => simp [State.engineMoves, ih]

/-- Lanes that stand alike read alike. -/
theorem State.lane_congr {s t : State} (h0 : t.lane0 = s.lane0) (h1 : t.lane1 = s.lane1) : t.lane k = s.lane k := by
  cases k
  · exact h0
  · exact h1

@[simp] theorem State.deliver_lane (v : Word) : (s.deliver v).lane k = s.lane k :=
  State.lane_congr k (by simp) (by simp)
@[simp] theorem State.advanceWord_lane : s.advanceWord.lane k = s.lane k := State.lane_congr k (by simp) (by simp)
@[simp] theorem State.countBadWord_lane : s.countBadWord.lane k = s.lane k := State.lane_congr k (by simp) (by simp)

/-- A word movement reads one word of its set, and touches a lane through that read alone (R169). -/
theorem State.moveWord_keptOrLost : (s.lane k).KeptOrLost n ((s.moveWord n).lane k) := by
  have h := State.readWord_keptOrLost { s with transfer := { s.transfer with remaining := s.transfer.remaining - 1 } } k n
    s.transfer.word
  rw [State.withTransfer_lane] at h
  simp only [State.moveWord]
  split <;> rename_i e <;> rw [e] at h
  · simpa using h
  · split <;> simpa using h

/-- A movement of the engine leaves a lane alone, or takes its current set from it. -/
theorem State.engineMove_lane_cases :
    s.engineMove.lane k = s.lane k ∨ s.engineMove.lane k = (s.lane k).withoutSet := by
  unfold State.engineMove State.move
  split
  · split
    · exact (s.moveWord_keptOrLost k _).imp_right And.right
    · exact .inl (State.lane_congr k (by simp) (by simp))
    · exact .inl (State.lane_congr k (by simp) (by simp))
    · exact .inl (State.lane_congr k (by simp) (by simp))
  · exact .inl rfl

/-! ## The stages of a servo frame (R134), named -/

/-- A servo frame's state after the Lane Controller and the Reference Conditioner, and the engine's movements that
follow each. -/
def State.conditioned (s : State) (f : ServoFields) (slots : EngineSlots) : State :=
  (((s.judgeWedge f.lane f.wedge).1.engineMoves slots.afterLaneControl).conditionFrame f.lane
    (s.judgeWedge f.lane f.wedge).2 f.input).engineMoves slots.afterConditioner

/-- Its state after the Set Selector as well, and the set resolved. -/
def State.selected (s : State) (f : ServoFields) (slots : EngineSlots) : State × Option (SetNo × Route) :=
  (((s.conditioned f slots).selectFrame f).1.engineMoves slots.afterSelector, ((s.conditioned f slots).selectFrame f).2)

/-- The stages that follow the filter's decision: the probe, the output command, the adaptation, the drive frame and
the lane fault. -/
def State.actOn (s : State) (f : ServoFields) (slots : EngineSlots) (found : Option (SetNo × Route)) (d : Decision) :
    State :=
  let s2 := s.engineMoves slots.afterFilter
  let sum := outputSum f.input d.correction (s2.frameProbe f)
  let s3 := ((s2.probeFrame f).formOutput f.lane sum).engineMoves slots.afterProbe
  let s4 := (s3.adaptFrame f found d (s2.stepsProbe f)).engineMoves slots.afterAdaptation
  (s4.sendDrive f.lane d.status f.wedge (sat16 sum)).checkFault f.lane

/-- The lane path is these stages in their order. -/
theorem State.lanePath_eq (f : ServoFields) (slots : EngineSlots) :
    s.lanePath f slots =
      (let d := (s.selected f slots).1.decideFrame f (s.selected f slots).2
       (d.1.actOn f slots (s.selected f slots).2 d.2, d.2)) := rfl

/-! ## What the stages of a servo frame leave alone: the queue, the conditioner's part-wide values, the decoder and
the link -/

@[simp] theorem State.slipLane_outside (d : Nat) :
    (s.slipLane l d).pending = s.pending ∧ (s.slipLane l d).cond = s.cond
      ∧ (s.slipLane l d).decoder = s.decoder ∧ (s.slipLane l d).link = s.link := by
  simp only [State.slipLane]; split <;> simp

@[simp] theorem State.applyVerdict_outside (v : Verdict) :
    (s.applyVerdict l v).pending = s.pending ∧ (s.applyVerdict l v).cond = s.cond
      ∧ (s.applyVerdict l v).decoder = s.decoder ∧ (s.applyVerdict l v).link = s.link := by
  unfold State.applyVerdict; split <;> simp

@[simp] theorem State.judgeWedge_outside (w : Word) :
    (s.judgeWedge l w).1.pending = s.pending ∧ (s.judgeWedge l w).1.cond = s.cond
      ∧ (s.judgeWedge l w).1.decoder = s.decoder ∧ (s.judgeWedge l w).1.link = s.link := by
  simp only [State.judgeWedge]; split <;> simp

@[simp] theorem State.raiseSettle_outside (j : Nat) :
    (s.raiseSettle l j).pending = s.pending ∧ (s.raiseSettle l j).cond = s.cond
      ∧ (s.raiseSettle l j).decoder = s.decoder ∧ (s.raiseSettle l j).link = s.link := by
  simp [State.raiseSettle]

@[simp] theorem State.examineFresh_outside :
    (s.examineFresh l).pending = s.pending ∧ (s.examineFresh l).cond = s.cond
      ∧ (s.examineFresh l).decoder = s.decoder ∧ (s.examineFresh l).link = s.link := by
  simp only [State.examineFresh]; split <;> split <;> simp

@[simp] theorem State.pushSample_outside :
    (s.pushSample l).pending = s.pending ∧ (s.pushSample l).cond = s.cond
      ∧ (s.pushSample l).decoder = s.decoder ∧ (s.pushSample l).link = s.link := by
  simp [State.pushSample]

@[simp] theorem State.pushSamples_outside (j : Nat) :
    (s.pushSamples l j).pending = s.pending ∧ (s.pushSamples l j).cond = s.cond
      ∧ (s.pushSamples l j).decoder = s.decoder ∧ (s.pushSamples l j).link = s.link := by
  induction j generalizing s with
  | zero => simp [State.pushSamples]
  | succ j ih => simp [State.pushSamples, ih]

@[simp] theorem State.completePriming_outside :
    (s.completePriming l).pending = s.pending ∧ (s.completePriming l).cond = s.cond
      ∧ (s.completePriming l).decoder = s.decoder ∧ (s.completePriming l).link = s.link := by
  unfold State.completePriming; split <;> simp

@[simp] theorem State.feedLane_outside (v : Verdict) :
    (s.feedLane l v).pending = s.pending ∧ (s.feedLane l v).cond = s.cond
      ∧ (s.feedLane l v).decoder = s.decoder ∧ (s.feedLane l v).link = s.link := by
  simp only [State.feedLane]; split <;> split <;> simp

@[simp] theorem State.conditionFrame_outside (v : Verdict) (input : Word) :
    (s.conditionFrame l v input).pending = s.pending ∧ (s.conditionFrame l v input).cond = s.cond
      ∧ (s.conditionFrame l v input).decoder = s.decoder ∧ (s.conditionFrame l v input).link = s.link := by
  unfold State.conditionFrame State.pushSibling; split <;> simp

@[simp] theorem State.applyBand_outside (b : Bool) :
    (s.applyBand l b).pending = s.pending ∧ (s.applyBand l b).cond = s.cond
      ∧ (s.applyBand l b).decoder = s.decoder ∧ (s.applyBand l b).link = s.link := by
  unfold State.applyBand; split <;> simp

@[simp] theorem State.retireCurrent_outside :
    (s.retireCurrent l).pending = s.pending ∧ (s.retireCurrent l).cond = s.cond
      ∧ (s.retireCurrent l).decoder = s.decoder ∧ (s.retireCurrent l).link = s.link := by
  unfold State.retireCurrent; split <;> (try split) <;> simp

@[simp] theorem State.captureShadow_outside :
    (s.captureShadow l n).pending = s.pending ∧ (s.captureShadow l n).cond = s.cond
      ∧ (s.captureShadow l n).decoder = s.decoder ∧ (s.captureShadow l n).link = s.link := by
  have h := s.readUntilDouble_outside n tapWords
  unfold State.captureShadow
  split <;> rename_i e <;> rw [e] at h <;> simp_all

@[simp] theorem State.select_outside (found : Option (SetNo × Route)) :
    (s.select l found).pending = s.pending ∧ (s.select l found).cond = s.cond
      ∧ (s.select l found).decoder = s.decoder ∧ (s.select l found).link = s.link := by
  unfold State.select State.enterLive; split <;> (try split) <;> simp

@[simp] theorem State.selectFrame_outside (f : ServoFields) :
    (s.selectFrame f).1.pending = s.pending ∧ (s.selectFrame f).1.cond = s.cond
      ∧ (s.selectFrame f).1.decoder = s.decoder ∧ (s.selectFrame f).1.link = s.link := by
  simp only [State.selectFrame]; split <;> simp

@[simp] theorem State.computeCorrection_outside :
    (s.computeCorrection l n).1.pending = s.pending ∧ (s.computeCorrection l n).1.cond = s.cond
      ∧ (s.computeCorrection l n).1.decoder = s.decoder ∧ (s.computeCorrection l n).1.link = s.link := by
  have h := s.readUntilDouble_outside n [0, 1, 2, 3]
  unfold State.computeCorrection
  split
  · rename_i s1 tr ts _ _ e
    rw [e] at h
    have h2 := s1.readUntilDouble_outside n (usedTapWords (tapCount 32 tr) (tapCount 8 ts))
    split <;> rename_i e2 <;> rw [e2] at h2 <;> simp_all [State.applyTaps, State.freshFrame]
  · rename_i e
    rw [e] at h
    simp_all

@[simp] theorem State.decideFrame_outside (f : ServoFields) (found : Option (SetNo × Route)) :
    (s.decideFrame f found).1.pending = s.pending ∧ (s.decideFrame f found).1.cond = s.cond
      ∧ (s.decideFrame f found).1.decoder = s.decoder ∧ (s.decideFrame f found).1.link = s.link := by
  simp only [State.decideFrame, State.bypassFrame, State.heldFrame]
  split_ifs <;> (try split) <;> simp

@[simp] theorem State.countProbeStep_outside :
    (s.countProbeStep l).pending = s.pending ∧ (s.countProbeStep l).cond = s.cond
      ∧ (s.countProbeStep l).decoder = s.decoder ∧ (s.countProbeStep l).link = s.link := by
  simp only [State.countProbeStep]; split <;> simp

@[simp] theorem State.probeFrame_outside (f : ServoFields) :
    (s.probeFrame f).pending = s.pending ∧ (s.probeFrame f).cond = s.cond
      ∧ (s.probeFrame f).decoder = s.decoder ∧ (s.probeFrame f).link = s.link := by
  unfold State.probeFrame; split <;> simp

@[simp] theorem State.formOutput_outside (sum : Int) :
    (s.formOutput l sum).pending = s.pending ∧ (s.formOutput l sum).cond = s.cond
      ∧ (s.formOutput l sum).decoder = s.decoder ∧ (s.formOutput l sum).link = s.link := by
  rw [State.formOutput_eq]; simp

@[simp] theorem State.raiseDivergence_outside :
    (s.raiseDivergence l n).pending = s.pending ∧ (s.raiseDivergence l n).cond = s.cond
      ∧ (s.raiseDivergence l n).decoder = s.decoder ∧ (s.raiseDivergence l n).link = s.link := by
  unfold State.raiseDivergence State.rollback; split <;> simp

@[simp] theorem State.countDivergence_outside (e : Int) (dl : Word) :
    (s.countDivergence l n e dl).pending = s.pending ∧ (s.countDivergence l n e dl).cond = s.cond
      ∧ (s.countDivergence l n e dl).decoder = s.decoder ∧ (s.countDivergence l n e dl).link = s.link := by
  unfold State.countDivergence; split <;> simp

@[simp] theorem State.countWindow_outside :
    (s.countWindow l).pending = s.pending ∧ (s.countWindow l).cond = s.cond
      ∧ (s.countWindow l).decoder = s.decoder ∧ (s.countWindow l).link = s.link := by
  simp only [State.countWindow]; split <;> (try split) <;> simp

@[simp] theorem State.adaptTaps_outside (tr ts : Nat) (e : Int) (h : AdaptHeader) (taps : List Word) :
    (s.adaptTaps l n tr ts e h taps).pending = s.pending ∧ (s.adaptTaps l n tr ts e h taps).cond = s.cond
      ∧ (s.adaptTaps l n tr ts e h taps).decoder = s.decoder ∧ (s.adaptTaps l n tr ts e h taps).link = s.link := by
  simp [State.adaptTaps, State.writeTaps]

@[simp] theorem State.adaptSet_outside (tr ts : Nat) (e : Int) :
    (s.adaptSet l n tr ts e).pending = s.pending ∧ (s.adaptSet l n tr ts e).cond = s.cond
      ∧ (s.adaptSet l n tr ts e).decoder = s.decoder ∧ (s.adaptSet l n tr ts e).link = s.link := by
  have h1 := s.readWord_outside n 4
  unfold State.adaptSet
  split <;> rename_i e1 <;> rw [e1] at h1
  · simp_all
  · split
    · simp_all
    · rename_i s1 _ _
      have h2 := s1.readUntilDouble_outside n [5, 6, 7, 8, 9]
      split
      · rename_i s2 _ _ _ _ _ e2
        rw [e2] at h2
        have h3 := s2.readUntilDouble_outside n (usedTapWords tr ts)
        split <;> rename_i e3 <;> rw [e3] at h3 <;> simp_all
      · rename_i e2
        rw [e2] at h2
        simp_all

@[simp] theorem State.adaptFrame_outside (f : ServoFields) (found : Option (SetNo × Route)) (d : Decision) (probed : Bool) :
    (s.adaptFrame f found d probed).pending = s.pending ∧ (s.adaptFrame f found d probed).cond = s.cond
      ∧ (s.adaptFrame f found d probed).decoder = s.decoder ∧ (s.adaptFrame f found d probed).link = s.link := by
  unfold State.adaptFrame; split <;> (try split) <;> simp

@[simp] theorem State.faultLane_outside :
    (s.faultLane l).pending = s.pending ∧ (s.faultLane l).cond = s.cond
      ∧ (s.faultLane l).decoder = s.decoder ∧ (s.faultLane l).link = s.link := by
  simp [State.faultLane]

@[simp] theorem State.checkFault_outside :
    (s.checkFault l).pending = s.pending ∧ (s.checkFault l).cond = s.cond
      ∧ (s.checkFault l).decoder = s.decoder ∧ (s.checkFault l).link = s.link := by
  unfold State.checkFault; split <;> simp

@[simp] theorem State.actOn_outside (f : ServoFields) (slots : EngineSlots) (found : Option (SetNo × Route)) (d : Decision) :
    (s.actOn f slots found d).pending = s.pending ∧ (s.actOn f slots found d).cond = s.cond
      ∧ (s.actOn f slots found d).decoder = s.decoder ∧ (s.actOn f slots found d).link = s.link := by
  simp [State.actOn]

@[simp] theorem State.lanePath_outside (f : ServoFields) (slots : EngineSlots) :
    (s.lanePath f slots).1.pending = s.pending ∧ (s.lanePath f slots).1.cond = s.cond
      ∧ (s.lanePath f slots).1.decoder = s.decoder ∧ (s.lanePath f slots).1.link = s.link := by
  rw [State.lanePath_eq]; simp [State.selected, State.conditioned]

end Sys2Proof.Machine
end

