-- ==== Sys2Proof/Proofs/LaneRanges.lean ====
section
/-! SUPPORT. The ranges of a lane's values (R11, R13, R17, R70, R91, R99, R103, R104, R120, section 7.4), block by
block, and that every shared operation keeps them. -/

namespace Sys2Proof.Machine

/-- A lane's share of the Reference Conditioner is in range (R11, R13). -/
structure Reference.InRange (r : Reference) : Prop where
  stale : r.staleCount ≤ 1023
  settle : r.settle ≤ 64

/-- A lane's Lane Controller values are in range (R17, section 7.4, R120). -/
structure Control.InRange (c : Control) : Prop where
  fill : c.fill ≤ 64
  alignment : c.alignment ≤ 15
  wedges_pos : 1 ≤ c.wedgesPerRev
  wedges : c.wedgesPerRev ≤ 1024
  stale_pos : 1 ≤ c.staleLimit
  stale : c.staleLimit ≤ 255
  hold : c.holdLength ≤ 255
  expectation : ∀ e ∈ c.expectation, e < c.wedgesPerRev

/-- A lane's adaptation values are in range (R91, section 7.4). -/
structure Adaptation.InRange (a : Adaptation) : Prop where
  divergence : a.divergence ≤ 63
  window : a.window ≤ 65535
  gate : a.pesGate ≤ 32767

/-- A lane's values are in range, its saturation run up to `run`; a run of 32 stands only in RUNNING, between the
output command that makes it and the check that ends it (R70, R71). -/
structure LaneState.InRange (run : Nat) (x : LaneState) : Prop where
  reference : x.reference.InRange
  control : x.control.InRange
  adapt : x.adapt.InRange
  campaign : x.campaign.sound
  run_le : x.filter.saturationRun ≤ run
  running : 31 < x.filter.saturationRun → x.control.mode = .running

/-- The model's words for a lane in range. -/
theorem LaneState.inRange_iff (x : LaneState) :
    x.InRange 31 ↔ x.countsInRange ∧ x.paramsInRange ∧ x.campaign.sound := by
  constructor
  · rintro ⟨⟨h1, h2⟩, ⟨c1, c2, c3, c4, c5, c6, c7, c8⟩, ⟨a1, a2, a3⟩, hc, hr, -⟩
    exact ⟨⟨h1, h2, c1, hr, a1, a2⟩, ⟨c2, c3, c4, c5, c6, c7, a3, c8⟩, hc⟩
  · rintro ⟨⟨h1, h2, c1, hr, a1, a2⟩, ⟨c2, c3, c4, c5, c6, c7, a3, c8⟩, hc⟩
    exact ⟨⟨h1, h2⟩, ⟨c1, c2, c3, c4, c5, c6, c7, c8⟩, ⟨a1, a2, a3⟩, hc, hr, fun h => by omega⟩

theorem State.lanesInRange_iff (s : State) : s.lanesInRange ↔ ∀ k : Lane, (s.lane k).InRange 31 := by
  simp only [LaneState.inRange_iff]
  exact ⟨fun h k => by cases k; exacts [h.1, h.2], fun h => ⟨h .zero, h .one⟩⟩

/-! ## Changes of one block of a lane -/

section
variable {s : State} {l k : Lane} {run : Nat}

theorem State.onReference_inRange {f : Reference → Reference}
    (hf : (s.lane l).reference.InRange → (f (s.lane l).reference).InRange) (h : (s.lane k).InRange run) :
    ((s.onReference l f).lane k).InRange run := by
  rcases Lane.eq_or_other k l with rfl | rfl
  · rw [State.onReference_lane]; exact { h with reference := hf h.reference }
  · rwa [State.onReference_other]

theorem State.onControl_inRange {f : Control → Control}
    (hf : (s.lane l).control.InRange → (f (s.lane l).control).InRange) (h : (s.lane k).InRange 31) :
    ((s.onControl l f).lane k).InRange 31 := by
  rcases Lane.eq_or_other k l with rfl | rfl
  · rw [State.onControl_lane]
    exact { h with control := hf h.control, running := fun hr => absurd h.run_le (Nat.not_le.mpr hr) }
  · rwa [State.onControl_other]

theorem State.onAdapt_inRange {f : Adaptation → Adaptation}
    (hf : (s.lane l).adapt.InRange → (f (s.lane l).adapt).InRange) (h : (s.lane k).InRange run) :
    ((s.onAdapt l f).lane k).InRange run := by
  rcases Lane.eq_or_other k l with rfl | rfl
  · rw [State.onAdapt_lane]; exact { h with adapt := hf h.adapt }
  · rwa [State.onAdapt_other]

theorem State.onCampaign_inRange {f : Campaign → Campaign}
    (hf : (s.lane l).campaign.sound → (f (s.lane l).campaign).sound) (h : (s.lane k).InRange run) :
    ((s.onCampaign l f).lane k).InRange run := by
  rcases Lane.eq_or_other k l with rfl | rfl
  · rw [State.onCampaign_lane]; exact { h with campaign := hf h.campaign }
  · rwa [State.onCampaign_other]

theorem State.onSelection_inRange {f : Selection → Selection} (h : (s.lane k).InRange run) :
    ((s.onSelection l f).lane k).InRange run := by
  rcases Lane.eq_or_other k l with rfl | rfl
  · rw [State.onSelection_lane]; exact { h with }
  · rwa [State.onSelection_other]

theorem State.onCounters_inRange {f : LaneCounters → LaneCounters} (h : (s.lane k).InRange run) :
    ((s.onCounters l f).lane k).InRange run := by
  rcases Lane.eq_or_other k l with rfl | rfl
  · rw [State.onCounters_lane]; exact { h with }
  · rwa [State.onCounters_other]

/-- A change of the held correction alone (R58). -/
theorem State.onFilter_inRange {f : Filter → Filter} (hf : (f (s.lane l).filter).saturationRun = (s.lane l).filter.saturationRun)
    (h : (s.lane k).InRange run) : ((s.onFilter l f).lane k).InRange run := by
  rcases Lane.eq_or_other k l with rfl | rfl
  · rw [State.onFilter_lane]; exact { h with run_le := hf ▸ h.run_le, running := fun hr => h.running (hf ▸ hr) }
  · rwa [State.onFilter_other]

end

/-! ## Reads, the engine and a departure -/

section
variable {s : State} {l k : Lane} {n : SetNo} {run : Nat}

theorem LaneState.InRange.withoutSet {x : LaneState} (h : x.InRange run) : x.withoutSet.InRange run :=
  { h with adapt := { h.adapt with divergence := Nat.zero_le _ } }

theorem LaneState.KeptOrLost.inRange {x y : LaneState} (hk : x.KeptOrLost n y) (h : x.InRange run) : y.InRange run := by
  rcases hk with rfl | ⟨-, rfl⟩
  · exact h
  · exact h.withoutSet

/-- A lane that has left RUNNING has no saturation run. -/
theorem LaneState.InRange.departed {x : LaneState} (h : x.InRange run) (next : LaneMode) :
    (x.departed next).InRange 31 where
  reference := h.reference
  control := { h.control with }
  adapt := ⟨Nat.zero_le _, Nat.zero_le _, h.adapt.gate⟩
  campaign := by
    obtain ⟨h1, h2, -, h4⟩ := h.campaign
    dsimp only [LaneState.departed]
    split
    · exact ⟨h1, h2, nofun, h4⟩
    · exact h.campaign
  run_le := Nat.zero_le _
  running := nofun

theorem State.leaveRunning_inRange (d : Nat) (next : LaneMode) (h : (s.lane k).InRange 31) :
    ((s.leaveRunning l d next).lane k).InRange 31 := by
  rcases Lane.eq_or_other k l with rfl | rfl
  · rw [State.leaveRunning_lane]; exact h.departed next
  · rwa [State.leaveRunning_other]

theorem State.releaseCurrent_inRange (h : (s.lane k).InRange run) : ((s.releaseCurrent l).lane k).InRange run := by
  rw [State.releaseCurrent_lane]
  rcases Lane.eq_or_other k l with rfl | rfl
  · rw [State.dropCurrent_lane_self]; exact h.withoutSet
  · rwa [State.dropCurrent_lane_other]

theorem State.readUntilDouble_inRange (ws : List Nat) (h : (s.lane k).InRange run) :
    ((s.readUntilDouble n ws).1.lane k).InRange run := (s.readUntilDouble_keptOrLost k n ws).inRange h

theorem State.readAll_inRange (ws : List Nat) (h : (s.lane k).InRange run) :
    ((s.readAll n ws).1.lane k).InRange run := (s.readAll_keptOrLost k n ws).inRange h

theorem State.engineMove_inRange (h : (s.lane k).InRange run) : (s.engineMove.lane k).InRange run := by
  rcases s.engineMove_lane_cases k with e | e <;> rw [e]
  · exact h
  · exact h.withoutSet

theorem State.engineMoves_inRange (h : (s.lane k).InRange run) (j : Nat) : ((s.engineMoves j).lane k).InRange run :=
  s.engineMoves_induction (P := fun u => (u.lane k).InRange run) (fun _ hu => State.engineMove_inRange hu) h j

/-! ## The Lane Controller and the Reference Conditioner -/

theorem State.slipLane_inRange (d : Nat) (h : (s.lane k).InRange 31) : ((s.slipLane l d).lane k).InRange 31 := by
  have h1 := State.onControl_inRange (l := l) (f := fun c => { c with fill := 0 })
    (fun hc => { hc with fill := Nat.zero_le _ })
    (State.onCounters_inRange (l := l) (f := fun c => { c with wedgeSlip := raised c.wedgeSlip 1 }) h)
  simp only [State.slipLane]
  split
  · exact State.leaveRunning_inRange _ _ (by simpa using h1)
  · simpa using h1

theorem State.applyVerdict_inRange (v : Verdict) (h : (s.lane k).InRange 31) :
    ((s.applyVerdict l v).lane k).InRange 31 := by
  cases v with
  | inSequence => exact h
  | gap g => exact State.onCounters_inRange h
  | slip d => exact State.slipLane_inRange d h

/-- An expectation lies below WPR (R120). -/
theorem nextExpectation_lt {wpr i e : Nat} (hw : 1 ≤ wpr) (he : e ∈ nextExpectation wpr i) : e < wpr := by
  unfold nextExpectation at he
  split at he
  · simp at he
  · obtain rfl : (i + 1) % wpr = e := by simpa using he
    exact Nat.mod_lt _ hw

theorem State.judgeWedge_inRange (w : Word) (h : (s.lane k).InRange 31) :
    ((s.judgeWedge l w).1.lane k).InRange 31 := by
  simp only [State.judgeWedge]
  split
  · exact h
  · refine State.applyVerdict_inRange _ (State.onControl_inRange (fun hc => ?_) h)
    exact { hc with expectation := fun e he => nextExpectation_lt hc.wedges_pos he }

theorem State.raiseSettle_inRange {j : Nat} (hj : j ≤ 64) (h : (s.lane k).InRange run) :
    ((s.raiseSettle l j).lane k).InRange run :=
  State.onReference_inRange (fun hr => { hr with settle := max_le hr.settle hj }) h

theorem State.examineFresh_inRange (h : (s.lane k).InRange run) : ((s.examineFresh l).lane k).InRange run := by
  have h1 := State.onReference_inRange (l := l) (f := fun _ => (s.lane l).reference.examined (s.lane l).control)
    (fun hr => ⟨by simp only [Reference.examined, nextStale]; split <;> simp, hr.settle⟩) h
  simp only [State.examineFresh]
  split <;> split
  · exact State.raiseSettle_inRange (by decide) (by rwa [State.notify_lane])
  · exact State.raiseSettle_inRange (by decide) h1
  · rwa [State.notify_lane]
  · exact h1

theorem State.pushSample_inRange (h : (s.lane k).InRange 31) : ((s.pushSample l).lane k).InRange 31 :=
  State.onControl_inRange (fun hc => { hc with fill := min_le_left _ _ })
    (State.onReference_inRange (fun hr => ⟨hr.stale, (Nat.sub_le _ _).trans hr.settle⟩) h)

theorem State.pushSamples_inRange (h : (s.lane k).InRange 31) (j : Nat) : ((s.pushSamples l j).lane k).InRange 31 := by
  induction j generalizing s with
  | zero => exact h
  | succ j ih => exact ih (State.pushSample_inRange h)

theorem State.completePriming_inRange (h : (s.lane k).InRange 31) : ((s.completePriming l).lane k).InRange 31 := by
  unfold State.completePriming
  split
  · exact State.onControl_inRange (fun hc => { hc with }) h
  · exact h

theorem State.feedLane_inRange (v : Verdict) (h : (s.lane k).InRange 31) : ((s.feedLane l v).lane k).InRange 31 := by
  have h1 := State.examineFresh_inRange (l := l) h
  have h2 := State.raiseSettle_inRange (l := l) (j := Config.settleShort) (by decide) h1
  simp only [State.feedLane]
  split <;> split
  · exact State.completePriming_inRange (State.pushSamples_inRange h2 _)
  · exact h2
  · exact State.completePriming_inRange (State.pushSamples_inRange h1 _)
  · exact h1

theorem State.conditionFrame_inRange (v : Verdict) (input : Word) (h : (s.lane k).InRange 31) :
    ((s.conditionFrame l v input).lane k).InRange 31 := by
  unfold State.conditionFrame State.pushSibling
  refine State.onReference_inRange (fun hr => ⟨hr.stale, hr.settle⟩) ?_
  split
  · exact h
  · exact State.feedLane_inRange v h

/-! ## The Set Selector and the Cancellation Filter -/

@[simp] theorem State.retireCurrent_lane : (s.retireCurrent l).lane k = s.lane k := by
  unfold State.retireCurrent; split <;> (try split) <;> simp

theorem State.captureShadow_inRange (h : (s.lane k).InRange run) : ((s.captureShadow l n).lane k).InRange run := by
  have h1 := State.readUntilDouble_inRange (n := n) tapWords h
  unfold State.captureShadow
  split <;> rename_i e <;> rw [e] at h1
  · exact State.onAdapt_inRange (fun ha => { ha with divergence := Nat.zero_le _ }) h1
  · exact h1

theorem State.select_inRange (found : Option (SetNo × Route)) (h : (s.lane k).InRange run) :
    ((s.select l found).lane k).InRange run := by
  unfold State.select
  split
  · exact State.releaseCurrent_inRange h
  · split
    · exact State.onSelection_inRange h
    · refine State.captureShadow_inRange (State.onFilter_inRange rfl (State.onSelection_inRange ?_))
      simpa using h

theorem State.applyBand_inRange (b : Bool) (h : (s.lane k).InRange run) : ((s.applyBand l b).lane k).InRange run := by
  unfold State.applyBand
  split
  · exact h
  · exact State.onSelection_inRange h

theorem State.selectFrame_inRange (f : ServoFields) (h : (s.lane k).InRange run) :
    ((s.selectFrame f).1.lane k).InRange run := by
  have h1 := State.applyBand_inRange (l := f.lane) f.writeActive h
  simp only [State.selectFrame]
  split
  · exact State.select_inRange _ h1
  · exact h1

theorem State.applyTaps_inRange (tr ts : Nat) (os cl : Word) (taps : List Word) (h : (s.lane k).InRange run) :
    ((s.applyTaps l tr ts os cl taps).1.lane k).InRange run :=
  State.onCounters_inRange (State.onFilter_inRange rfl h)

theorem State.computeCorrection_inRange (h : (s.lane k).InRange run) :
    ((s.computeCorrection l n).1.lane k).InRange run := by
  have h1 := State.readUntilDouble_inRange (n := n) [0, 1, 2, 3] h
  unfold State.computeCorrection
  split
  · rename_i s1 tr ts os cl e
    rw [e] at h1
    have h2 := State.readUntilDouble_inRange (n := n) (usedTapWords (tapCount 32 tr) (tapCount 8 ts)) h1
    split <;> rename_i e2 <;> rw [e2] at h2
    · exact State.applyTaps_inRange _ _ _ _ _ h2
    · exact h2
  · rename_i e
    rw [e] at h1
    exact h1

theorem State.decideFrame_inRange (f : ServoFields) (found : Option (SetNo × Route)) (h : (s.lane k).InRange run) :
    ((s.decideFrame f found).1.lane k).InRange run := by
  have hb : ((s.bypassFrame f.lane).1.lane k).InRange run := State.onCounters_inRange h
  simp only [State.decideFrame]
  split_ifs
  · exact hb
  · exact h
  · exact hb
  · split
    · exact hb
    · exact hb
    · exact State.onCounters_inRange h
    · exact State.computeCorrection_inRange h

/-! ## The Probe Unit -/

/-- The generator never reaches 0 (R99). -/
theorem nextGenerator_bounds : ∀ g : Fin 128, 1 ≤ g.val → 1 ≤ nextGenerator g ∧ nextGenerator g ≤ 127 := by decide

theorem clampCorrelation_bounds (x : Int) : -2147483648 ≤ clampCorrelation x ∧ clampCorrelation x ≤ 2147483647 := by
  simp only [clampCorrelation, clampInt]; omega

theorem correlate_bounds {c : Int} (hc : -2147483648 ≤ c ∧ c ≤ 2147483647) (sign : Option Bool) (e : Int) :
    -2147483648 ≤ correlate c sign e ∧ correlate c sign e ≤ 2147483647 := by
  unfold correlate
  split
  · exact clampCorrelation_bounds _
  · exact clampCorrelation_bounds _
  · exact hc

/-- A step keeps the campaign's values in range; it does not count itself (R99, R103, R104). -/
theorem Campaign.stepped_sound {c : Campaign} (h : c.sound) (e : Int) : (c.stepped e).sound := by
  obtain ⟨h1, h2, h3, h4, h5, h6, -, h8⟩ := h
  have hg := nextGenerator_bounds ⟨c.generator, by omega⟩ h5
  refine ⟨h1, h2, h3, h4, hg.1, hg.2, by simp [Campaign.stepped], fun x hx => ?_⟩
  simp only [Campaign.stepped, Vector.mem_toList_iff, Vector.mem_ofFn] at hx
  obtain ⟨d, rfl⟩ := hx
  exact correlate_bounds (h8 _ (by simp)) _ _

/-- The count of a step of a campaign that has steps left to take (R105). -/
theorem State.countProbeStep_inRange (hd : (s.lane l).campaign.done < (s.lane l).campaign.requested)
    (h : (s.lane k).InRange run) : ((s.countProbeStep l).lane k).InRange run := by
  simp only [State.countProbeStep]
  split <;> rename_i hn
  · rw [State.notify_lane]
    refine State.onCampaign_inRange (fun hc => ?_) h
    obtain ⟨h1, -, -, h4⟩ := hc
    exact ⟨h1, hn.le, nofun, h4⟩
  · refine State.onCampaign_inRange (fun hc => ?_) h
    obtain ⟨h1, -, -, h4⟩ := hc
    exact ⟨h1, hd, fun _ => lt_of_le_of_ne hd hn, h4⟩

theorem State.probeFrame_inRange (f : ServoFields) (hl : (s.lane f.lane).InRange run) (h : (s.lane k).InRange run) :
    ((s.probeFrame f).lane k).InRange run := by
  unfold State.probeFrame
  split
  · rename_i hp
    have hr : (s.lane f.lane).campaign.state = .running := by simp [State.stepsProbe] at hp; exact hp.2
    obtain ⟨-, -, hlt, -⟩ := hl.campaign
    refine State.countProbeStep_inRange ?_ (State.onCampaign_inRange (fun hc => Campaign.stepped_sound hc _) h)
    simpa [Campaign.stepped] using hlt hr
  · exact h

/-! ## The output command, the Adaptation Unit and the lane fault -/

/-- The output command may bring a RUNNING lane's run to 32 (R70). -/
theorem State.formOutput_inRange_self (sum : Int) (h : (s.lane l).InRange 31) :
    ((s.formOutput l sum).lane l).InRange 32 := by
  have h0 : (s.lane l).InRange 32 := { h with run_le := h.run_le.trans (by decide) }
  have h1 : ∀ u : State, u = (if saturated sum then s.onCounters l fun c =>
      { c with commandSaturation := raised c.commandSaturation 1 } else s) → (u.lane l).InRange 32 ∧
        (u.lane l).filter = (s.lane l).filter ∧ (u.lane l).control = (s.lane l).control := by
    rintro u rfl
    split
    · exact ⟨State.onCounters_inRange h0, by simp, by simp⟩
    · exact ⟨h0, rfl, rfl⟩
  obtain ⟨hu, hf, hc⟩ := h1 _ rfl
  simp only [State.formOutput]
  split
  · rename_i hm
    rw [State.onFilter_lane]
    refine { hu with run_le := ?_, running := fun _ => hc ▸ hm }
    have := h.run_le
    dsimp only
    rw [hf]
    split <;> omega
  · exact hu

theorem State.formOutput_other (sum : Int) : (s.formOutput l sum).lane l.other = s.lane l.other := by
  rw [State.formOutput_eq, State.setLane_other]

theorem State.raiseDivergence_inRange (h : (s.lane k).InRange run) : ((s.raiseDivergence l n).lane k).InRange run := by
  unfold State.raiseDivergence
  split
  · rw [State.rollback, State.notify_lane]
    exact State.onAdapt_inRange (fun ha => { ha with divergence := Nat.zero_le _ }) (by simpa using h)
  · rename_i hd
    refine State.onAdapt_inRange (fun ha => { ha with divergence := ?_ }) h
    show (s.lane l).adapt.divergence + 1 ≤ 63
    exact Nat.lt_succ_iff.mp (Nat.lt_of_not_le hd)

theorem State.countDivergence_inRange (e : Int) (dl : Word) (h : (s.lane k).InRange run) :
    ((s.countDivergence l n e dl).lane k).InRange run := by
  unfold State.countDivergence
  split
  · exact State.raiseDivergence_inRange h
  · exact State.onAdapt_inRange (fun ha => { ha with divergence := Nat.zero_le _ }) h

theorem State.countWindow_inRange (h : (s.lane k).InRange run) : ((s.countWindow l).lane k).InRange run := by
  have h1 := State.onAdapt_inRange (l := l) (f := fun x => { x with window := x.window - 1 })
    (fun ha => { ha with window := (Nat.sub_le _ _).trans ha.window }) h
  simp only [State.countWindow]
  split
  · split
    · rwa [State.notify_lane]
    · exact h1
  · exact h

@[simp] theorem State.writeTaps_lane (tr : Nat) (taps : List Word) : (s.writeTaps n tr taps).lane k = s.lane k := by
  simp [State.writeTaps]

theorem State.adaptTaps_inRange (tr ts : Nat) (e : Int) (hd : AdaptHeader) (taps : List Word)
    (h : (s.lane k).InRange run) : ((s.adaptTaps l n tr ts e hd taps).lane k).InRange run :=
  State.countWindow_inRange (State.countDivergence_inRange _ _ (State.onCounters_inRange (by simpa using h)))

theorem State.adaptSet_inRange (tr ts : Nat) (e : Int) (h : (s.lane k).InRange run) :
    ((s.adaptSet l n tr ts e).lane k).InRange run := by
  have h1 := (s.readWord_keptOrLost k n 4).inRange h
  unfold State.adaptSet
  split <;> rename_i e1 <;> rw [e1] at h1
  · exact h1
  · split
    · exact h1
    · have h2 := State.readUntilDouble_inRange (n := n) [5, 6, 7, 8, 9] h1
      split
      · rename_i e2
        rw [e2] at h2
        have h3 := State.readUntilDouble_inRange (n := n) (usedTapWords tr ts) h2
        split <;> rename_i e3 <;> rw [e3] at h3
        · exact State.adaptTaps_inRange _ _ _ _ _ h3
        · exact h3
      · rename_i e2
        rw [e2] at h2
        exact h2

theorem State.adaptFrame_inRange (f : ServoFields) (found : Option (SetNo × Route)) (d : Decision) (probed : Bool)
    (h : (s.lane k).InRange run) : ((s.adaptFrame f found d probed).lane k).InRange run := by
  unfold State.adaptFrame
  split
  · split
    · exact State.adaptSet_inRange _ _ _ h
    · exact h
  · exact h

theorem State.faultLane_inRange (h : (s.lane l).InRange run) : ((s.faultLane l).lane l).InRange 31 := by
  rw [State.faultLane, State.leaveRunning_lane, State.notify_lane]
  exact (State.onCounters_inRange h).departed _

theorem State.faultLane_other : (s.faultLane l).lane l.other = s.lane l.other := by
  rw [State.faultLane, State.leaveRunning_other, State.notify_lane, State.onCounters_other]

/-- No run of 32 is left standing (R71). -/
theorem State.checkFault_inRange (h : (s.lane l).InRange 32) : ((s.checkFault l).lane l).InRange 31 := by
  unfold State.checkFault
  split
  · exact State.faultLane_inRange h
  · rename_i hn
    have hr : ¬ 32 ≤ (s.lane l).filter.saturationRun := fun h32 => hn ⟨h.running h32, h32⟩
    exact { h with run_le := by omega }

theorem State.checkFault_other : (s.checkFault l).lane l.other = s.lane l.other := by
  unfold State.checkFault
  split
  · exact State.faultLane_other
  · rfl

/-! ## The lane path of a servo frame (R134) -/

/-- The stages from the filter's decision on, at the frame's own lane: the run that the output command makes is
checked last. -/
theorem State.actOn_inRange_self (f : ServoFields) (slots : EngineSlots) (found : Option (SetNo × Route))
    (d : Decision) (h : (s.lane f.lane).InRange 31) : ((s.actOn f slots found d).lane f.lane).InRange 31 := by
  have h1 := State.engineMoves_inRange h slots.afterFilter
  refine State.checkFault_inRange ?_
  rw [State.sendDrive_lane]
  exact State.engineMoves_inRange (State.adaptFrame_inRange _ _ _ _ (State.engineMoves_inRange
    (State.formOutput_inRange_self _ (State.probeFrame_inRange f h1 h1)) _)) _

/-- The same stages at the other lane. -/
theorem State.actOn_inRange_other (f : ServoFields) (slots : EngineSlots) (found : Option (SetNo × Route))
    (d : Decision) (h : (s.lane f.lane).InRange 31) (ho : (s.lane f.lane.other).InRange 31) :
    ((s.actOn f slots found d).lane f.lane.other).InRange 31 := by
  have h1 := State.engineMoves_inRange h slots.afterFilter
  have h1o := State.engineMoves_inRange ho slots.afterFilter
  simp only [State.actOn, State.checkFault_other, State.sendDrive_lane]
  refine State.engineMoves_inRange (State.adaptFrame_inRange _ _ _ _ (State.engineMoves_inRange ?_ _)) _
  rw [State.formOutput_other]
  exact State.probeFrame_inRange f h1 h1o

theorem State.lanePath_inRange (f : ServoFields) (slots : EngineSlots) (h : ∀ k, (s.lane k).InRange 31) (k : Lane) :
    ((s.lanePath f slots).1.lane k).InRange 31 := by
  have hc : ∀ k, ((s.conditioned f slots).lane k).InRange 31 := fun k =>
    State.engineMoves_inRange (State.conditionFrame_inRange _ _ (State.engineMoves_inRange
      (State.judgeWedge_inRange _ (h k)) _)) _
  have hd : ∀ k, (((s.selected f slots).1.decideFrame f (s.selected f slots).2).1.lane k).InRange 31 := fun k =>
    State.decideFrame_inRange f _ (State.engineMoves_inRange (State.selectFrame_inRange f (hc k)) _)
  rw [State.lanePath_eq]
  rcases Lane.eq_or_other k f.lane with rfl | rfl
  · exact State.actOn_inRange_self f slots _ _ (hd _)
  · exact State.actOn_inRange_other f slots _ _ (hd _) (hd _)

end

end Sys2Proof.Machine
end

