-- ==== Sys2Proof/Proofs/ValueRanges.lean ====
section
/-! SUPPORT. The ranges of the lanes', the conditioner's and the decoder's values, and that every command keeps them:
the settlement of ValuesStayInRange. -/

namespace Sys2Proof.Machine

/-- The values of both lanes, the conditioner and the decoder are in range. -/
structure State.ValuesInRange (s : State) : Prop where
  cond : s.cond.sound
  lanes : ∀ k : Lane, (s.lane k).InRange 31
  decoder : s.decoder.sound

theorem State.valuesInRange_iff (s : State) :
    s.ValuesInRange ↔ s.cond.sound ∧ s.lanesInRange ∧ s.decoder.sound := by
  rw [State.lanesInRange_iff]
  exact ⟨fun h => ⟨h.cond, h.lanes, h.decoder⟩, fun ⟨hc, hl, hd⟩ => ⟨hc, hl, hd⟩⟩

section
variable {s t : State} {l : Lane} {n : SetNo}

/-- An operation on the lanes. -/
theorem State.ValuesInRange.of_lanes (h : s.ValuesInRange) (hc : t.cond = s.cond) (hd : t.decoder = s.decoder)
    (hl : ∀ k : Lane, (s.lane k).InRange 31 → (t.lane k).InRange 31) : t.ValuesInRange :=
  ⟨hc ▸ h.cond, fun k => hl k (h.lanes k), hd ▸ h.decoder⟩

/-- An operation that leaves lanes, conditioner and decoder alone. -/
theorem State.ValuesInRange.of_same (h : s.ValuesInRange) (hc : t.cond = s.cond) (hd : t.decoder = s.decoder)
    (h0 : t.lane0 = s.lane0) (h1 : t.lane1 = s.lane1) : t.ValuesInRange :=
  h.of_lanes hc hd fun k hk => by rwa [State.lane_congr k h0 h1]

theorem State.notify_valuesInRange (h : s.ValuesInRange) {kind : NoticeKind} {lane : Option Lane} {detail : Nat} :
    (s.notify kind lane detail).ValuesInRange := h.of_same rfl rfl rfl rfl

/-- An operation on the decoder. -/
theorem State.ValuesInRange.of_decoder (h : s.ValuesInRange) (d : Decoder) (hd : d.sound) :
    State.ValuesInRange { s with decoder := d } :=
  ⟨h.cond, fun k => by rw [State.withDecoder_lane]; exact h.lanes k, hd⟩

/-- An operation on the conditioner. -/
theorem State.ValuesInRange.of_cond (h : s.ValuesInRange) (c : Conditioner) (hc : c.sound) :
    State.ValuesInRange { s with cond := c } :=
  ⟨hc, fun k => by rw [State.withCond_lane]; exact h.lanes k, h.decoder⟩

/-! ## The resets (R141, R163) -/

theorem LaneState.reset_inRange : LaneState.reset.InRange 31 where
  reference := ⟨by decide, by decide⟩
  control := ⟨by decide, by decide, by decide, by decide, by decide, by decide, by decide, nofun⟩
  adapt := ⟨by decide, by decide, by decide⟩
  campaign := by decide
  run_le := by decide
  running := nofun

theorem Decoder.reset_sound : Decoder.reset.sound := by decide

theorem State.powerOn_valuesInRange (cut : CutShort) : (s.powerOn cut).ValuesInRange where
  cond := (by decide : Conditioner.reset.sound)
  lanes k := by rw [State.powerOn_lane]; exact LaneState.reset_inRange
  decoder := Decoder.reset_sound

theorem Conditioner.partReset_sound {c : Conditioner} (h : c.sound) : c.partReset.sound := by
  obtain ⟨-, -, hh, -⟩ := h
  refine ⟨(by decide : (-8388608 : Int) ≤ 0), (by decide : (0 : Int) ≤ 8388352), ?_, fun ht => ?_⟩
  · dsimp only [Conditioner.partReset]
    split
    · exact hh
    · decide
  · exact if_pos ht

theorem LaneState.partReset_inRange {x : LaneState} (h : x.InRange 31) (retain : Bool) (band : Fin 4) :
    (x.partReset retain band).InRange 31 where
  reference := LaneState.reset_inRange.reference
  control := by
    cases retain
    · exact LaneState.reset_inRange.control
    · exact { h.control with fill := Nat.zero_le _, expectation := nofun }
  adapt := by
    cases retain
    · exact LaneState.reset_inRange.adapt
    · exact ⟨Nat.zero_le _, Nat.zero_le _, h.adapt.gate⟩
  campaign := by
    obtain ⟨h1, h2, -, h4, -, -, -, h8⟩ := h.campaign
    exact ⟨h1, h2, nofun, h4, (by decide : 1 ≤ 127), (by decide : 127 ≤ 127), Nat.zero_le _, h8⟩
  run_le := Nat.zero_le _
  running := nofun

theorem State.partReset_lane (s : State) (k : Lane) :
    s.partReset.lane k = (s.lane k).partReset s.cond.params.retain s.cond.partReset.band := by cases k <;> rfl

theorem State.partReset_valuesInRange (h : s.ValuesInRange) : s.partReset.ValuesInRange where
  cond := Conditioner.partReset_sound h.cond
  lanes k := by rw [State.partReset_lane]; exact LaneState.partReset_inRange (h.lanes k) _ _
  decoder := Decoder.reset_sound

/-! ## The pointer and the pending command (R147 to R150, R155) -/

/-- The pointer may advance up to its end: in BANK its set stays (R149). -/
theorem Pointer.forward_sound {p : Pointer} (h : p.sound) {j : Nat} (hj : p.addr + j ≤ p.stop) :
    (p.forward j).sound := by
  obtain ⟨region, lane, addr⟩ := p
  obtain ⟨-, hb⟩ := h
  cases region <;> simp_all [Pointer.sound, Pointer.forward, Pointer.stop]
  omega

theorem Pointer.namesWord_sound {p : Pointer} (h : p.namesWord = true) : p.sound := by
  simp only [Pointer.namesWord, Bool.and_eq_true, Bool.or_eq_true, decide_eq_true_eq] at h
  exact ⟨h.1.le, fun hb => h.2.resolve_left (absurd hb)⟩

theorem State.setPointer_valuesInRange (h : s.ValuesInRange) {p : Pointer} (hp : p.sound) :
    (s.setPointer p).ValuesInRange :=
  h.of_decoder _ ⟨hp, h.decoder.2⟩

theorem State.clearCommand_valuesInRange (h : s.ValuesInRange) : s.clearCommand.ValuesInRange := by
  obtain ⟨hp, ho, -⟩ := h.decoder
  exact h.of_decoder _ ⟨hp, ho, nofun, Nat.zero_le _, fun _ => rfl⟩

theorem State.holdCommand_valuesInRange (h : s.ValuesInRange) {p : PendingCommand}
    (hp : p.args.length < argCount p.fields.code) : (s.holdCommand p).ValuesInRange := by
  obtain ⟨h1, h2, -, h4, -⟩ := h.decoder
  exact h.of_decoder _ ⟨h1, h2, by rintro c ⟨⟩; exact hp, h4, nofun⟩

theorem State.ageCommand_valuesInRange (h : s.ValuesInRange) : s.ageCommand.ValuesInRange := by
  unfold State.ageCommand
  split
  · exact h
  · rename_i p hp
    split
    · exact (State.clearCommand_valuesInRange h).of_same rfl rfl rfl rfl
    · rename_i ha
      obtain ⟨h1, h2, h3, h4, -⟩ := h.decoder
      refine h.of_decoder _ ⟨h1, h2, h3, ?_, fun hn => by rw [hp] at hn; cases hn⟩
      exact Nat.lt_succ_iff.mp (Nat.lt_of_not_le ha)

/-! ## The commands (R160) -/

theorem State.pointCommand_valuesInRange (h : s.ValuesInRange) (imm : BitVec 9) (addr : Word) :
    (s.pointCommand imm addr).1.ValuesInRange := by
  unfold State.pointCommand
  split_ifs with h1 h2 h3
  · exact h
  · exact h
  · exact State.setPointer_valuesInRange h (Pointer.namesWord_sound h3)
  · exact h

theorem State.readAll_valuesInRange (h : s.ValuesInRange) (ws : List Nat) : (s.readAll n ws).1.ValuesInRange :=
  h.of_lanes (by simp) (by simp) fun _ hk => State.readAll_inRange ws hk

theorem State.readBank_valuesInRange (h : s.ValuesInRange) (j : Nat) : (s.readBank j).1.ValuesInRange := by
  simp only [State.readBank]
  split
  · exact State.readAll_valuesInRange h _
  · exact h

theorem State.readBank_decoder (j : Nat) : (s.readBank j).1.decoder = s.decoder := by
  simp only [State.readBank]
  split
  · simp
  · rfl

theorem State.readCommand_valuesInRange (h : s.ValuesInRange) (imm : BitVec 9) :
    (s.readCommand imm).1.ValuesInRange := by
  have adv : ∀ u : State, u.ValuesInRange → u.decoder = s.decoder →
      (u.advanceRead (s.readCount imm.toNat)).ValuesInRange := by
    intro u hu hd
    unfold State.advanceRead
    split
    · exact hu
    · refine State.setPointer_valuesInRange hu (Pointer.forward_sound hu.decoder.1 ?_)
      have := h.decoder.1.1
      simp only [hd, State.readCount]
      omega
  simp only [State.readCommand]
  split_ifs
  · exact h
  · exact adv _ (State.readBank_valuesInRange h _) (State.readBank_decoder _)
  · exact adv _ h rfl

theorem State.patchOpen_valuesInRange (h : s.ValuesInRange) : s.patchOpen.1.ValuesInRange := by
  obtain ⟨hp, -, hr⟩ := h.decoder
  unfold State.patchOpen
  split
  · exact h.of_decoder _ ⟨hp, by rintro p ⟨⟩; exact hp, hr⟩
  · exact h

theorem State.patchClose_valuesInRange (h : s.ValuesInRange) : s.patchClose.1.ValuesInRange := by
  obtain ⟨-, ho, hr⟩ := h.decoder
  unfold State.patchClose
  split
  · rename_i p hp
    exact h.of_decoder _ ⟨ho p hp, nofun, hr⟩
  · exact h

theorem State.commitLoading_valuesInRange (h : s.ValuesInRange) : (s.commitLoading n).1.ValuesInRange := by
  have h1 := State.readAll_valuesInRange (n := n) h allWords
  unfold State.commitLoading
  generalize s.readAll n allWords = r at h1 ⊢
  obtain ⟨s1, found⟩ := r
  dsimp only
  split
  · exact h1
  · exact h1.of_same (by simp) (by simp) (by simp) (by simp)

theorem State.commitSet_valuesInRange (h : s.ValuesInRange) (imm : BitVec 9) : (s.commitSet imm).1.ValuesInRange := by
  unfold State.commitSet State.commitKnown
  split
  · exact h
  · split
    · split
      · exact h
      · exact State.commitLoading_valuesInRange h
    all_goals exact h

theorem State.freeSet_valuesInRange (h : s.ValuesInRange) (imm : BitVec 9) : (s.freeSet imm).1.ValuesInRange := by
  unfold State.freeSet State.zeroSet
  split
  · exact h
  · split
    · exact h
    · exact h.of_same (by simp) (by simp) (by simp) (by simp)

theorem State.unfreezeSet_valuesInRange (h : s.ValuesInRange) (imm : BitVec 9) :
    (s.unfreezeSet imm).1.ValuesInRange := by
  unfold State.unfreezeSet
  split
  · exact h
  · split
    · exact h.of_same rfl rfl rfl rfl
    · exact h

theorem State.armLane_valuesInRange (h : s.ValuesInRange) (m : LaneMode) : (s.armLane l m).ValuesInRange :=
  h.of_lanes rfl rfl fun _ hk =>
    State.onControl_inRange (fun hc => { hc with fill := Nat.zero_le _, expectation := nofun }) hk

theorem State.moveLane_valuesInRange (h : s.ValuesInRange) (m : LaneMode) : (s.moveLane l m).ValuesInRange := by
  unfold State.moveLane
  split
  · exact h.of_lanes (by simp) (by simp) fun _ hk => State.leaveRunning_inRange _ _ hk
  · exact h.of_lanes rfl rfl fun _ hk => State.onControl_inRange (fun hc => { hc with }) hk

theorem State.laneEnable_valuesInRange (h : s.ValuesInRange) : (s.laneEnable l).1.ValuesInRange := by
  unfold State.laneEnable
  split
  · exact State.armLane_valuesInRange h _
  · exact h

theorem State.laneStart_valuesInRange (h : s.ValuesInRange) : (s.laneStart l).1.ValuesInRange := by
  unfold State.laneStart
  split_ifs
  · exact h
  · exact h
  · exact State.armLane_valuesInRange h _

theorem State.laneStop_valuesInRange (h : s.ValuesInRange) : (s.laneStop l).1.ValuesInRange := by
  unfold State.laneStop
  split
  · exact State.moveLane_valuesInRange h _
  · exact h

theorem State.adaptWindow_valuesInRange (h : s.ValuesInRange) (length : Word) :
    (s.adaptWindow l length).1.ValuesInRange := by
  unfold State.adaptWindow
  split_ifs
  · exact h
  · exact h
  · exact h
  · exact h.of_lanes rfl rfl fun _ hk =>
      State.onAdapt_inRange (fun ha => { ha with window := Nat.lt_succ_iff.mp length.isLt }) hk

/-- The record that PROBE START sets is in range (R97, R98). -/
theorem Campaign.started_sound {length amplitude : Nat} (h0 : length ≠ 0) (hl : length ≤ 65535) (ha : amplitude ≤ 4095) :
    (Campaign.started length amplitude).sound := by
  refine ⟨hl, Nat.zero_le _, fun _ => Nat.pos_of_ne_zero h0, ha, (by decide : 1 ≤ 127), (by decide : 127 ≤ 127),
    Nat.zero_le _, fun x hx => ?_⟩
  obtain rfl : x = 0 := by simpa [Campaign.started] using hx
  decide

theorem State.probeStart_valuesInRange (h : s.ValuesInRange) (length amplitude : Word) :
    (s.probeStart l length amplitude).1.ValuesInRange := by
  unfold State.probeStart
  split_ifs with h0
  · exact h
  · exact h
  · exact h
  · refine h.of_lanes rfl rfl fun _ hk => State.onCampaign_inRange (fun _ => ?_) hk
    exact Campaign.started_sound h0 (Nat.lt_succ_iff.mp length.isLt) (by simp only [clampAmplitude, clampInt]; omega)

theorem State.abortCampaign_inRange {k : Lane} {run : Nat} (d : Nat) (h : (s.lane k).InRange run) :
    ((s.abortCampaign l d).lane k).InRange run := by
  unfold State.abortCampaign
  split
  · rw [State.notify_lane]
    exact State.onCampaign_inRange (fun ⟨h1, h2, _, h4⟩ => ⟨h1, h2, nofun, h4⟩) h
  · exact h

theorem State.probeStop_valuesInRange (h : s.ValuesInRange) : (s.probeStop l).1.ValuesInRange := by
  unfold State.probeStop
  split
  · exact h.of_lanes (by simp) (by simp) fun _ hk => State.abortCampaign_inRange _ hk
  · exact h

/-- TRANSFER START touches the bank, the transfer record and the Notice Queue alone (R166, R167). -/
@[simp] theorem State.applyBusy_outside :
    (s.applyBusy n).pending = s.pending ∧ (s.applyBusy n).cond = s.cond ∧ (s.applyBusy n).decoder = s.decoder
      ∧ (s.applyBusy n).lane0 = s.lane0 ∧ (s.applyBusy n).lane1 = s.lane1
      ∧ (s.applyBusy n).responses = s.responses ∧ (s.applyBusy n).counters = s.counters
      ∧ (s.applyBusy n).link = s.link ∧ (s.applyBusy n).ports = s.ports := by
  unfold State.applyBusy
  split <;> (try split) <;> simp

theorem State.transferStart_valuesInRange (h : s.ValuesInRange) (first second : Word) :
    (s.transferStart first second).1.ValuesInRange := by
  simp only [State.transferStart]
  split
  · exact h
  · split
    · exact h
    · split
      · simp only [State.startCopy]
        split
        · exact h
        · exact h.of_same (by simp [State.holdSource, State.holdDestination])
            (by simp [State.holdSource, State.holdDestination]) (by simp [State.holdSource, State.holdDestination])
            (by simp [State.holdSource, State.holdDestination])
      · simp only [State.startDump]
        split
        · exact h
        · exact h.of_same (by simp [State.holdSource]) (by simp [State.holdSource]) (by simp [State.holdSource])
            (by simp [State.holdSource])
      · exact h.of_same rfl rfl rfl rfl

theorem State.transferAbort_valuesInRange (h : s.ValuesInRange) : s.transferAbort.1.ValuesInRange := by
  unfold State.transferAbort
  split
  · exact h.of_same (by simp) (by simp) (by simp) (by simp)
  · exact h

theorem State.fetchNotices_valuesInRange (h : s.ValuesInRange) (imm : BitVec 9) (room : Nat) :
    (s.fetchNotices imm room).1.ValuesInRange := by
  simp only [State.fetchNotices]
  split
  · exact h
  · exact h.of_same rfl rfl rfl rfl

theorem State.countersClear_valuesInRange (h : s.ValuesInRange) : s.countersClear.1.ValuesInRange :=
  h.of_lanes rfl rfl fun _ hk => State.onCounters_inRange (State.onCounters_inRange (by simpa using hk))

/-- Every command keeps the values in range. -/
theorem State.runCommand_valuesInRange (h : s.ValuesInRange) (f : CommandFields) (args : List Word) (room : Nat) :
    (s.runCommand f args room).1.ValuesInRange := by
  unfold State.runCommand
  split
  · exact h
  · exact State.pointCommand_valuesInRange h _ _
  · exact State.readCommand_valuesInRange h _
  · exact State.patchOpen_valuesInRange h
  · exact State.patchClose_valuesInRange h
  · exact State.commitSet_valuesInRange h _
  · exact State.freeSet_valuesInRange h _
  · exact State.unfreezeSet_valuesInRange h _
  · exact State.laneEnable_valuesInRange h
  · exact State.laneStart_valuesInRange h
  · exact State.laneStop_valuesInRange h
  · exact State.moveLane_valuesInRange h _
  · exact State.adaptWindow_valuesInRange h _
  · exact State.probeStart_valuesInRange h _ _
  · exact State.probeStop_valuesInRange h
  · exact State.transferStart_valuesInRange h _ _
  · exact State.transferAbort_valuesInRange h
  · exact h
  · exact State.fetchNotices_valuesInRange h _ _
  · exact h
  · exact State.countersClear_valuesInRange h
  · exact State.partReset_valuesInRange h
  · exact h

theorem State.execCommand_valuesInRange (h : s.ValuesInRange) (f : CommandFields) (args : List Word) (following : Nat)
    (hasData : Bool) : (s.execCommand f args following hasData).ValuesInRange := by
  simp only [State.execCommand]
  split
  · exact h.of_same rfl rfl rfl rfl
  · exact (State.runCommand_valuesInRange h f args _).of_same rfl rfl rfl rfl

theorem State.takeWord_valuesInRange (h : s.ValuesInRange) (w : Word) (following : Nat) (hasData : Bool) :
    (s.takeWord w following hasData).1.ValuesInRange := by
  have hc := State.clearCommand_valuesInRange h
  simp only [State.takeWord]
  split
  · rename_i p _
    split
    · exact State.execCommand_valuesInRange hc _ _ _ _
    · exact State.holdCommand_valuesInRange h (by simp only [List.length_append, List.length_singleton]; omega)
  · split
    · exact State.execCommand_valuesInRange h _ _ _ _
    · exact State.holdCommand_valuesInRange hc (Nat.pos_of_ne_zero ‹_›)

/-! ## Data words (R151) -/

theorem State.writeBankWord_valuesInRange (h : s.ValuesInRange) (w : Nat) (v : Word) :
    (s.writeBankWord n w v).1.ValuesInRange := by
  unfold State.writeBankWord
  split_ifs
  · exact h
  · exact h
  · exact h.of_same rfl rfl rfl rfl

theorem State.rename_valuesInRange (h : s.ValuesInRange) (old new : Option SetNo) :
    (s.rename l old new).ValuesInRange := by
  obtain ⟨r, e⟩ := State.rename_eq (s := s) (l := l) old new
  rw [e]
  exact h.of_same rfl rfl rfl rfl

theorem State.writeMap_valuesInRange (h : s.ValuesInRange) (a : Nat) (v : Word) :
    (s.writeMap l a v).1.ValuesInRange := by
  unfold State.writeMap
  split
  · exact h
  · split
    · exact h
    · exact (State.rename_valuesInRange h _ _).of_lanes rfl rfl fun _ hk => State.onSelection_inRange hk

theorem State.writeFallback_valuesInRange (h : s.ValuesInRange) (v : Word) :
    (s.writeFallback l v).1.ValuesInRange := by
  unfold State.writeFallback
  split
  · exact h
  · split
    · exact h
    · exact (State.rename_valuesInRange h _ _).of_lanes rfl rfl fun _ hk => State.onSelection_inRange hk

/-- What a numeric parameter keeps of a word lies in its range (R124). -/
theorem laneParamKeep_bounds (p : LaneParam) (v : Word) :
    (laneParamRange p).1 ≤ laneParamKeep p v ∧ laneParamKeep p v ≤ (laneParamRange p).2 := by
  have hr : (laneParamRange p).1 ≤ (laneParamRange p).2 := by cases p <;> decide
  simp only [laneParamKeep, clampNat]
  omega

theorem State.storeNumeric_inRange {k : Lane} (p : LaneParam) (v : Word) (h : (s.lane k).InRange 31) :
    ((s.storeNumeric l p (laneParamKeep p v)).lane k).InRange 31 := by
  have hb := laneParamKeep_bounds p v
  cases p with
  | alignment => exact State.onControl_inRange (fun hc => { hc with alignment := hb.2 }) h
  | wedgesPerRev =>
    exact State.onControl_inRange (fun hc => { hc with wedges_pos := hb.1, wedges := hb.2, expectation := nofun }) h
  | seekFeedForward => exact h
  | adaptMode => exact h
  | pesGate => exact State.onAdapt_inRange (fun ha => { ha with gate := hb.2 }) h
  | staleLimit => exact State.onControl_inRange (fun hc => { hc with stale_pos := hb.1, stale := hb.2 }) h
  | holdLength => exact State.onControl_inRange (fun hc => { hc with hold := hb.2 }) h

theorem State.storeNumeric_outside (p : LaneParam) (j : Nat) :
    (s.storeNumeric l p j).cond = s.cond ∧ (s.storeNumeric l p j).decoder = s.decoder := by
  cases p <;> exact ⟨rfl, rfl⟩

theorem State.writeLaneParam_valuesInRange (h : s.ValuesInRange) (p : LaneParam) (v : Word) :
    (s.writeLaneParam l p v).1.ValuesInRange := by
  unfold State.writeLaneParam State.storeLaneParam
  split
  · exact h
  · split
    · split
      · exact h.of_lanes rfl rfl fun _ hk => State.onControl_inRange (fun hc => { hc with }) hk
      · exact h
    · split
      · exact h.of_lanes rfl rfl fun _ hk => State.onAdapt_inRange (fun ha => { ha with }) hk
      · exact h
    · obtain ⟨hc, hd⟩ := State.storeNumeric_outside (s := s) (l := l) p (laneParamKeep p v)
      exact h.of_lanes hc hd fun _ hk => State.storeNumeric_inRange p v hk

theorem Conditioner.writeBit_sound {c : Conditioner} (h : c.sound) (v : Word) {f : Bool → CondParams}
    (hh : ∀ b, (f b).hysteresis = c.params.hysteresis) (hs : ∀ b, (f b).startBand = c.params.startBand) :
    (c.writeBit v f).1.sound := by
  obtain ⟨h1, h2, h3, h4⟩ := h
  unfold Conditioner.writeBit
  split
  · exact ⟨h1, h2, (hh _).trans_le h3, fun ht => (h4 ht).trans (hs _).symm⟩
  · exact ⟨h1, h2, h3, h4⟩

/-- A word for a conditioner parameter keeps the hysteresis in range, and the band at the start band while the
temperature is unknown (R7, R8). -/
theorem Conditioner.writeParam_sound {c : Conditioner} (h : c.sound) (p : CondParam) (v : Word) :
    (c.writeParam p v).1.sound := by
  obtain ⟨h1, h2, h3, h4⟩ := h
  cases p with
  | polarity1 => exact Conditioner.writeBit_sound ⟨h1, h2, h3, h4⟩ v (fun _ => rfl) fun _ => rfl
  | polarity2 => exact Conditioner.writeBit_sound ⟨h1, h2, h3, h4⟩ v (fun _ => rfl) fun _ => rfl
  | retain => exact Conditioner.writeBit_sound ⟨h1, h2, h3, h4⟩ v (fun _ => rfl) fun _ => rfl
  | hysteresis => exact ⟨h1, h2, by simp only [Conditioner.writeParam, clampNat]; omega, h4⟩
  | startBand => exact ⟨h1, h2, h3, fun ht => if_pos ht⟩
  | trim1 | trim2 | threshold1 | threshold2 | threshold3 => exact ⟨h1, h2, h3, h4⟩

theorem State.writeCond_valuesInRange (h : s.ValuesInRange) (p : CondParam) (v : Word) :
    (s.writeCond p v).1.ValuesInRange := by
  unfold State.writeCond
  split
  · exact h
  · exact h.of_cond _ (Conditioner.writeParam_sound h.cond p v)

theorem State.writeItem_valuesInRange (h : s.ValuesInRange) (p : Pointer) (v : Word) :
    (s.writeItem p v).1.ValuesInRange := by
  unfold State.writeItem
  split
  · split
    · exact State.writeBankWord_valuesInRange h _ _
    · exact h
  · exact State.writeMap_valuesInRange h _ _
  · split
    · exact State.writeFallback_valuesInRange h _
    · split
      · exact State.writeLaneParam_valuesInRange h _ _
      · exact h
  · split
    · exact State.writeCond_valuesInRange h _ _
    · exact h
  · exact h

theorem State.offer_valuesInRange (h : s.ValuesInRange) (v : Word) : (s.offer v).1.ValuesInRange := by
  simp only [State.offer]
  split_ifs with h1 h2 h3
  · exact h
  · exact h
  all_goals
    have hf : (s.decoder.pointer.forward 1).sound :=
      Pointer.forward_sound h.decoder.1 (by simp only [Pointer.stopped, decide_eq_true_eq] at h2; omega)
  · exact State.setPointer_valuesInRange h hf
  · exact State.setPointer_valuesInRange (State.writeItem_valuesInRange h _ _) hf

theorem State.report_valuesInRange (h : s.ValuesInRange) (t : Tally) : (s.report t).ValuesInRange := by
  unfold State.report
  split
  · exact h
  · exact h.of_same rfl rfl rfl rfl

/-! ## A management frame (R144) -/

/-- A property that every command word, every data word, a data report and a refusal at the gate keep is kept by a
management frame. -/
theorem State.manage_induction {P : State → Prop}
    (take : ∀ (u : State) (w : Word) (j : Nat) (b : Bool), P u → P (u.takeWord w j b).1)
    (offer : ∀ (u : State) (v : Word), P u → P (u.offer v).1) (report : ∀ (u : State) (t : Tally), P u → P (u.report t))
    (turn : ∀ u : State, P u → P u.turnAway) (h : P s) (commands data : List Word) : P (s.manage commands data) := by
  have takes : ∀ (ws : List Word) (u : State) (b : Bool), P u → P (u.takeWords b ws).1 := by
    intro ws
    induction ws with
    | nil => exact fun _ _ hu => hu
    | cons w ws ih =>
      intro u b hu
      have h1 := take u w ws.length b hu
      unfold State.takeWords
      split <;> rename_i e <;> rw [e] at h1
      · exact h1
      · exact ih _ _ h1
  have offers : ∀ (ws : List Word) (u : State) (t : Tally), P u → P (u.offerAll t ws).1 := by
    intro ws
    induction ws with
    | nil => exact fun _ _ hu => hu
    | cons w ws ih => exact fun u t hu => ih _ _ (offer u w hu)
  unfold State.manage
  split
  · exact turn s h
  · have h1 := takes commands s (!data.isEmpty) h
    split <;> rename_i e <;> rw [e] at h1
    · exact h1
    · exact report _ _ (offers _ _ _ h1)

theorem State.manage_valuesInRange (h : s.ValuesInRange) (commands data : List Word) :
    (s.manage commands data).ValuesInRange :=
  State.manage_induction (P := State.ValuesInRange) (fun _ w j b hu => State.takeWord_valuesInRange hu w j b)
    (fun _ v hu => State.offer_valuesInRange hu v) (fun _ t hu => State.report_valuesInRange hu t)
    (fun _ hu => hu.of_same rfl rfl rfl rfl) h commands data

theorem State.manageWrite_valuesInRange (h : s.ValuesInRange) {r : State × WriteOutcome} (hr : r.1.ValuesInRange) :
    (s.manageWrite r).ValuesInRange := by
  unfold State.manageWrite
  split
  · exact h.of_same rfl rfl rfl rfl
  · exact State.report_valuesInRange hr _

/-! ## Sensor frames (R1 to R6) -/

/-- The baseline moves towards the raw difference and stays in its range (R3). -/
theorem nextBaseline_bounds {b : Int} (h1 : -8388608 ≤ b) (h2 : b ≤ 8388352) (r : Word) :
    -8388608 ≤ nextBaseline b r ∧ nextBaseline b r ≤ 8388352 := by
  have hr1 := BitVec.toInt_lt (x := r)
  have hr2 := BitVec.le_toInt (x := r)
  simp only [nextBaseline]
  omega

theorem State.raiseSettleBoth_valuesInRange (h : s.ValuesInRange) {j : Nat} (hj : j ≤ 64) :
    (s.raiseSettleBoth j).ValuesInRange :=
  h.of_lanes rfl rfl fun _ hk => State.raiseSettle_inRange hj (State.raiseSettle_inRange hj hk)

theorem State.checkSequence_valuesInRange (h : s.ValuesInRange) (seq : BitVec 4) :
    (s.checkSequence seq).ValuesInRange := by
  simp only [State.checkSequence]
  split
  · exact h.of_cond _ h.cond
  · refine State.ValuesInRange.of_cond ?_ _ h.cond
    refine State.raiseSettleBoth_valuesInRange (State.notify_valuesInRange ?_) (by decide)
    exact h.of_same rfl rfl rfl rfl

theorem State.checkClip_valuesInRange (h : s.ValuesInRange) (a1 a2 : Word) : (s.checkClip a1 a2).ValuesInRange := by
  unfold State.checkClip
  split
  · exact h
  · refine State.raiseSettleBoth_valuesInRange (State.notify_valuesInRange ?_) (by decide)
    exact h.of_same rfl rfl rfl rfl

theorem State.takeSample_valuesInRange (h : s.ValuesInRange) (a1 a2 : Word) : (s.takeSample a1 a2).ValuesInRange := by
  obtain ⟨h1, h2, h3⟩ := h.cond
  obtain ⟨b1, b2⟩ := nextBaseline_bounds h1 h2 (rawDifference s.cond.params a1 a2)
  exact h.of_cond _ ⟨b1, b2, h3⟩

theorem State.examineAux_valuesInRange (h : s.ValuesInRange) (f : SensorFields) : (s.examineAux f).ValuesInRange := by
  obtain ⟨h1, h2, h3, -⟩ := h.cond
  unfold State.examineAux
  split
  · exact h.of_cond _ ⟨h1, h2, h3, nofun⟩
  · exact h

theorem State.takeSensor_valuesInRange (h : s.ValuesInRange) (f : SensorFields) : (s.takeSensor f).ValuesInRange := by
  have h1 := State.examineAux_valuesInRange (State.takeSample_valuesInRange (State.checkClip_valuesInRange
    (State.checkSequence_valuesInRange h f.seq) f.channel1 f.channel2) f.channel1 f.channel2) f
  exact h1.of_lanes rfl rfl fun _ hk =>
    State.onReference_inRange (fun hr => ⟨hr.stale, hr.settle⟩) (State.onReference_inRange (fun hr => ⟨hr.stale, hr.settle⟩) hk)

/-! ## Downstream frames (R130) -/

theorem State.countWait_valuesInRange (h : s.ValuesInRange) : s.countWait.ValuesInRange := by
  rw [State.countWait_eq]
  exact h.of_same rfl rfl rfl rfl

theorem State.countFrame_valuesInRange (h : s.ValuesInRange) : s.countFrame.ValuesInRange :=
  State.countWait_valuesInRange (State.ageCommand_valuesInRange (h.of_same rfl rfl rfl rfl))

theorem State.sendReturn_valuesInRange (h : s.ValuesInRange) (e : Echo) : (s.sendReturn e).ValuesInRange :=
  h.of_same rfl rfl rfl rfl

theorem State.hold_valuesInRange (h : s.ValuesInRange) (words : List Word) : (s.hold words).ValuesInRange :=
  h.of_same rfl rfl rfl rfl

theorem State.servoFrame_valuesInRange (h : s.ValuesInRange) (f : ServoFields) (slots : EngineSlots) :
    (s.servoFrame f slots).ValuesInRange := by
  have hc := State.countFrame_valuesInRange h
  refine State.sendReturn_valuesInRange ⟨?_, State.lanePath_inRange f slots hc.lanes, ?_⟩ _
  · simpa using hc.cond
  · simpa using hc.decoder

/-- A downstream frame keeps the values in range, whatever the checks of R132 make of it. -/
theorem State.downstream_valuesInRange (h : s.ValuesInRange) (words : List Word) (slots : EngineSlots) :
    (s.downstream words slots).ValuesInRange := by
  have hh := State.hold_valuesInRange h words
  refine State.hold_valuesInRange ?_ []
  split
  · exact State.servoFrame_valuesInRange hh _ _
  · exact State.sendReturn_valuesInRange (State.manage_valuesInRange hh _ _) _
  · exact hh.of_same rfl rfl rfl rfl

/-! ## Event rows and engine rows -/

theorem State.engineMove_valuesInRange (h : s.ValuesInRange) : s.engineMove.ValuesInRange :=
  h.of_lanes (by simp) (by simp) fun _ hk => State.engineMove_inRange hk

end

/-- An outcome's next state, if there is one, has its values in range. -/
def OutcomeInRange (o : Host.Outcome State Fault Refusal) : Prop := ∀ t : State, o = .next t → t.ValuesInRange

theorem OutcomeInRange.next {t : State} (h : t.ValuesInRange) : OutcomeInRange (.next t) := by rintro _ ⟨⟩; exact h

/-- An engine row is the engine's movement, or changes nothing (log entry 3). -/
theorem execWordMovement_cases (s : State) :
    execWordMovement s = .next s.engineMove ∨ execWordMovement s = .next s := by
  unfold execWordMovement State.engineMove
  split
  · rename_i e; exact .inl (by rw [e]; rfl)
  · exact .inr rfl

theorem execBlockHeaderAppend_cases (s : State) :
    execBlockHeaderAppend s = .next s.engineMove ∨ execBlockHeaderAppend s = .next s := by
  unfold execBlockHeaderAppend State.engineMove
  split
  · rename_i e; exact .inl (by rw [e]; rfl)
  · exact .inr rfl

theorem execBlockTrailerAppend_cases (s : State) :
    execBlockTrailerAppend s = .next s.engineMove ∨ execBlockTrailerAppend s = .next s := by
  unfold execBlockTrailerAppend State.engineMove
  split
  · rename_i e; exact .inl (by rw [e]; rfl)
  · exact .inr rfl

theorem execSweepExamine_cases (s : State) :
    execSweepExamine s = .next s.engineMove ∨ execSweepExamine s = .next s := by
  unfold execSweepExamine State.engineMove
  split
  · rename_i e; exact .inl (by rw [e]; rfl)
  · exact .inr rfl

theorem OutcomeInRange.of_engine {s : State} {o : Host.Outcome State Fault Refusal} (h : s.ValuesInRange)
    (ho : o = .next s.engineMove ∨ o = .next s) : OutcomeInRange o := by
  rcases ho with rfl | rfl
  · exact .next (State.engineMove_valuesInRange h)
  · exact .next h

section
variable {s : State} {l : Lane}

theorem execReferenceLost_inRange (h : s.ValuesInRange) : OutcomeInRange (execReferenceLost l s) := by
  simp only [execReferenceLost]
  split
  · exact .next (h.of_lanes (by simp) (by simp) fun _ hk => State.examineFresh_inRange hk)
  · exact .next h

theorem execPrimingComplete_inRange (h : s.ValuesInRange) : OutcomeInRange (execPrimingComplete l s) := by
  simp only [execPrimingComplete]
  split
  · exact .next (h.of_lanes (by simp) (by simp) fun _ hk =>
      State.completePriming_inRange (State.pushSample_inRange hk))
  · exact .next h

theorem execCampaignDone_inRange (h : s.ValuesInRange) : OutcomeInRange (execCampaignDone l s) := by
  unfold execCampaignDone
  split
  · rename_i hd
    exact .next (h.of_lanes (by simp) (by simp) fun _ hk => State.countProbeStep_inRange (by omega) hk)
  · exact .next h

theorem execDivergenceRollback_inRange (h : s.ValuesInRange) : OutcomeInRange (execDivergenceRollback l s) := by
  unfold execDivergenceRollback
  split
  · split
    · exact .next (h.of_lanes (by simp) (by simp) fun _ hk => State.raiseDivergence_inRange hk)
    · exact .next h
  · exact .next h

theorem execWindowClose_inRange (h : s.ValuesInRange) : OutcomeInRange (execWindowClose l s) := by
  unfold execWindowClose
  split
  · exact .next (h.of_lanes (by simp) (by simp) fun _ hk => State.countWindow_inRange hk)
  · exact .next h

theorem execLaneFault_inRange (h : s.ValuesInRange) : OutcomeInRange (execLaneFault l s) := by
  unfold execLaneFault
  split
  · refine .next (h.of_lanes (by simp) (by simp) fun k hk => ?_)
    rcases Lane.eq_or_other k l with rfl | rfl
    · exact State.faultLane_inRange hk
    · rwa [State.faultLane_other]
  · exact .next h

theorem execArgumentExpired_inRange (h : s.ValuesInRange) : OutcomeInRange (execArgumentExpired s) := by
  unfold execArgumentExpired
  split
  · exact .next (State.ageCommand_valuesInRange h)
  · exact .next h

theorem execTransferTimeout_inRange (h : s.ValuesInRange) : OutcomeInRange (execTransferTimeout s) := by
  unfold execTransferTimeout
  split
  · exact .next (State.countWait_valuesInRange h)
  · exact .next h

theorem execSensorFrame_inRange (h : s.ValuesInRange) (words : List Word) :
    OutcomeInRange (execSensorFrame words s) := by
  unfold execSensorFrame
  split
  · exact .next (State.takeSensor_valuesInRange h _)
  · exact .next h

end

/-- Every command keeps the values of the lanes, the conditioner and the decoder in range. -/
theorem exec_inRange {s : State} (h : s.ValuesInRange) (c : Instr) : OutcomeInRange (exec c s) := by
  have hm : ∀ commands data : List Word, OutcomeInRange (.next (s.manage commands data)) :=
    fun commands data => .next (State.manage_valuesInRange h commands data)
  cases c with
  | powerOnReset cut => exact .next (State.powerOn_valuesInRange cut)
  | sensorFrame words => exact execSensorFrame_inRange h words
  | servoFrame words slots => exact .next (State.downstream_valuesInRange h words slots)
  | discardedFrame words | managementFrame words => exact .next (State.downstream_valuesInRange h words .none)
  | referenceLost l => exact execReferenceLost_inRange h
  | primingComplete l => exact execPrimingComplete_inRange h
  | campaignDone l => exact execCampaignDone_inRange h
  | divergenceRollback l => exact execDivergenceRollback_inRange h
  | windowClose l => exact execWindowClose_inRange h
  | laneFault l => exact execLaneFault_inRange h
  | argumentExpired => exact execArgumentExpired_inRange h
  | transferTimeout => exact execTransferTimeout_inRange h
  | bankDataWord n w v => exact .next (State.manageWrite_valuesInRange h (State.writeBankWord_valuesInRange h _ _))
  | mapEntryWrite l a v => exact .next (State.manageWrite_valuesInRange h (State.writeMap_valuesInRange h _ _))
  | fallbackWrite l v => exact .next (State.manageWrite_valuesInRange h (State.writeFallback_valuesInRange h _))
  | laneParameterWrite l p v =>
    exact .next (State.manageWrite_valuesInRange h (State.writeLaneParam_valuesInRange h _ _))
  | condParameterWrite p v => exact .next (State.manageWrite_valuesInRange h (State.writeCond_valuesInRange h _ _))
  | wordMovement => exact .of_engine h (execWordMovement_cases s)
  | blockHeaderAppend => exact .of_engine h (execBlockHeaderAppend_cases s)
  | blockTrailerAppend => exact .of_engine h (execBlockTrailerAppend_cases s)
  | sweepExamine => exact .of_engine h (execSweepExamine_cases s)
  | wordDisturbed n w place second => exact .next (h.of_same rfl rfl rfl rfl)
  | _ => exact hm _ _

theorem step_inRange {s : State} (h : s.ValuesInRange) : OutcomeInRange (step s) := by
  unfold step
  split
  · exact .next h
  · have hp : ∀ q : List Instr, (s.withPending q).ValuesInRange := fun _ => h.of_same rfl rfl rfl rfl
    exact exec_inRange (hp _) _

/-- Settles O57: every shared operation keeps the ranges, so every command and every step does. -/
theorem valuesStayInRange : Obligations.ValuesStayInRange := by
  intro s t hc hl hd e
  exact t.valuesInRange_iff.mp (step_inRange (s.valuesInRange_iff.mpr ⟨hc, hl, hd⟩) t e)

end Sys2Proof.Machine
end

