-- ==== Sys2Proof/Proofs/Resets.lean ====
section
/-! SUPPORT. The two resets, block by block. -/

namespace Sys2Proof.Machine

/-! ## The power-on reset (R141) -/

/-- Every counter stands at 0 when the three groups of counters do. -/
theorem State.counterList_eq_zero {s : State} (h : s.counters = PartCounters.zero)
    (h0 : s.lane0.counters = LaneCounters.zero) (h1 : s.lane1.counters = LaneCounters.zero) :
    ∀ c ∈ s.counterList, c = 0 := by
  rw [State.counterList, h, h0, h1]
  decide

/-- A port's last frame, if its first words may still be leaving, ends after the words that had left. -/
theorem cutPort_of_begun {k : Nat} {frames before : List (List Word)} {f : List Word} {begun : Bool} {cut : Option Nat}
    (hb : begun = true) (hc : cut = some k) (hf : frames = before ++ [f]) :
    cutPort begun cut frames = before ++ [f.take k] := by
  subst hb hc hf
  exact cutPort_append k before f

/-- A port without a frame on its way keeps its frames. -/
theorem cutPort_of_none {frames : List (List Word)} {begun : Bool} {cut : Option Nat} (h : begun = false ∨ cut = none) :
    cutPort begun cut frames = frames := by
  rcases h with rfl | rfl
  · exact cutPort_of_none_begun cut frames
  · exact cutPort_whole begun frames

/-- Settles O3: each block is the model's reset value of it, and the ports are cut as `cutPort` says. -/
theorem powerOnResetReturnsEveryBlock : Obligations.PowerOnResetReturnsEveryBlock := by
  intro cut s
  refine ⟨s.powerOn cut, rfl, rfl, fun l => ?_, rfl, rfl, rfl, State.counterList_eq_zero rfl rfl rfl, ?_, rfl, rfl, rfl,
    fun h => cutPort_of_none h, fun h => cutPort_of_none h, fun _ _ _ hb hc hf => cutPort_of_begun hb hc hf,
    fun _ _ _ hb hc hf => cutPort_of_begun hb hc hf, rfl⟩
  · rw [State.powerOn_lane]
    exact ⟨rfl, rfl, rfl, rfl, rfl, rfl⟩
  · exact ⟨rfl, rfl, rfl, rfl, rfl, rfl, rfl, rfl, rfl, rfl, rfl⟩

/-! ## The part reset (R163) -/

/-- PART RESET by itself: the part reset, and its header in the emptied Response Queue. -/
theorem execPartReset_eq {s : State} (h : s.accepts 1) :
    exec .partReset s = .next (s.partReset.respond 21#6 (.bare .ok)) := by
  obtain ⟨hc, -, hr⟩ := h
  have hserved := s.execCommand_served ⟨21#6, .zero, 0⟩ [] 0 false (Nat.zero_le _)
  have hcommand := State.command_bare .zero hc hr 21#6 rfl 0
  rw [hserved] at hcommand
  exact congrArg Host.Outcome.next hcommand

@[simp] theorem State.partReset_record (s : State) (n : SetNo) : s.partReset.record n = (s.record n).partReset := by
  simp [State.record, State.partReset, Bank.partReset]

/-- Settles O5: `State.partReset`, block by block. -/
theorem partResetReturnsEveryBlock : Obligations.PartResetReturnsEveryBlock := by
  intro s h
  refine ⟨_, execPartReset_eq h, rfl, rfl, ?_, rfl, rfl, rfl, rfl, rfl, rfl, rfl, fun l => ?_, rfl, fun n => ?_, rfl, rfl,
    rfl, rfl⟩
  · exact State.counterList_eq_zero rfl rfl rfl
  · rw [State.respond_lane, State.partReset_lane]
    refine ⟨rfl, rfl, rfl, ?_, rfl, ?_⟩
    · dsimp only [LaneState.partReset, Adaptation.partReset]
      cases s.cond.params.retain <;> rfl
    · dsimp only [LaneState.partReset, Control.partReset]
      cases s.cond.params.retain <;> rfl
  · rw [State.respond_record, State.partReset_record]
    rfl

end Sys2Proof.Machine
end

