-- ==== Sys2Proof/Proofs/ConditionerParameters.lean ====
section
/-! SUPPORT. A word for a conditioner parameter (R7, R8). -/

namespace Sys2Proof.Machine

variable {s : State}

/-- The lane states in which conditioner parameters cannot be written are those other than OFF and STANDBY. -/
theorem LaneMode.started_iff (m : LaneMode) : m.started = true ↔ ¬(m = .off ∨ m = .standby) := by
  cases m <;> decide

/-- Refused while either lane is started (R8). -/
theorem State.writeCond_refused (h : ¬(s.lane0.atRest ∧ s.lane1.atRest)) (p : CondParam) (v : Word) :
    s.writeCond p v = (s, .refused .state) := by
  refine if_pos ?_
  rw [Bool.or_eq_true, LaneMode.started_iff, LaneMode.started_iff]
  exact not_and_or.mp h

/-- Given to the parameter while both lanes are at rest (R8). -/
theorem State.writeCond_accepted (h0 : s.lane0.atRest) (h1 : s.lane1.atRest) (p : CondParam) (v : Word) :
    s.writeCond p v = ({ s with cond := (s.cond.writeParam p v).1 }, (s.cond.writeParam p v).2) := by
  refine if_neg ?_
  rw [Bool.or_eq_true, LaneMode.started_iff, LaneMode.started_iff]
  exact fun h => h.elim (· h0) (· h1)

/-- A numeric word is reported when it was clamped (R152). -/
theorem State.report_ofClamp (written kept : Nat) :
    s.report (Tally.count ⟨0, 0⟩ (.ofClamp written kept)) = s.reported 0 (if written = kept then 0 else 1) := by
  unfold WriteOutcome.ofClamp
  split
  · rw [State.report_stored, State.reported_none]
  · rw [State.report_clamped, State.reported_clamped]

/-- The word of a parameter of two values: stored when it is 0 or 1, else refused (R8). -/
theorem State.report_writeBit (v : Word) (f : Bool → CondParams) :
    State.report { s with cond := (s.cond.writeBit v f).1 } (Tally.count ⟨0, 0⟩ (s.cond.writeBit v f).2) =
      if v.toNat ≤ 1 then { s with cond := { s.cond with params := f (decide (v.toNat = 1)) } } else s.reported 1 0 := by
  unfold Conditioner.writeBit
  split
  · exact State.report_stored _
  · rw [State.report_refused, State.reported_refused]

theorem clampBand_val (n : Nat) : (clampBand n).val = min 3 n := by
  unfold clampBand
  split_ifs
  · omega
  · omega
  · omega
  · show 3 = _; omega

/-- Settles O10, by the owner's outcome for each parameter and the report of it. -/
theorem conditionerParameterWrite : Obligations.ConditionerParameterWrite := by
  intro v s hr
  have row : ∀ p : CondParam, exec (.condParameterWrite p v) s =
      .next ((s.writeCond p v).1.report (Tally.count ⟨0, 0⟩ (s.writeCond p v).2)) := fun p =>
    congrArg Host.Outcome.next (State.manageWrite_eq hr _)
  refine ⟨fun h p => ?_, fun h0 h1 => ?_⟩
  · rw [row, State.writeCond_refused h, State.report_refused, State.reported_refused]
  have take : ∀ p : CondParam, exec (.condParameterWrite p v) s =
      .next (State.report { s with cond := (s.cond.writeParam p v).1 } (Tally.count ⟨0, 0⟩ (s.cond.writeParam p v).2)) :=
    fun p => by rw [row, State.writeCond_accepted h0 h1]
  have stored : ∀ c : Conditioner, State.report { s with cond := c } (Tally.count ⟨0, 0⟩ .stored) = { s with cond := c } :=
    fun c => State.report_stored _
  have bit : ∀ f : Bool → CondParams, _ := State.report_writeBit (s := s) v
  refine ⟨?_, ?_, ?_, ?_, ?_, ?_, ?_, ?_, ⟨clampBand v.toNat, clampBand_val _, ?_⟩, ?_⟩
  · exact (take _).trans (congrArg _ (bit _))
  · exact (take _).trans (congrArg _ (bit _))
  · exact (take _).trans (congrArg _ (stored _))
  · exact (take _).trans (congrArg _ (stored _))
  · exact (take _).trans (congrArg _ (stored _))
  · exact (take _).trans (congrArg _ (stored _))
  · exact (take _).trans (congrArg _ (stored _))
  · have hk : clampNat 0 255 v.toNat = min 255 v.toNat := by simp only [clampNat]; omega
    have hc : (if v.toNat = min 255 v.toNat then 0 else 1) = if 255 < v.toNat then 1 else 0 := by split_ifs <;> omega
    rw [take]
    simp only [Conditioner.writeParam, State.report_ofClamp, hk, hc]
  · have hc : (if v.toNat = min 3 v.toNat then 0 else 1) = if 3 < v.toNat then 1 else 0 := by split_ifs <;> omega
    rw [take]
    simp only [Conditioner.writeParam, State.report_ofClamp, clampBand_val, hc, Conditioner.withStartBand]
  · exact (take _).trans (congrArg _ (bit _))

end Sys2Proof.Machine
end

