-- ==== Sys2Proof/Proofs/EventRows.lean ====
section
/-! SUPPORT. The rows that stand for one step within another event: when each is due, and what it does then. -/

namespace Sys2Proof.Machine

variable {s : State} {l : Lane}

/-! ## Rows that are not due (log entries 2 and 3) -/

theorem execReferenceLost_not_due
    (h : (s.lane l).control.mode = .off ∨ (s.lane l).reference.fresh = true ∨ (s.lane l).reference.status = .lost
      ∨ min 1023 ((s.lane l).reference.staleCount + 1) < (s.lane l).control.staleLimit + (s.lane l).control.holdLength) :
    execReferenceLost l s = .next s := by
  refine if_neg ?_
  rintro ⟨hm, hf, hs, hc⟩
  simp only [nextStale, Bool.false_eq_true, if_false, Config.staleMax] at hc
  rcases h with h | h | h | h
  · exact hm h
  · exact absurd (hf.symm.trans h) (by decide)
  · exact hs h
  · omega

theorem execPrimingComplete_not_due
    (h : (s.lane l).control.mode ≠ .priming ∨ (s.lane l).reference.status ≠ .good ∨ (s.lane l).control.fill < 63) :
    execPrimingComplete l s = .next s := by
  refine if_neg ?_
  rintro ⟨hm, hs, hf⟩
  simp only [Config.fillFull] at hf
  rcases h with h | h | h
  · exact h hm
  · exact h hs
  · omega

theorem execCampaignDone_not_due
    (h : (s.lane l).campaign.state ≠ .running ∨ (s.lane l).campaign.done + 1 ≠ (s.lane l).campaign.requested) :
    execCampaignDone l s = .next s :=
  if_neg fun ⟨hr, hd⟩ => h.elim (· hr) (· hd)

theorem execDivergenceRollback_not_due
    (h : (s.lane l).selection.current = none ∨ (s.lane l).adapt.divergence < 63 ∨ (s.lane l).control.mode ≠ .running
      ∨ (s.lane l).selection.route ≠ .primary
      ∨ (∃ n, (s.lane l).selection.current = some n
          ∧ ((s.record n).state ≠ .live ∨ (s.record n).frozen = true ∨ (s.record n).hold ≠ .none))) :
    execDivergenceRollback l s = .next s := by
  unfold execDivergenceRollback
  split
  · rename_i n hn
    refine if_neg ?_
    rintro ⟨ha, hd⟩
    simp only [Config.divergenceLimit] at hd
    obtain ⟨hm, hr, hset⟩ := (s.rollbackAllowed_iff l n).mp ha
    obtain ⟨-, hlive, hfrozen, hhold⟩ := (s.setAdapts_iff l n).mp hset
    rcases h with h | h | h | h | ⟨m, hc, h⟩
    · rw [h] at hn; cases hn
    · omega
    · exact h hm
    · exact h hr
    · obtain rfl : n = m := Option.some.inj (hn.symm.trans hc)
      rcases h with h | h | h
      · exact h hlive
      · exact absurd (hfrozen.symm.trans h) (by decide)
      · exact h hhold
  · rfl

theorem execWindowClose_not_due
    (h : (s.lane l).control.mode ≠ .running ∨ (s.lane l).adapt.mode ≠ .window ∨ (s.lane l).adapt.window ≠ 1) :
    execWindowClose l s = .next s :=
  if_neg fun ⟨hr, hm, hw⟩ => h.elim (· hr) fun h => h.elim (· hm) (· hw)

theorem execLaneFault_not_due (h : (s.lane l).control.mode ≠ .running ∨ (s.lane l).filter.saturationRun < 31) :
    execLaneFault l s = .next s := by
  refine if_neg ?_
  rintro ⟨hm, hr⟩
  simp only [Config.saturationLimit] at hr
  rcases h with h | h
  · exact h hm
  · omega

theorem execArgumentExpired_not_due (h : s.decoder.command = none ∨ s.decoder.age < 15) :
    execArgumentExpired s = .next s := by
  refine if_neg ?_
  rintro ⟨hc, ha⟩
  simp only [Config.argumentAgeLimit] at ha
  rcases h with h | h
  · rw [h] at hc; cases hc
  · omega

theorem execTransferTimeout_not_due (h : s.transfer.state ≠ .waiting ∨ s.transfer.waitCount < 4095) :
    execTransferTimeout s = .next s := by
  refine if_neg ?_
  rintro ⟨hw, hc⟩
  simp only [Config.waitLimit] at hc
  rcases h with h | h
  · exact h hw
  · omega

/-- A block of a DUMP or SWEEP is at the given phase (R171, R173). -/
abbrev State.inBlock (s : State) (p : TransferPhase) : Prop :=
  s.transfer.state = .active ∧ s.transfer.mode ≠ .copy ∧ s.transfer.phase = p

/-- The Response Queue admits one more transfer word (R158). -/
abbrev State.fits (s : State) : Prop := s.transferWords < 24 ∧ s.responses.length < 32

/-- What is needed for a movement to be due (R169 to R173). -/
def State.Needs (s : State) : Movement → Prop
  | .word n =>
    s.transfer.current = some n ∧ (s.transfer.state = .active ∧ s.transfer.mode = .copy ∨ s.inBlock .words ∧ s.fits)
  | .header n => s.transfer.current = some n ∧ s.inBlock .header ∧ s.fits
  | .trailer n => s.transfer.current = some n ∧ s.inBlock .trailer ∧ s.fits
  | .examine _ => s.inBlock .examine

/-- A COPY moves words and nothing else (R170). -/
theorem State.due_copy (ha : s.transfer.state = .active) (hm : s.transfer.mode = .copy) :
    s.due = s.transfer.current.map .word := by
  unfold State.due
  rw [if_neg (not_not.mpr ha), hm]
  cases s.transfer.current <;> rfl

/-- A DUMP or SWEEP follows its block: examination, header, words, trailer, the last three while there is room
(R171, R173). -/
theorem State.due_block (ha : s.transfer.state = .active) (hm : s.transfer.mode ≠ .copy) :
    (s.transfer.phase = .examine → s.due = some (.examine s.transfer.current))
      ∧ (s.transfer.phase = .header → s.due = if s.admitsTransferWord then s.transfer.current.map .header else none)
      ∧ (s.transfer.phase = .words → s.due = if s.admitsTransferWord then s.transfer.current.map .word else none)
      ∧ (s.transfer.phase = .trailer →
          s.due = if s.admitsTransferWord then s.transfer.current.map .trailer else none) := by
  unfold State.due
  rw [if_neg (not_not.mpr ha)]
  cases h : s.transfer.mode
  · exact absurd h hm
  all_goals
    refine ⟨fun hp => ?_, fun hp => ?_, fun hp => ?_, fun hp => ?_⟩ <;> rw [hp] <;>
      cases s.transfer.current <;> simp

theorem State.needs_of_due {m : Movement} (h : s.due = some m) : s.Needs m := by
  have ha : s.transfer.state = .active := by
    by_contra hn
    simp [State.due, hn] at h
  by_cases hm : s.transfer.mode = .copy
  · rw [State.due_copy ha hm, Option.map_eq_some_iff] at h
    obtain ⟨n, hc, rfl⟩ := h
    exact ⟨hc, .inl ⟨ha, hm⟩⟩
  · have appended : ∀ f : SetNo → Movement,
        (if s.admitsTransferWord then s.transfer.current.map f else none) = some m →
          s.fits ∧ ∃ n, s.transfer.current = some n ∧ f n = m := by
      intro f hf
      split at hf
      · exact ⟨s.admitsTransferWord_iff.mp ‹_›, Option.map_eq_some_iff.mp hf⟩
      · cases hf
    obtain ⟨examine, header, words, trailer⟩ := State.due_block ha hm
    cases hp : s.transfer.phase with
    | examine =>
      obtain rfl := Option.some.inj ((examine hp).symm.trans h)
      exact ⟨ha, hm, hp⟩
    | header =>
      obtain ⟨hf, n, hc, rfl⟩ := appended _ ((header hp).symm.trans h)
      exact ⟨hc, ⟨ha, hm, hp⟩, hf⟩
    | words =>
      obtain ⟨hf, n, hc, rfl⟩ := appended _ ((words hp).symm.trans h)
      exact ⟨hc, .inr ⟨⟨ha, hm, hp⟩, hf⟩⟩
    | trailer =>
      obtain ⟨hf, n, hc, rfl⟩ := appended _ ((trailer hp).symm.trans h)
      exact ⟨hc, ⟨ha, hm, hp⟩, hf⟩

/-- Settles O38: each row is due only where its rule's needs are met. -/
theorem eventsNotDueChangeNothing : Obligations.EventsNotDueChangeNothing := by
  intro l s
  refine ⟨execReferenceLost_not_due, execPrimingComplete_not_due, execCampaignDone_not_due,
    execDivergenceRollback_not_due, execWindowClose_not_due, execLaneFault_not_due, execArgumentExpired_not_due,
    execTransferTimeout_not_due, fun h => ?_, fun h => ?_, fun h => ?_, fun h => ?_⟩
  · show execWordMovement s = _
    unfold execWordMovement
    split
    · rename_i e
      obtain ⟨hc, hn⟩ := State.needs_of_due e
      rcases h with h | ⟨h1, h2⟩
      · rw [h] at hc; cases hc
      · exact (hn.elim h1 h2).elim
    · rfl
  · show execBlockHeaderAppend s = _
    unfold execBlockHeaderAppend
    split
    · rename_i e
      obtain ⟨hc, hn⟩ := State.needs_of_due e
      rcases h with h | h
      · rw [h] at hc; cases hc
      · exact (h hn).elim
    · rfl
  · show execBlockTrailerAppend s = _
    unfold execBlockTrailerAppend
    split
    · rename_i e
      obtain ⟨hc, hn⟩ := State.needs_of_due e
      rcases h with h | h
      · rw [h] at hc; cases hc
      · exact (h hn).elim
    · rfl
  · show execSweepExamine s = _
    unfold execSweepExamine
    split
    · rename_i e
      exact (h (State.needs_of_due e)).elim
    · rfl

end Sys2Proof.Machine
end

