-- ==== Sys2Proof/Proofs/LimitEvents.lean ====
section
/-! SUPPORT. The events that the last rise to a limit brings about, and how a servo frame raises the counts that have
a limit (R11, R12, R65, R70, R71, R86, R105, R116, R148, R168). -/

namespace Sys2Proof.Machine

/-! ## Histories (sections 1.7 and 1.8) -/

theorem entryAt_of_lt {n : Nat} (v : Vector Word n) {i : Nat} (h : i < n) : entryAt v i = v[i] := by
  simp [entryAt, List.getD_eq_getElem?_getD, h]

/-- Beyond its first place a pushed history is the old one, one place on. -/
theorem entryAt_pushEntry {n : Nat} (v : Vector Word n) (x : Word) (i : Nat) :
    entryAt (pushEntry v x) i = if i < n then (if i = 0 then x else entryAt v (i - 1)) else 0 := by
  split
  · rename_i h
    rw [entryAt_of_lt _ h, pushEntry, Vector.getElem_ofFn]
  · simp [entryAt, List.getD_eq_getElem?_getD, *]

theorem getElem_pushEntry {n : Nat} (v : Vector Word n) (x : Word) (i : Fin n) :
    (pushEntry v x)[i.val] = if i.val = 0 then x else v[i.val - 1] := by
  rw [← entryAt_of_lt _ i.isLt, entryAt_pushEntry, if_pos i.isLt, entryAt_of_lt]

variable {s : State} {l : Lane}

/-! ## Lanes -/

/-- The examination that finds no fresh sample for the last time grades the reference LOST (R11, R12). -/
theorem execReferenceLost_due (hm : (s.lane l).control.mode ≠ .off) (hf : (s.lane l).reference.fresh = false)
    (hs : (s.lane l).reference.status ≠ .lost) (hc : (s.lane l).reference.staleCount ≤ 1022)
    (hl : (s.lane l).control.staleLimit + (s.lane l).control.holdLength ≤ (s.lane l).reference.staleCount + 1) :
    execReferenceLost l s =
      .next ((s.onReference l fun r => { r with status := .lost, staleCount := r.staleCount + 1 }).notify
        .referenceLost (some l) 0) := by
  have hn : nextStale false (s.lane l).reference.staleCount = (s.lane l).reference.staleCount + 1 := by
    simp only [nextStale, Config.staleMax]
    exact Nat.min_eq_right (by omega)
  have hg : gradeReference ((s.lane l).reference.staleCount + 1) (s.lane l).control.staleLimit
      (s.lane l).control.holdLength = .lost := by
    rw [gradeReference, if_neg (by omega), if_neg (by omega)]
  have he : (s.lane l).reference.examined (s.lane l).control =
      { (s.lane l).reference with status := .lost, staleCount := (s.lane l).reference.staleCount + 1 } := by
    simp only [Reference.examined, hf, hn, hg]
  have hx : s.examineFresh l =
      (s.onReference l fun _ =>
        { (s.lane l).reference with status := .lost, staleCount := (s.lane l).reference.staleCount + 1 }).notify
          .referenceLost (some l) 0 := by
    simp only [State.examineFresh, he]
    rw [if_neg (by simp [hf]), if_pos ⟨trivial, hs⟩]
  refine (if_pos ⟨hm, hf, hs, by rw [hn]; exact hl⟩).trans ?_
  rw [hx]
  rfl

/-- The push that fills the ring of a PRIMING lane makes it RUNNING (R116). -/
theorem completePriming_of_full {m : State} (hm : (m.lane l).control.mode = .priming) (hf : 64 ≤ (m.lane l).control.fill) :
    m.completePriming l = m.onControl l fun c => { c with mode := .running } := if_pos ⟨hm, hf⟩

theorem execPrimingComplete_due (hm : (s.lane l).control.mode = .priming) (hs : (s.lane l).reference.status = .good)
    (hf : (s.lane l).control.fill = 63) :
    execPrimingComplete l s =
      .next ((s.onReference l fun r =>
          { r with ring := pushEntry (s.lane l).reference.ring s.cond.sample, settle := r.settle - 1 }).onControl l
        fun c => { c with mode := .running, fill := 64 }) := by
  refine (if_pos ⟨hm, hs, by simp [hf]⟩).trans (congrArg _ ?_)
  rw [completePriming_of_full (by simpa [State.pushSample] using hm) (by simp [State.pushSample, hf])]
  cases l <;> simp_all [State.pushSample, State.onControl, State.onReference, State.setLane, State.lane]

theorem execCampaignDone_due (hr : (s.lane l).campaign.state = .running)
    (hd : (s.lane l).campaign.done + 1 = (s.lane l).campaign.requested) :
    execCampaignDone l s =
      .next ((s.onCampaign l fun c => { c with state := .done, done := c.requested }).notify .probeDone (some l) 0) := by
  refine (if_pos ⟨hr, hd⟩).trans (congrArg _ ?_)
  refine (if_pos hd).trans ?_
  rw [hd]
  rfl

theorem execWindowClose_due (hr : (s.lane l).control.mode = .running) (hm : (s.lane l).adapt.mode = .window)
    (hw : (s.lane l).adapt.window = 1) :
    execWindowClose l s =
      .next ((s.onAdapt l fun x => { x with window := 0 }).notify .windowDone (some l) 0) := by
  refine (if_pos ⟨hr, hm, hw⟩).trans (congrArg _ ?_)
  simp only [State.countWindow, hm, hw, if_true]
  have h0 : (s.onAdapt l fun x => { x with window := x.window - 1 }) = s.onAdapt l fun x => { x with window := 0 } := by
    simp only [State.onAdapt, hw]
  rw [h0]

/-! ## The argument age (R148) and the wait count (R168) -/

theorem State.ageCommand_none (h : s.decoder.command = none) : s.ageCommand = s := by
  unfold State.ageCommand
  rw [h]

theorem State.ageCommand_expires {p : PendingCommand} (h : s.decoder.command = some p) (ha : 15 ≤ s.decoder.age) :
    s.ageCommand = s.clearCommand.notify .argumentExpired none p.fields.code.toNat := by
  unfold State.ageCommand
  rw [h]
  exact if_pos (Nat.succ_le_succ ha)

theorem State.ageCommand_ages {p : PendingCommand} (h : s.decoder.command = some p) (ha : s.decoder.age < 15) :
    s.ageCommand = { s with decoder := { s.decoder with age := s.decoder.age + 1 } } := by
  unfold State.ageCommand
  rw [h]
  exact if_neg (by simp only [Config.argumentAgeLimit]; omega)

/-- The decoder after a frame's rise of the argument age. -/
theorem State.ageCommand_decoder :
    s.ageCommand.decoder =
      if s.decoder.command = none then s.decoder
      else if 15 ≤ s.decoder.age then { s.decoder with command := none, age := 0 }
      else { s.decoder with age := s.decoder.age + 1 } := by
  cases h : s.decoder.command with
  | none => rw [State.ageCommand_none h, if_pos rfl]
  | some p =>
    rw [if_neg nofun]
    by_cases ha : 15 ≤ s.decoder.age
    · rw [State.ageCommand_expires h ha, if_pos ha]; rfl
    · rw [State.ageCommand_ages h (by omega), if_neg ha]

/-- The rise of the age touches neither the transfer record nor the bank. -/
theorem State.ageCommand_transfer_bank :
    s.ageCommand.transfer = s.transfer ∧ s.ageCommand.bank = s.bank := by
  rw [State.ageCommand_eq]
  exact ⟨rfl, rfl⟩

theorem State.ageCommand_notices_kept (h : ¬(s.decoder.command ≠ none ∧ 15 ≤ s.decoder.age)) :
    s.ageCommand.notices = s.notices := by
  cases hc : s.decoder.command with
  | none => rw [State.ageCommand_none hc]
  | some p => rw [State.ageCommand_ages hc (by simpa [hc] using h)]

theorem State.countWait_idle (h : s.transfer.state ≠ .waiting) : s.countWait = s := if_neg h

theorem State.countWait_waits (h : s.transfer.state = .waiting) (hw : s.transfer.waitCount < 4095) :
    s.countWait = { s with transfer := { s.transfer with waitCount := s.transfer.waitCount + 1 } } := by
  unfold State.countWait
  rw [if_pos h]
  exact if_neg (by simp only [Config.waitLimit]; omega)

/-- A wait of 4096 frames ends the transfer TIMEOUT (R168, R174). -/
theorem State.countWait_ends (h : s.transfer.state = .waiting) (hw : 4095 ≤ s.transfer.waitCount) :
    s.countWait =
      { s with
        bank := s.releaseHolds.bank
        transfer :=
          { s.transfer with state := .done, outcome := some .timeout, waitCount := s.transfer.waitCount + 1 }
        notices := s.notices.add .transferDone none 2 } := by
  unfold State.countWait
  rw [if_pos h]
  refine (if_pos (Nat.succ_le_succ hw)).trans ?_
  rw [State.endTransfer_eq _ .timeout (.inr (by decide))]
  rfl

/-- The transfer record after a frame's rise of the wait count. -/
theorem State.countWait_transfer :
    s.countWait.transfer =
      if s.transfer.state = .waiting then
        { s.transfer with
          waitCount := s.transfer.waitCount + 1
          state := if 4095 ≤ s.transfer.waitCount then .done else .waiting
          outcome := if 4095 ≤ s.transfer.waitCount then some .timeout else s.transfer.outcome }
      else s.transfer := by
  by_cases h : s.transfer.state = .waiting
  · rw [if_pos h]
    by_cases hw : 4095 ≤ s.transfer.waitCount
    · simp only [State.countWait_ends h hw, if_pos hw]
    · simp only [State.countWait_waits h (by omega), if_neg hw, h]
  · rw [State.countWait_idle h, if_neg h]

theorem State.countWait_record (m : SetNo) :
    s.countWait.record m =
      { s.record m with
        hold := if s.transfer.state = .waiting ∧ 4095 ≤ s.transfer.waitCount then .none else (s.record m).hold } := by
  by_cases h : s.transfer.state = .waiting ∧ 4095 ≤ s.transfer.waitCount
  · rw [State.countWait_ends h.1 h.2, if_pos h]
    exact s.releaseHolds_record m
  · rw [if_neg h]
    by_cases hw : s.transfer.state = .waiting
    · rw [State.countWait_waits hw (by simpa [hw] using h)]; rfl
    · rw [State.countWait_idle hw]

theorem State.countWait_notices :
    s.countWait.notices =
      if s.transfer.state = .waiting ∧ 4095 ≤ s.transfer.waitCount then s.notices.add .transferDone none 2
      else s.notices := by
  by_cases h : s.transfer.state = .waiting ∧ 4095 ≤ s.transfer.waitCount
  · rw [State.countWait_ends h.1 h.2, if_pos h]
  · rw [if_neg h]
    by_cases hw : s.transfer.state = .waiting
    · rw [State.countWait_waits hw (by simpa [hw] using h)]
    · rw [State.countWait_idle hw]

theorem execTransferTimeout_due (h : s.transfer.state = .waiting) (hw : 4095 ≤ s.transfer.waitCount) :
    execTransferTimeout s = .next s.countWait := if_pos ⟨h, Nat.succ_le_succ hw⟩

theorem execArgumentExpired_due {p : PendingCommand} (h : s.decoder.command = some p) (ha : s.decoder.age = 15) :
    execArgumentExpired s =
      .next (State.notify { s with decoder := { s.decoder with command := none, age := 0 } } .argumentExpired none
        p.fields.code.toNat) := by
  refine (if_pos ⟨by rw [h]; rfl, by rw [ha]⟩).trans ?_
  rw [State.ageCommand_expires h ha.ge]
  rfl

/-- The frame counted, before its age and its wait. -/
def State.frameCounted (s : State) : State := { s with link := { s.link with frameTime := s.link.frameTime + 1 } }

/-- A counted frame is its rise of the age, then its rise of the wait count (R134; log entry 10). -/
theorem State.countFrame_eq :
    s.countFrame =
      { s with
        link := { s.link with frameTime := s.link.frameTime + 1 }
        decoder := s.frameCounted.ageCommand.decoder
        bank := { s.bank with records := s.countFrame.bank.records }
        transfer := s.frameCounted.ageCommand.countWait.transfer
        notices := s.countFrame.notices } := by
  obtain ⟨d, q, ha⟩ : ∃ d q, s.frameCounted.ageCommand = { s.frameCounted with decoder := d, notices := q } :=
    ⟨_, _, State.ageCommand_eq _⟩
  obtain ⟨t, q, r, hw⟩ : ∃ t q r, s.frameCounted.ageCommand.countWait =
      { s.frameCounted.ageCommand with
        transfer := t, notices := q, bank := { s.frameCounted.ageCommand.bank with records := r } } :=
    ⟨_, _, _, State.countWait_eq _⟩
  have hc : s.countFrame = s.frameCounted.ageCommand.countWait := rfl
  rw [hc, hw, ha]
  rfl

/-! ## The output command and the lane fault (R65, R70, R71) -/

theorem State.formOutput_effect (sum : Int) :
    s.formOutput l sum =
      (s.onCounters l fun c =>
          { c with
            commandSaturation :=
              if sum < -32768 ∨ 32767 < sum then min 65535 (c.commandSaturation + 1) else c.commandSaturation }).onFilter
        l fun x =>
          { x with
            saturationRun :=
              if (s.lane l).control.mode = .running then (if sum < -32768 ∨ 32767 < sum then x.saturationRun + 1 else 0)
              else x.saturationRun } := by
  simp only [State.formOutput, saturated_iff]
  split <;> split <;> cases l <;> rfl

theorem State.checkFault_below (h : (s.lane l).control.mode ≠ .running ∨ (s.lane l).filter.saturationRun < 32) :
    s.checkFault l = s :=
  if_neg fun ⟨hm, hr⟩ => h.elim (· hm) (Nat.not_lt.mpr hr)

theorem execLaneFault_eq_checkFault (hm : (s.lane l).control.mode = .running)
    (hr : 32 ≤ (s.lane l).filter.saturationRun) : execLaneFault l s = .next (s.checkFault l) :=
  (if_pos ⟨hm, Nat.le_succ_of_le hr⟩).trans (congrArg _ (if_pos ⟨hm, hr⟩).symm)

/-- Settles O36: each limit's event as its rise makes it. -/
theorem limitEvents : Obligations.LimitEvents := by
  intro l s
  refine ⟨fun hm hf hs _ hc hl => execReferenceLost_due hm hf hs hc hl, fun hm hs hf => ?_, execCampaignDone_due,
    execWindowClose_due, fun p => execArgumentExpired_due, fun h hw => ?_, ?_, State.formOutput_effect,
    State.checkFault_below, execLaneFault_eq_checkFault⟩
  · refine ⟨_, execPrimingComplete_due hm hs hf, fun i => ?_, ?_⟩
    · simpa using getElem_pushEntry _ _ i
    · simp
  · refine ⟨_, execTransferTimeout_due h hw, ?_, fun m => ?_⟩
    · rw [State.countWait_ends h hw]; rfl
    · rw [State.countWait_record, if_pos ⟨h, hw⟩]
  · obtain ⟨ht, hb⟩ := State.ageCommand_transfer_bank (s := s.frameCounted)
    refine ⟨_, rfl, ?_, fun m => ?_, s.frameCounted.ageCommand.notices, fun h => State.ageCommand_notices_kept h,
      fun p hp h => ?_, ?_⟩
    · refine s.countFrame_eq.trans ?_
      rw [State.ageCommand_decoder, State.countWait_transfer, ht]
      rfl
    · refine (s.frameCounted.ageCommand.countWait_record m).trans ?_
      rw [ht, State.record, hb]
      rfl
    · rw [State.ageCommand_expires (s := s.frameCounted) hp h.2]
      rfl
    · refine (State.countWait_notices (s := s.frameCounted.ageCommand)).trans ?_
      rw [ht]
      rfl

end Sys2Proof.Machine
end

