-- ==== Sys2Proof/Proofs/SensorFrames.lean ====
section
/-! SUPPORT. A sensor frame: the rotational sample and its arithmetic (R2, R3), the sequence check and the clip (R1,
R4), the temperature and its band (R5, R6). -/

namespace Sys2Proof.Machine

/-! ## Arithmetic (spec/00_scope.md, "Conventions") -/

theorem word_toInt_bounds (a : Word) : -32768 ≤ a.toInt ∧ a.toInt ≤ 32767 := by
  have h1 := BitVec.toInt_lt (x := a)
  have h2 := BitVec.le_toInt (x := a)
  omega

theorem ofInt_toInt {x : Int} (h1 : -32768 ≤ x) (h2 : x ≤ 32767) : (BitVec.ofInt 16 x).toInt = x := by
  rw [BitVec.toInt_ofInt, Int.bmod_def]
  omega

@[simp] theorem sat16_toInt (x : Int) : (sat16 x).toInt = max (-32768) (min x 32767) :=
  ofInt_toInt (by omega) (by omega)

/-- Sat16 of a word's own value is the word. -/
@[simp] theorem sat16_word (a : Word) : sat16 a.toInt = a := by
  obtain ⟨h1, h2⟩ := word_toInt_bounds a
  rw [sat16, min_eq_left h2, max_eq_right h1, BitVec.ofInt_toInt]

/-- The floor of the spec's divisions is Lean's division, the divisors being positive. -/
theorem fdiv_of_pos (x : Int) {d : Int} (h : 0 ≤ d) : x.fdiv d = x / d := Int.fdiv_eq_ediv_of_nonneg x h

/-! ## The raw difference (R2) -/

theorem scaledChannel_eq (negative : Bool) (trim a : Word) :
    scaledChannel negative trim a =
      ((if negative then -1 else 1) * a.toInt * (trim.toNat : Int) + 8192).fdiv 16384 := by
  rw [fdiv_of_pos _ (by decide)]
  rfl

/-- A scaled channel lies within ±131072 (R2). -/
theorem scaledChannel_bounds (negative : Bool) (trim a : Word) :
    -131072 ≤ scaledChannel negative trim a ∧ scaledChannel negative trim a ≤ 131072 := by
  obtain ⟨h1, h2⟩ := word_toInt_bounds a
  have ht : (trim.toNat : Int) ≤ 65535 := by have := trim.isLt; omega
  have hy : -32768 ≤ (if negative then -1 else 1) * a.toInt ∧ (if negative then -1 else 1) * a.toInt ≤ 32768 := by
    split <;> omega
  have hlo := mul_le_mul_of_nonneg_right hy.1 (Int.natCast_nonneg trim.toNat)
  have hhi := mul_le_mul_of_nonneg_right hy.2 (Int.natCast_nonneg trim.toNat)
  rw [scaledChannel_eq, fdiv_of_pos _ (by decide)]
  omega

theorem rawDifference_toInt (p : CondParams) (a1 a2 : Word) :
    (rawDifference p a1 a2).toInt =
      max (-32768) (min 32767 ((scaledChannel p.negative1 p.trim1 a1 - scaledChannel p.negative2 p.trim2 a2 + 1).fdiv 2)) := by
  rw [rawDifference, sat16_toInt, fdiv_of_pos _ (by decide), min_comm]
  rfl

/-- With polarity +1 and trim 16384 a channel is unscaled (R2). -/
theorem scaledChannel_unit (a : Word) : scaledChannel false 16384 a = a.toInt := by
  rw [scaledChannel_eq, fdiv_of_pos _ (by decide)]
  simp only [Bool.false_eq_true, if_false, show (16384 : Word).toNat = 16384 from rfl]
  omega

/-- Settles O39, by the two channels' scaling. -/
theorem Settled.rawDifference : Obligations.RawDifference := by
  intro p a1 a2
  simp only [← scaledChannel_eq]
  refine ⟨rawDifference_toInt p a1 a2, scaledChannel_bounds _ _ _, scaledChannel_bounds _ _ _, fun hn1 hn2 ht1 ht2 => ?_⟩
  have h1 : scaledChannel p.negative1 p.trim1 a1 = a1.toInt := by rw [hn1, ht1, scaledChannel_unit]
  have h2 : scaledChannel p.negative2 p.trim2 a2 = a2.toInt := by rw [hn2, ht2, scaledChannel_unit]
  exact ⟨h1, h2, by rw [rawDifference_toInt, h1, h2]⟩

/-! ## A sensor frame's stages (R1, R4, R5, R10, R13) -/

/-- A lane whose settle count is raised to at least `j` (R13). -/
def LaneState.settledAtLeast (x : LaneState) (j : Nat) : LaneState :=
  { x with reference := { x.reference with settle := max x.reference.settle j } }

@[simp] theorem LaneState.settledAtLeast_zero (x : LaneState) : x.settledAtLeast 0 = x := by
  simp [LaneState.settledAtLeast]

theorem State.raiseSettleBoth_eq (s : State) (j : Nat) :
    s.raiseSettleBoth j = { s with lane0 := s.lane0.settledAtLeast j, lane1 := s.lane1.settledAtLeast j } := rfl

/-- The sequence number is not the expected one (R1). -/
abbrev Conditioner.Gap (c : Conditioner) (seq : BitVec 4) : Prop := ¬(c.expectation = none ∨ c.expectation = some seq)

theorem Conditioner.gap_iff (c : Conditioner) (seq : BitVec 4) :
    c.Gap seq ↔ ∃ e, c.expectation = some e ∧ e ≠ seq := by
  cases h : c.expectation <;> simp [Conditioner.Gap, h]

theorem State.checkSequence_eq (s : State) (seq : BitVec 4) :
    s.checkSequence seq =
      { s with
        cond := { s.cond with expectation := some (seq + 1) }
        lane0 := s.lane0.settledAtLeast (if s.cond.Gap seq then 64 else 0)
        lane1 := s.lane1.settledAtLeast (if s.cond.Gap seq then 64 else 0)
        counters :=
          { s.counters with
            sensorGap := if s.cond.Gap seq then raised s.counters.sensorGap 1 else s.counters.sensorGap }
        notices := if s.cond.Gap seq then s.notices.add .sensorGap none 0 else s.notices } := by
  simp only [State.checkSequence]
  by_cases h : s.cond.expectation = none ∨ s.cond.expectation = some seq
  · simp only [if_pos h, Conditioner.Gap, if_neg (not_not.mpr h), LaneState.settledAtLeast_zero]
  · simp only [if_neg h, Conditioner.Gap, if_pos h, State.raiseSettleBoth_eq]
    rfl

theorem State.checkClip_eq (s : State) (a1 a2 : Word) :
    s.checkClip a1 a2 =
      { s with
        lane0 := s.lane0.settledAtLeast (if 0 < clipDetail a1 a2 then 64 else 0)
        lane1 := s.lane1.settledAtLeast (if 0 < clipDetail a1 a2 then 64 else 0)
        counters :=
          { s.counters with
            sensorClip := if 0 < clipDetail a1 a2 then raised s.counters.sensorClip 1 else s.counters.sensorClip }
        notices :=
          if 0 < clipDetail a1 a2 then s.notices.add .sensorClip none (clipDetail a1 a2) else s.notices } := by
  unfold State.checkClip
  by_cases h : clipDetail a1 a2 = 0
  · simp only [h, if_true, lt_irrefl, if_false, LaneState.settledAtLeast_zero]
  · simp only [if_neg h, if_pos (Nat.pos_of_ne_zero h), State.raiseSettleBoth_eq]
    rfl

/-- The conditioner's part-wide values after a sensor frame (R1, R2, R3, R5). -/
def Conditioner.sensed (c : Conditioner) (f : SensorFields) : Conditioner :=
  let r := rawDifference c.params f.channel1 f.channel2
  let c1 : Conditioner :=
    { c with
      expectation := some (f.seq + 1), sample := referenceValue c.baseline r, baseline := nextBaseline c.baseline r }
  if f.seq = 0 then c1.takeTemperature f.aux else c1

theorem State.takeSensor_cond (s : State) (f : SensorFields) : (s.takeSensor f).cond = s.cond.sensed f := by
  simp only [State.takeSensor, State.checkSequence_eq, State.checkClip_eq, State.examineAux, Conditioner.sensed]
  split <;> rfl

/-- The settle count that a sensor frame asks of both lanes: 64 after a gap or a clipped frame (R13). -/
def State.sensedSettle (s : State) (f : SensorFields) : Nat :=
  if s.cond.Gap f.seq ∨ 0 < clipDetail f.channel1 f.channel2 then 64 else 0

/-- A lane after a sensor frame: its fresh flag set, its settle count raised (R10, R13). -/
def LaneState.sensed (x : LaneState) (j : Nat) : LaneState :=
  { x with reference := { x.reference with fresh := true, settle := max x.reference.settle j } }

theorem LaneState.settledAtLeast_twice (x : LaneState) (i j : Nat) :
    (x.settledAtLeast i).settledAtLeast j = x.settledAtLeast (max i j) := by
  simp only [LaneState.settledAtLeast, max_assoc]

/-- A sensor frame changes the conditioner, the references, two counters and the Notice Queue. -/
theorem State.takeSensor_eq (s : State) (f : SensorFields) :
    s.takeSensor f =
      { s with
        cond := s.cond.sensed f
        lane0 := s.lane0.sensed (s.sensedSettle f)
        lane1 := s.lane1.sensed (s.sensedSettle f)
        counters :=
          { s.counters with
            sensorGap := if s.cond.Gap f.seq then raised s.counters.sensorGap 1 else s.counters.sensorGap
            sensorClip :=
              if 0 < clipDetail f.channel1 f.channel2 then raised s.counters.sensorClip 1 else s.counters.sensorClip }
        notices :=
          (let q := if s.cond.Gap f.seq then s.notices.add .sensorGap none 0 else s.notices
           if 0 < clipDetail f.channel1 f.channel2 then
             q.add .sensorClip none (clipDetail f.channel1 f.channel2) else q) } := by
  have hj : max (if s.cond.Gap f.seq then 64 else 0) (if 0 < clipDetail f.channel1 f.channel2 then 64 else 0) =
      s.sensedSettle f := by
    unfold State.sensedSettle
    split_ifs <;> simp_all
  rw [← State.takeSensor_cond]
  simp only [State.takeSensor, State.checkSequence_eq, State.checkClip_eq, LaneState.settledAtLeast_twice, hj,
    State.examineAux]
  split <;> rfl

/-- The clip detail by the values of the two channels (R4). -/
theorem clipDetail_eq (a1 a2 : Word) :
    clipDetail a1 a2 =
      (if a1.toInt = -32768 ∨ a1.toInt = 32767 then 1 else 0) + (if a2.toInt = -32768 ∨ a2.toInt = 32767 then 2 else 0) := by
  simp [clipDetail, atLimit]

theorem execSensorFrame_other_length {words : List Word} (h : words.length ≠ 4) (s : State) :
    execSensorFrame words s = .next s := by
  unfold execSensorFrame receiveSensor
  split
  · rename_i e
    split at e
    · exact absurd rfl h
    · cases e
  · rfl

theorem Conditioner.sensed_band_temperature (c : Conditioner) (f : SensorFields) :
    (c.sensed f).temperature = (if f.seq = 0 then some f.aux else c.temperature)
      ∧ (f.seq ≠ 0 → (c.sensed f).band = c.band) := by
  simp only [Conditioner.sensed]
  split
  · exact ⟨rfl, absurd ‹_›⟩
  · exact ⟨rfl, fun _ => rfl⟩

theorem Conditioner.sensed_sample (c : Conditioner) (f : SensorFields) :
    (c.sensed f).params = c.params ∧ (c.sensed f).expectation = some (f.seq + 1)
      ∧ (c.sensed f).sample = referenceValue c.baseline (rawDifference c.params f.channel1 f.channel2)
      ∧ (c.sensed f).baseline = nextBaseline c.baseline (rawDifference c.params f.channel1 f.channel2) := by
  simp only [Conditioner.sensed]
  split <;> exact ⟨rfl, rfl, rfl, rfl⟩

/-- Settles O40, by `State.takeSensor_eq`. -/
theorem sensorFrame : Obligations.SensorFrame := by
  intro words s
  refine ⟨fun h => execSensorFrame_other_length h s, ?_⟩
  rintro h a1 a2 aux rfl
  simp only [← Conditioner.gap_iff, ← clipDetail_eq]
  generalize hf : (⟨h.extractLsb' 0 4, a1, a2, aux⟩ : SensorFields) = f
  have h1 : h.extractLsb' 0 4 = f.seq := congrArg SensorFields.seq hf
  have h2 : a1 = f.channel1 := congrArg SensorFields.channel1 hf
  have h3 : a2 = f.channel2 := congrArg SensorFields.channel2 hf
  have h4 : aux = f.aux := congrArg SensorFields.aux hf
  obtain ⟨hp, he, hx, hb⟩ := s.cond.sensed_sample f
  obtain ⟨ht, hband⟩ := s.cond.sensed_band_temperature f
  have hexec : exec (.sensorFrame [h, a1, a2, aux]) s = .next (s.takeSensor f) := by rw [← hf]; rfl
  refine ⟨_, hexec, ?_⟩
  rw [State.takeSensor_eq, h1, h2, h3, h4]
  dsimp only
  refine ⟨rfl, hp, he, ?_, ?_, ?_, ht, hband, fun l => ?_, ?_, ?_⟩
  · rw [hx, referenceValue, sat16_toInt, fdiv_of_pos _ (by decide), min_comm]
    rfl
  · rw [hb, fdiv_of_pos _ (by decide)]
    rfl
  · intro hlo hhi
    rw [hb]
    exact nextBaseline_bounds hlo hhi _
  · refine ⟨max (s.lane l).reference.settle (s.sensedSettle f), fun hg => ?_, fun hg hc => ?_, by cases l <;> rfl⟩
    · rw [State.sensedSettle, if_pos hg, max_comm]
    · rw [State.sensedSettle, if_neg (by rintro (h | h); exacts [hg h, by omega]), Nat.max_zero]
  · exact ⟨_, fun hg => if_pos hg, fun hg => if_neg hg, rfl⟩
  · exact ⟨_, fun hg => if_pos hg, fun hg => if_neg hg, rfl⟩

/-! ## The band after a temperature (R6) -/

/-- The upward and the downward test of R6 for a band number. -/
def CondParams.Up (p : CondParams) (band : Fin 4) (t : Int) (c : Nat) : Prop :=
  band.val < c ∧ c ≤ 3 ∧ p.threshold c + p.hysteresis ≤ t
def CondParams.Down (p : CondParams) (band : Fin 4) (t : Int) (c : Nat) : Prop :=
  c < band.val ∧ t < p.threshold (c + 1) - p.hysteresis

/-- The highest band that passes the upward test, or none. -/
theorem bandUp_cases (p : CondParams) (band : Fin 4) (t : Int) :
    (∃ c : Fin 4, bandUp p band t = some c ∧ p.Up band t c.val ∧ ∀ k, p.Up band t k → k ≤ c.val)
      ∨ bandUp p band t = none ∧ ∀ k, ¬p.Up band t k := by
  obtain ⟨q, test, e⟩ : ∃ q : Fin 4 → Bool, (∀ c, q c = true ↔ p.Up band t c.val)
      ∧ bandUp p band t = [3, 2, 1].find? q := by
    refine ⟨_, fun c => ?_, rfl⟩
    simp only [Bool.and_eq_true, decide_eq_true_eq, CondParams.Up, Fin.lt_def]
    omega
  have small : ∀ k, p.Up band t k → k ≤ 3 ∧ 0 < k := fun k ⟨h1, h2, _⟩ => ⟨h2, by omega⟩
  rw [e]
  by_cases h3 : p.Up band t 3
  · exact .inl ⟨3, List.find?_cons_of_pos ((test 3).mpr h3), h3, fun k hk => (small k hk).1⟩
  rw [List.find?_cons_of_neg (mt (test 3).mp h3)]
  by_cases h2 : p.Up band t 2
  · refine .inl ⟨2, List.find?_cons_of_pos ((test 2).mpr h2), h2, fun k hk => ?_⟩
    have : k ≠ 3 := by rintro rfl; exact h3 hk
    have := small k hk
    show k ≤ 2; omega
  rw [List.find?_cons_of_neg (mt (test 2).mp h2)]
  by_cases h1 : p.Up band t 1
  · refine .inl ⟨1, List.find?_cons_of_pos ((test 1).mpr h1), h1, fun k hk => ?_⟩
    have : k ≠ 3 := by rintro rfl; exact h3 hk
    have : k ≠ 2 := by rintro rfl; exact h2 hk
    have := small k hk
    show k ≤ 1; omega
  · refine .inr ⟨by rw [List.find?_cons_of_neg (mt (test 1).mp h1)]; rfl, fun k hk => ?_⟩
    obtain ⟨hle, hpos⟩ := small k hk
    interval_cases k
    exacts [h1 hk, h2 hk, h3 hk]

/-- The lowest band that passes the downward test, or none. -/
theorem bandDown_cases (p : CondParams) (band : Fin 4) (t : Int) :
    (∃ c : Fin 4, bandDown p band t = some c ∧ p.Down band t c.val ∧ ∀ k, p.Down band t k → c.val ≤ k)
      ∨ bandDown p band t = none ∧ ∀ k, ¬p.Down band t k := by
  obtain ⟨q, test, e⟩ : ∃ q : Fin 4 → Bool, (∀ c, q c = true ↔ p.Down band t c.val)
      ∧ bandDown p band t = [0, 1, 2].find? q := by
    refine ⟨_, fun c => ?_, rfl⟩
    simp only [Bool.and_eq_true, decide_eq_true_eq, CondParams.Down, Fin.lt_def]
  have small : ∀ k, p.Down band t k → k ≤ 2 := fun k ⟨h, _⟩ => by omega
  rw [e]
  by_cases h0 : p.Down band t 0
  · exact .inl ⟨0, List.find?_cons_of_pos ((test 0).mpr h0), h0, fun k _ => Nat.zero_le k⟩
  rw [List.find?_cons_of_neg (mt (test 0).mp h0)]
  by_cases h1 : p.Down band t 1
  · refine .inl ⟨1, List.find?_cons_of_pos ((test 1).mpr h1), h1, fun k hk => ?_⟩
    have : k ≠ 0 := by rintro rfl; exact h0 hk
    show 1 ≤ k; omega
  rw [List.find?_cons_of_neg (mt (test 1).mp h1)]
  by_cases h2 : p.Down band t 2
  · refine .inl ⟨2, List.find?_cons_of_pos ((test 2).mpr h2), h2, fun k hk => ?_⟩
    have : k ≠ 0 := by rintro rfl; exact h0 hk
    have : k ≠ 1 := by rintro rfl; exact h1 hk
    show 2 ≤ k; omega
  · refine .inr ⟨by rw [List.find?_cons_of_neg (mt (test 2).mp h2)]; rfl, fun k hk => ?_⟩
    have := small k hk
    interval_cases k
    exacts [h0 hk, h1 hk, h2 hk]

/-- A later temperature's band: the highest upward, else the lowest downward, else as it was (R6). -/
theorem hysteresisBand_spec (p : CondParams) (band : Fin 4) (t : Int) :
    (∀ c, p.Up band t c → (∀ k, p.Up band t k → k ≤ c) → (hysteresisBand p band t).val = c)
      ∧ ((∀ k, ¬p.Up band t k) → ∀ c, p.Down band t c → (∀ k, p.Down band t k → c ≤ k) →
          (hysteresisBand p band t).val = c)
      ∧ ((∀ k, ¬p.Up band t k) → (∀ k, ¬p.Down band t k) → hysteresisBand p band t = band) := by
  unfold hysteresisBand
  rcases bandUp_cases p band t with ⟨u, hu, hup, hmax⟩ | ⟨hu, hnone⟩
  · rw [hu]
    exact ⟨fun c hc hcmax => le_antisymm (hcmax _ hup) (hmax _ hc), fun h => (h _ hup).elim, fun h => (h _ hup).elim⟩
  · rw [hu]
    refine ⟨fun c hc => (hnone c hc).elim, fun _ c hc hcmin => ?_, fun _ h => ?_⟩
    · rcases bandDown_cases p band t with ⟨d, hd, hdown, hmin⟩ | ⟨-, hn⟩
      · rw [hd]
        exact le_antisymm (hmin _ hc) (hcmin _ hdown)
      · exact (hn c hc).elim
    · rcases bandDown_cases p band t with ⟨d, -, hdown, -⟩ | ⟨hd, -⟩
      · exact (h _ hdown).elim
      · rw [hd]; rfl

/-- A first temperature's band is the number of thresholds at or below it (R6). -/
theorem rawBand_val (p : CondParams) (t : Int) :
    (rawBand p t).val = ((List.range 3).filter fun c => decide (p.threshold (c + 1) ≤ t)).length := by
  have hr : List.range 3 = [0, 1, 2] := rfl
  rw [hr]
  unfold rawBand
  split_ifs <;> simp_all

/-- Settles O41, by the band tests of R6. -/
theorem temperatureBand : Obligations.TemperatureBand := by
  intro h a1 a2 aux s hseq t threshold up down
  have hth : ∀ c : Nat, 1 ≤ c → s.cond.params.threshold c = threshold c := by
    intro c hc
    unfold CondParams.threshold
    split <;> simp_all [threshold]
  have hband : (s.takeSensor ⟨h.extractLsb' 0 4, a1, a2, aux⟩).cond.band =
      if s.cond.temperature = none then rawBand s.cond.params aux.toInt
      else hysteresisBand s.cond.params s.cond.band aux.toInt := by
    rw [State.takeSensor_cond, Conditioner.sensed, hseq]
    rfl
  refine ⟨_, rfl, fun ht => ?_, fun ht => ?_⟩
  · rw [hband, if_pos ht, rawBand_val]
    simp only [hth _ (Nat.le_add_left 1 _)]
    rfl
  · have hup : ∀ c, up c ↔ s.cond.params.Up s.cond.band t c := fun c =>
      and_congr_right fun hc => by rw [hth c (by omega)]
    have hdown : ∀ c, down c ↔ s.cond.params.Down s.cond.band t c := fun c =>
      and_congr_right fun _ => by rw [hth (c + 1) (by omega)]
    obtain ⟨h1, h2, h3⟩ := hysteresisBand_spec s.cond.params s.cond.band t
    rw [hband, if_neg ht]
    simp only [hup, hdown]
    exact ⟨h1, h2, h3⟩

end Sys2Proof.Machine
end

