-- ==== Sys2Proof/Proofs/WedgeContinuity.lean ====
section
/-! SUPPORT. The Lane Controller's verdict on a wedge index and the Reference Conditioner's part of a servo frame (R10
to R19, R116, R120 to R122). -/

namespace Sys2Proof.Machine

variable {s : State} {l : Lane}

/-! ## A lane replaced more than once -/

@[simp] theorem State.setLane_setLane (s : State) (l : Lane) (x y : LaneState) :
    (s.setLane l x).setLane l y = s.setLane l y := by cases l <;> rfl

@[simp] theorem State.setLane_self (s : State) (l : Lane) : s.setLane l (s.lane l) = s := by cases l <;> rfl

@[simp] theorem State.setLane_record (s : State) (l : Lane) (x : LaneState) (n : SetNo) :
    (s.setLane l x).record n = s.record n := (rfl)

/-- A change of the references asks for the change of the one it finds. -/
theorem State.onReference_congr {f g : Reference → Reference} (h : f (s.lane l).reference = g (s.lane l).reference) :
    s.onReference l f = s.onReference l g := by
  simp only [State.onReference, h]

/-! ## The verdict (R120 to R122) -/

/-- The state in which a verdict is acted on: the expectation is the next index, or cleared (R120). -/
def State.judged (s : State) (l : Lane) (i : Nat) : State :=
  s.onControl l fun c =>
    { c with
      expectation :=
        if (s.lane l).control.wedgesPerRev ≤ i then none else some ((i + 1) % (s.lane l).control.wedgesPerRev) }

theorem State.judgeWedge_off (h : (s.lane l).control.mode = .off) (w : Word) : s.judgeWedge l w = (s, .inSequence) :=
  if_pos h

theorem State.judgeWedge_eq (h : (s.lane l).control.mode ≠ .off) {w : Word} {v : Verdict}
    (hv : wedgeVerdict (s.lane l).control.wedgesPerRev (s.lane l).control.expectation w.toNat = v) :
    s.judgeWedge l w = ((s.judged l w.toNat).applyVerdict l v, v) := by
  subst hv
  exact if_neg h

theorem wedgeVerdict_high {wpr i : Nat} (h : wpr ≤ i) (e : Option Nat) : wedgeVerdict wpr e i = .slip 1 := if_pos h

theorem wedgeVerdict_none {wpr i : Nat} (h : i < wpr) : wedgeVerdict wpr none i = .inSequence :=
  if_neg (Nat.not_le.mpr h)

/-- The verdict against an expected index, by how far ahead of it the index is (R120). -/
theorem wedgeVerdict_some {wpr i e : Nat} (h : i < wpr) :
    (((i : Int) - e).fmod wpr = 0 → wedgeVerdict wpr (some e) i = .inSequence)
      ∧ (∀ g : Nat, 1 ≤ g → g ≤ 3 → ((i : Int) - e).fmod wpr = g → wedgeVerdict wpr (some e) i = .gap g)
      ∧ (3 < ((i : Int) - e).fmod wpr → wedgeVerdict wpr (some e) i = .slip 0) := by
  have hv : wedgeVerdict wpr (some e) i =
      (let g := (((i : Int) - e) % (wpr : Int)).toNat
       if g = 0 then .inSequence else if g ≤ 3 then .gap g else .slip 0) := if_neg (Nat.not_le.mpr h)
  rw [hv, Int.fmod_eq_emod_of_nonneg _ (Int.natCast_nonneg wpr)]
  dsimp only
  generalize (((i : Int) - e) % (wpr : Int)) = a
  refine ⟨fun h0 => if_pos (by omega), fun g h1 h3 hg => ?_, fun h3 => ?_⟩
  · rw [if_neg (by omega), if_pos (by omega)]
    congr 1
    omega
  · rw [if_neg (by omega), if_neg (by omega)]

/-- A slip as the Lane Controller handles it (R122). -/
theorem State.judged_slip (i d : Nat) :
    (s.judged l i).slipLane l d =
      (let u := (((s.judged l i).onCounters l fun c => { c with wedgeSlip := min 65535 (c.wedgeSlip + 1) }).onControl l
        fun c => { c with fill := 0 }).notify .wedgeSlip (some l) d
       if (s.lane l).control.mode = .running then u.leaveRunning l 2 .priming else u) := by
  have hm : ((s.judged l i).lane l).control.mode = (s.lane l).control.mode := by simp [State.judged]
  simp only [State.slipLane, hm]
  rfl

/-! ## The examination of the fresh flag (R10 to R12) -/

/-- The stale count that an examination leaves (R11). -/
def Reference.countAfter (r : Reference) : Nat := if r.fresh = true then 0 else min 1023 (r.staleCount + 1)

/-- The grade that an examination gives (R11). -/
def LaneState.gradeAfter (x : LaneState) : RefStatus :=
  if x.reference.countAfter < x.control.staleLimit then .good
  else if x.reference.countAfter < x.control.staleLimit + x.control.holdLength then .stale else .lost

/-- The settle count after a recovery or none (R13). -/
def Reference.recovered (r : Reference) : Nat := max r.settle (if r.fresh = true ∧ r.status ≠ .good then 64 else 0)

/-- The state with the notice of a change to LOST (R12). -/
def State.lossReported (s : State) (l : Lane) : State :=
  { s with
    notices :=
      if (s.lane l).gradeAfter = .lost ∧ (s.lane l).reference.status ≠ .lost then
        s.notices.add .referenceLost (some l) 0
      else s.notices }

theorem State.examineFresh_eq :
    s.examineFresh l =
      (s.lossReported l).setLane l
        { s.lane l with
          reference :=
            { (s.lane l).reference with
              fresh := false, staleCount := (s.lane l).reference.countAfter, status := (s.lane l).gradeAfter
              settle := (s.lane l).reference.recovered } } := by
  have hx : (s.lane l).reference.examined (s.lane l).control =
      { (s.lane l).reference with
        fresh := false, staleCount := (s.lane l).reference.countAfter, status := (s.lane l).gradeAfter } := rfl
  simp only [State.examineFresh, hx, State.lossReported, Reference.recovered]
  by_cases hl : (s.lane l).gradeAfter = .lost ∧ (s.lane l).reference.status ≠ .lost <;>
    by_cases hr : (s.lane l).reference.fresh = true ∧ (s.lane l).reference.status ≠ .good
  · simp only [if_pos hl, if_pos hr]; cases l <;> rfl
  · simp only [if_pos hl, if_neg hr, Nat.max_zero]; cases l <;> rfl
  · simp only [if_neg hl, if_pos hr]; cases l <;> rfl
  · simp only [if_neg hl, if_neg hr, Nat.max_zero]; cases l <;> rfl

/-! ## Pushes into the ring (R13, R15 to R17, R116) -/

/-- A history after `j` pushes of one entry (R16). -/
def pushTimes {n : Nat} (v : Vector Word n) (x : Word) (j : Nat) : Vector Word n := (fun u => pushEntry u x)^[j] v

theorem entryAt_pushTimes {n : Nat} (v : Vector Word n) (x : Word) (j : Nat) {i : Nat} (hi : i < n) :
    entryAt (pushTimes v x j) i = if i < j then x else entryAt v (i - j) := by
  induction j generalizing v with
  | zero => rfl
  | succ j ih =>
    rw [pushTimes, Function.iterate_succ_apply, ← pushTimes, ih, entryAt_pushEntry, if_pos (show i - j < n by omega)]
    by_cases h1 : i < j
    · rw [if_pos h1, if_pos (by omega)]
    · by_cases h2 : i = j
      · rw [if_neg h1, if_pos (by omega), if_pos (by omega)]
      · rw [if_neg h1, if_neg (by omega), if_neg (by omega), Nat.sub_sub]

/-- A lane after `j` pushes of a sample: the ring, the settle count and the fill count (R13, R17). -/
def LaneState.pushed (x : LaneState) (sample : Word) (j : Nat) : LaneState :=
  { x with
    reference :=
      { x.reference with ring := pushTimes x.reference.ring sample j, settle := x.reference.settle - j }
    control := { x.control with fill := if j = 0 then x.control.fill else min 64 (x.control.fill + j) } }

/-- Pushes follow one another. -/
theorem LaneState.pushed_pushed (x : LaneState) (sample : Word) (j : Nat) :
    (x.pushed sample 1).pushed sample j = x.pushed sample (j + 1) := by
  have hring : pushTimes (pushTimes x.reference.ring sample 1) sample j = pushTimes x.reference.ring sample (j + 1) :=
    (Function.iterate_succ_apply _ _ _).symm
  have hsettle : x.reference.settle - 1 - j = x.reference.settle - (j + 1) := by omega
  have hfill : (if j = 0 then min 64 (x.control.fill + 1) else min 64 (min 64 (x.control.fill + 1) + j)) =
      min 64 (x.control.fill + (j + 1)) := by
    split_ifs <;> omega
  simp only [LaneState.pushed, hring, hsettle, if_false, hfill, Nat.succ_ne_zero]

theorem State.pushSample_eq (s : State) (l : Lane) :
    s.pushSample l = s.setLane l ((s.lane l).pushed s.cond.sample 1) := by
  have hring : pushTimes (s.lane l).reference.ring s.cond.sample 1 =
      pushEntry (s.lane l).reference.ring s.cond.sample := rfl
  rw [LaneState.pushed, hring]
  generalize hp : pushEntry (s.lane l).reference.ring s.cond.sample = ring
  simp only [State.pushSample, State.onReference, hp]
  cases l <;> rfl

theorem State.pushSamples_eq (s : State) (l : Lane) (j : Nat) :
    s.pushSamples l j = s.setLane l ((s.lane l).pushed s.cond.sample j) := by
  induction j generalizing s with
  | zero => exact (s.setLane_self l).symm
  | succ j ih =>
    rw [State.pushSamples, ih, State.pushSample_eq, State.setLane_lane, State.setLane_setLane, State.setLane_cond,
      LaneState.pushed_pushed]

theorem State.completePriming_eq (s : State) (l : Lane) :
    s.completePriming l =
      s.setLane l
        { s.lane l with
          control :=
            { (s.lane l).control with
              mode :=
                if (s.lane l).control.mode = .priming ∧ 64 ≤ (s.lane l).control.fill then .running
                else (s.lane l).control.mode } } := by
  by_cases h : (s.lane l).control.mode = .priming ∧ 64 ≤ (s.lane l).control.fill
  · refine (if_pos h).trans ?_
    rw [if_pos h]
    rfl
  · refine (if_neg h).trans ?_
    rw [if_neg h]
    exact (s.setLane_self l).symm

/-! ## The conditioner's part of a servo frame (R14) -/

/-- The number of pushes that a verdict brings: the gap fill and the frame's own entry, with a GOOD reference
(R15, R16). -/
def LaneState.pushesFor (x : LaneState) (v : Verdict) : Nat := if x.gradeAfter = .good then v.gapCount + 1 else 0

/-- A lane that is not OFF, after the conditioner's part of a frame (R10 to R17, R116). -/
def LaneState.fed (x : LaneState) (v : Verdict) (sample : Word) : LaneState :=
  { x with
    reference :=
      { x.reference with
        ring := pushTimes x.reference.ring sample (x.pushesFor v), fresh := false
        staleCount := x.reference.countAfter, status := x.gradeAfter
        settle := max x.reference.recovered (if 0 < v.gapCount then 32 else 0) - x.pushesFor v }
    control :=
      { x.control with
        fill := if x.pushesFor v = 0 then x.control.fill else min 64 (x.control.fill + x.pushesFor v)
        mode :=
          if x.control.mode = .priming ∧ 0 < x.pushesFor v ∧ 64 ≤ x.control.fill + x.pushesFor v then .running
          else x.control.mode } }

theorem State.feedLane_eq (s : State) (l : Lane) (v : Verdict) :
    s.feedLane l v = (s.lossReported l).setLane l ((s.lane l).fed v s.cond.sample) := by
  have hraise : ∀ (u : State) (x : LaneState) (j : Nat), (u.setLane l x).raiseSettle l j =
      u.setLane l { x with reference := { x.reference with settle := max x.reference.settle j } } := by
    intro u x j; cases l <;> rfl
  have hgap : (if 0 < v.gapCount then (s.examineFresh l).raiseSettle l Config.settleShort else s.examineFresh l) =
      (s.lossReported l).setLane l
        { s.lane l with
          reference :=
            { (s.lane l).reference with
              fresh := false, staleCount := (s.lane l).reference.countAfter, status := (s.lane l).gradeAfter
              settle := max (s.lane l).reference.recovered (if 0 < v.gapCount then 32 else 0) } } := by
    rw [State.examineFresh_eq, hraise]
    split
    · rfl
    · rw [Nat.max_zero]
  simp only [State.feedLane, hgap, State.setLane_lane]
  by_cases hg : (s.lane l).gradeAfter = .good
  · have hp : (s.lane l).pushesFor v = v.gapCount + 1 := if_pos hg
    have hc : (s.lossReported l).cond = s.cond := rfl
    rw [if_pos hg, State.pushSamples_eq, State.completePriming_eq]
    simp only [State.setLane_lane, State.setLane_setLane, State.setLane_cond, hc]
    congr 1
    simp only [LaneState.pushed, LaneState.fed, hp, Nat.add_eq_zero_iff, Nat.one_ne_zero, and_false, if_false,
      Nat.succ_pos, true_and, Nat.le_min, le_refl]
  · have hp : (s.lane l).pushesFor v = 0 := if_neg hg
    rw [if_neg hg]
    congr 1
    simp only [LaneState.fed, hp, lt_irrefl, false_and, and_false, if_false, if_true, Nat.sub_zero]
    rfl

/-- What the conditioner's part of a frame leaves: the frame's own lane fed unless it is OFF, the input command in the
other lane's sibling history (R14, R19). -/
theorem State.conditionFrame_eq (s : State) (l : Lane) (v : Verdict) (input : Word) :
    s.conditionFrame l v input =
      (if (s.lane l).control.mode = .off then s
        else (s.lossReported l).setLane l ((s.lane l).fed v s.cond.sample)).onReference l.other fun r =>
          { r with sibling := pushEntry (s.lane l.other).reference.sibling input } := by
  unfold State.conditionFrame State.pushSibling
  rw [State.feedLane_eq]
  refine State.onReference_congr ?_
  split
  · rfl
  · rw [State.setLane_other]
    cases l <;> rfl

/-- Settles O42: the verdict by how far ahead the index is, and the conditioner's part by `State.conditionFrame_eq`. -/
theorem wedgeContinuity : Obligations.WedgeContinuity := by
  intro l w s _
  refine ⟨fun h => State.judgeWedge_off h w, fun h => ⟨fun hi => ?_, fun hi he => ?_, fun e hi he => ?_⟩, ?_⟩
  · exact ⟨_, State.judgeWedge_eq h (wedgeVerdict_high hi _), State.judged_slip _ _⟩
  · exact State.judgeWedge_eq (v := .inSequence) h (by rw [he]; exact wedgeVerdict_none hi)
  · obtain ⟨h0, hg, h3⟩ := wedgeVerdict_some (e := e) hi
    refine ⟨fun ha => ?_, fun g h1 hg3 ha => ?_, fun ha => ?_⟩
    · exact State.judgeWedge_eq (v := .inSequence) h (by rw [he]; exact h0 ha)
    · exact State.judgeWedge_eq (v := .gap g) h (by rw [he]; exact hg g h1 hg3 ha)
    · exact ⟨_, State.judgeWedge_eq (v := .slip 0) h (by rw [he]; exact h3 ha), State.judged_slip _ _⟩
  · intro v input
    refine ⟨pushTimes (s.lane l).reference.ring s.cond.sample ((s.lane l).pushesFor v),
      pushEntry (s.lane l.other).reference.sibling input, fun i => ?_, fun i => ?_, fun h => ?_, fun h => ?_⟩
    · rw [← entryAt_of_lt _ i.isLt, entryAt_pushTimes _ _ _ i.isLt]
      cases v <;> rfl
    · rw [← entryAt_of_lt _ i.isLt, entryAt_pushEntry, if_pos i.isLt]
      rfl
    · rw [State.conditionFrame_eq, if_pos h]
    · rw [State.conditionFrame_eq, if_neg h]
      cases v <;> rfl

end Sys2Proof.Machine
end

