-- ==== Sys2Proof/Proofs/LaneIsolation.lean ====
section
/-! SUPPORT. A servo frame with no transfer under way: what it makes of a lane in OFF, and that it reaches nothing of
the other lane but its sibling history (R19, R44, R112, R123). -/

namespace Sys2Proof.Machine

variable {s t : State} {l k : Lane} {n : SetNo}

/-! ## Stages that leave the other lane and the transfer record alone -/

/-- No transfer is under way (R165). -/
abbrev State.Quiet (s : State) : Prop := s.transfer.state = .idle ∨ s.transfer.state = .done

theorem State.Quiet.not_waiting (h : s.Quiet) : s.transfer.state ≠ .waiting := by
  rcases h with h | h <;> rw [h] <;> decide

theorem State.Quiet.not_active (h : s.Quiet) : s.transfer.state ≠ .active := by
  rcases h with h | h <;> rw [h] <;> decide

theorem State.Quiet.engineMoves (h : s.Quiet) (j : Nat) : s.engineMoves j = s :=
  State.engineMoves_of_not_active h.not_active j

/-- From `s` to `t` the lane and the transfer record are left alone. -/
structure State.Spares (s t : State) (k : Lane) : Prop where
  transfer : t.transfer = s.transfer
  lane : t.lane k = s.lane k

theorem State.Spares.refl (s : State) (k : Lane) : s.Spares s k := ⟨rfl, rfl⟩

theorem State.Spares.trans {u : State} (h1 : s.Spares t k) (h2 : t.Spares u k) : s.Spares u k :=
  ⟨h2.transfer.trans h1.transfer, h2.lane.trans h1.lane⟩

theorem State.Spares.quiet (h : s.Spares t k) (hq : s.Quiet) : t.Quiet := by
  rw [State.Quiet, h.transfer]; exact hq

/-- The lane has another current set than `n`, or none. -/
abbrev State.NotCurrent (s : State) (k : Lane) (n : SetNo) : Prop := (s.lane k).selection.current ≠ some n

theorem State.Spares.notCurrent (h : s.Spares t k) (hn : s.NotCurrent k n) : t.NotCurrent k n := by
  rw [State.NotCurrent, h.lane]; exact hn

theorem State.readWord_spares (hq : s.Quiet) (hn : s.NotCurrent k n) (w : Nat) : s.Spares (s.readWord n w).1 k :=
  ⟨State.readWord_transfer n hq.not_waiting w, (s.readWord_keptOrLost k n w).kept hn⟩

theorem State.readUntilDouble_spares (hq : s.Quiet) (hn : s.NotCurrent k n) (ws : List Nat) :
    s.Spares (s.readUntilDouble n ws).1 k :=
  ⟨State.readUntilDouble_transfer n hq.not_waiting ws, (s.readUntilDouble_keptOrLost k n ws).kept hn⟩

/-! ### The Set Selector -/

theorem State.captureShadow_spares (hq : s.Quiet) (hn : s.NotCurrent l.other n) :
    s.Spares (s.captureShadow l n) l.other := by
  have h1 := State.readUntilDouble_spares hq hn tapWords
  unfold State.captureShadow
  split <;> rename_i e <;> rw [e] at h1
  · exact h1.trans ⟨rfl, by simp⟩
  · exact h1

theorem State.select_spares (hq : s.Quiet) {found : Option (SetNo × Route)}
    (hn : ∀ p ∈ found, s.NotCurrent l.other p.1) : s.Spares (s.select l found) l.other := by
  unfold State.select
  split
  · exact ⟨by simp, by rw [State.releaseCurrent_lane, State.dropCurrent_lane_other]⟩
  · split
    · exact ⟨rfl, by simp⟩
    · rename_i n r _
      have he : s.Spares ((s.retireCurrent l).enterLive l n r) l.other := by
        refine ⟨?_, by simp [State.enterLive]⟩
        simp only [State.enterLive, State.onFilter_transfer, State.onSelection_transfer, State.setSetState_transfer]
        unfold State.retireCurrent
        split <;> (try split) <;> simp
      exact he.trans (State.captureShadow_spares (he.quiet hq) (he.notCurrent (hn _ rfl)))

theorem State.applyBand_spares (b : Bool) : s.Spares (s.applyBand l b) l.other := by
  unfold State.applyBand
  split
  · exact .refl s _
  · exact ⟨rfl, by simp⟩

/-- The sets in service keep the lanes apart: the other lane's current set is LIVE, and not this lane's (R26, R44). -/
def State.Apart (s : State) (l : Lane) : Prop :=
  ∀ n, (s.lane l.other).selection.current = some n → (s.record n).state = .live ∧ s.NotCurrent l n

theorem State.apart_of_serviceCoherent (h : s.serviceCoherent) (l : Lane) : s.Apart l := by
  obtain ⟨-, -, hlive, hdiff⟩ := h
  intro n hn
  cases l with
  | zero =>
    refine ⟨(hlive n).mpr (.inr hn), fun h0 => ?_⟩
    rcases hdiff with hd | hd
    · exact nomatch h0.symm.trans hd
    · exact hd (h0.trans hn.symm)
  | one =>
    refine ⟨(hlive n).mpr (.inl hn), fun h1 => ?_⟩
    rcases hdiff with hd | hd
    · exact nomatch hn.symm.trans hd
    · exact hd (hn.trans h1.symm)

/-- Lanes that stand apart stay so when only their other values and no record change. -/
theorem State.Apart.of_same (h : s.Apart l) (hb : ∀ n, t.record n = s.record n)
    (hc : ∀ k, (t.lane k).selection.current = (s.lane k).selection.current) : t.Apart l := by
  intro n hn
  rw [hc] at hn
  rw [State.NotCurrent, hc, hb]
  exact h n hn

/-- A set usable for a lane is not the other lane's current set (R48). -/
theorem State.Apart.of_usable (h : s.Apart l) (hu : s.usable l n = true) : s.NotCurrent l.other n := by
  intro hn
  obtain ⟨hlive, hcur⟩ := h n hn
  simp only [State.usable, hlive, Bool.or_eq_true, Bool.and_eq_true, decide_eq_true_eq] at hu
  rcases hu with hu | hu
  · cases hu
  · exact hcur hu.2

/-- The set of a resolution is usable (R48). -/
theorem State.usable_of_resolve {a : Nat} {p : SetNo × Route} (h : s.resolve l a = some p) : s.usable l p.1 = true := by
  have named : ∀ {o : Option SetNo} {n : SetNo}, s.usableName l o = some n → s.usable l n = true := fun ho =>
    (Option.filter_eq_some_iff.mp ho).2
  unfold State.resolve at h
  split at h
  · rename_i e
    obtain rfl := Option.some.inj h
    exact named e
  · split at h
    · rename_i e
      obtain rfl := Option.some.inj h
      exact named e
    · cases h

theorem State.selectFrame_spares (hq : s.Quiet) (f : ServoFields) (ha : s.Apart f.lane) :
    s.Spares (s.selectFrame f).1 f.lane.other
      ∧ ∀ p ∈ (s.selectFrame f).2, s.NotCurrent f.lane.other p.1 := by
  have hb := s.applyBand_spares (l := f.lane) f.writeActive
  have ha1 : (s.applyBand f.lane f.writeActive).Apart f.lane := by
    unfold State.applyBand
    split
    · exact ha
    · refine ha.of_same (fun _ => rfl) fun k => ?_
      rcases Lane.eq_or_other k f.lane with rfl | rfl <;> simp
  simp only [State.selectFrame]
  split
  · have hn : ∀ p ∈ (s.applyBand f.lane f.writeActive).resolve f.lane
        (keyAddr f.head f.zone ((s.applyBand f.lane f.writeActive).lane f.lane).selection.band),
          (s.applyBand f.lane f.writeActive).NotCurrent f.lane.other p.1 :=
      fun p hp => ha1.of_usable (State.usable_of_resolve hp)
    refine ⟨hb.trans (State.select_spares (hb.quiet hq) hn), fun p hp => ?_⟩
    have := hn p hp
    rwa [State.NotCurrent, hb.lane] at this
  · exact ⟨hb, nofun⟩

/-! ### The filter, the probe and the adaptation -/

theorem State.computeCorrection_spares (hq : s.Quiet) (hn : s.NotCurrent l.other n) :
    s.Spares (s.computeCorrection l n).1 l.other := by
  have h1 := State.readUntilDouble_spares hq hn [0, 1, 2, 3]
  unfold State.computeCorrection
  split
  · rename_i s1 tr ts os cl e
    rw [e] at h1
    have h2 := h1.trans (State.readUntilDouble_spares (h1.quiet hq) (h1.notCurrent hn)
      (usedTapWords (tapCount 32 tr) (tapCount 8 ts)))
    split <;> rename_i e2 <;> rw [e2] at h2
    · exact h2.trans ⟨rfl, by simp [State.applyTaps, State.freshFrame]⟩
    · exact h2
  · rename_i e
    rw [e] at h1
    exact h1

theorem State.decideFrame_spares (hq : s.Quiet) (f : ServoFields) {found : Option (SetNo × Route)}
    (hn : ∀ p ∈ found, s.NotCurrent f.lane.other p.1) : s.Spares (s.decideFrame f found).1 f.lane.other := by
  have hb : s.Spares (s.bypassFrame f.lane).1 f.lane.other := ⟨rfl, by simp [State.bypassFrame]⟩
  simp only [State.decideFrame]
  split_ifs
  · exact hb
  · exact .refl s _
  · exact hb
  · split
    · exact hb
    · exact hb
    · exact ⟨rfl, by simp [State.heldFrame]⟩
    · exact State.computeCorrection_spares hq (hn _ rfl)

theorem State.probeFrame_spares (f : ServoFields) : s.Spares (s.probeFrame f) f.lane.other := by
  unfold State.probeFrame State.countProbeStep
  split
  · dsimp only
    split <;> exact ⟨rfl, by simp⟩
  · exact .refl s _

theorem State.formOutput_spares (sum : Int) : s.Spares (s.formOutput l sum) l.other := by
  rw [State.formOutput_eq]
  exact ⟨rfl, State.setLane_other _ _ _⟩

theorem State.adaptTaps_spares (tr ts : Nat) (e : Int) (h : AdaptHeader) (taps : List Word) :
    s.Spares (s.adaptTaps l n tr ts e h taps) l.other := by
  simp only [State.adaptTaps, State.countWindow, State.countDivergence, State.raiseDivergence, State.rollback]
  constructor
  · split_ifs <;> simp [State.writeTaps]
  · split_ifs <;> simp

theorem State.adaptSet_spares (hq : s.Quiet) (hn : s.NotCurrent l.other n) (tr ts : Nat) (e : Int) :
    s.Spares (s.adaptSet l n tr ts e) l.other := by
  have h1 := State.readWord_spares hq hn 4
  unfold State.adaptSet
  split <;> rename_i e1 <;> rw [e1] at h1
  · exact h1
  · split
    · exact h1
    · have h2 := h1.trans (State.readUntilDouble_spares (h1.quiet hq) (h1.notCurrent hn) [5, 6, 7, 8, 9])
      split
      · rename_i e2
        rw [e2] at h2
        have h3 := h2.trans (State.readUntilDouble_spares (h2.quiet hq) (h2.notCurrent hn) (usedTapWords tr ts))
        split <;> rename_i e3 <;> rw [e3] at h3
        · exact h3.trans (State.adaptTaps_spares _ _ _ _ _)
        · exact h3
      · rename_i e2
        rw [e2] at h2
        exact h2

theorem State.adaptFrame_spares (hq : s.Quiet) (f : ServoFields) {found : Option (SetNo × Route)} (d : Decision)
    (probed : Bool) (hn : ∀ p ∈ found, s.NotCurrent f.lane.other p.1) :
    s.Spares (s.adaptFrame f found d probed) f.lane.other := by
  unfold State.adaptFrame
  split
  · split
    · exact State.adaptSet_spares hq (hn _ rfl) _ _ _
    · exact .refl s _
  · exact .refl s _

theorem State.checkFault_spares : s.Spares (s.checkFault l) l.other := by
  refine ⟨?_, State.checkFault_other⟩
  unfold State.checkFault State.faultLane
  split <;> simp

theorem State.sendDrive_spares (s : State) (k : Lane) (st : OutStatus) (wedge output : Word) :
    s.Spares (s.sendDrive l st wedge output) k := ⟨rfl, by simp⟩

theorem State.actOn_spares (hq : s.Quiet) (f : ServoFields) (slots : EngineSlots) {found : Option (SetNo × Route)}
    (d : Decision) (hn : ∀ p ∈ found, s.NotCurrent f.lane.other p.1) :
    s.Spares (s.actOn f slots found d) f.lane.other := by
  simp only [State.actOn, hq.engineMoves]
  have h1 := (s.probeFrame_spares f).trans (State.formOutput_spares (outputSum f.input d.correction (s.frameProbe f)))
  rw [(h1.quiet hq).engineMoves]
  have h2 := h1.trans (State.adaptFrame_spares (h1.quiet hq) f d (s.stepsProbe f) fun p hp => h1.notCurrent (hn p hp))
  rw [(h2.quiet hq).engineMoves]
  exact (h2.trans (State.sendDrive_spares _ _ _ _ _)).trans State.checkFault_spares

/-! ### The Lane Controller and the conditioner -/

theorem State.judgeWedge_spares (w : Word) : s.Spares (s.judgeWedge l w).1 l.other := by
  have hslip : ∀ (u : State) (d : Nat), u.Spares (u.slipLane l d) l.other := by
    intro u d
    simp only [State.slipLane]
    split
    · exact ⟨by simp, by rw [State.leaveRunning_other]; simp⟩
    · exact ⟨rfl, by simp⟩
  simp only [State.judgeWedge]
  split
  · exact .refl s _
  · refine State.Spares.trans (t := s.judged l w.toNat) ⟨rfl, by simp [State.judged]⟩ ?_
    unfold State.applyVerdict
    split
    · exact .refl _ _
    · exact ⟨rfl, by simp [State.judged]⟩
    · exact hslip _ _

/-- The release of a lane's own current set keeps the lanes apart (R27). -/
theorem State.leaveRunning_apart (h : s.Apart l) (d : Nat) (next : LaneMode) : (s.leaveRunning l d next).Apart l := by
  intro n hn
  rw [State.leaveRunning_other] at hn
  obtain ⟨hlive, hcur⟩ := h n hn
  rw [State.leaveRunning_record, State.NotCurrent, State.leaveRunning_lane, State.recordReleased,
    if_neg fun hr => hcur hr.1]
  exact ⟨hlive, nofun⟩

theorem State.judgeWedge_apart (h : s.Apart l) (w : Word) : (s.judgeWedge l w).1.Apart l := by
  have hslip : ∀ (u : State) (d : Nat), u.Apart l → (u.slipLane l d).Apart l := by
    intro u d hu
    have hv : ∀ v : State, (∀ n, v.record n = u.record n) → (∀ k, (v.lane k).selection = (u.lane k).selection) →
        v.Apart l := fun v hr hs => hu.of_same hr fun k => by rw [hs]
    simp only [State.slipLane]
    split
    · refine State.leaveRunning_apart ?_ _ _
      exact hv _ (fun _ => rfl) (by simp)
    · exact hv _ (fun _ => rfl) (by simp)
  simp only [State.judgeWedge]
  split
  · exact h
  · have hj : (s.judged l w.toNat).Apart l := h.of_same (fun _ => rfl) fun k => by simp [State.judged]
    unfold State.applyVerdict
    split
    · exact hj
    · exact hj.of_same (fun _ => rfl) fun k => by simp [State.judged]
    · exact hslip _ _ hj

/-- What the conditioner's part of a frame leaves: the sets, the transfer record, and of the other lane all but its
sibling history (R19). -/
theorem State.conditionFrame_other (s : State) (l : Lane) (v : Verdict) (input : Word) :
    (s.conditionFrame l v input).lane l.other =
      { s.lane l.other with
        reference :=
          { (s.lane l.other).reference with sibling := pushEntry (s.lane l.other).reference.sibling input } } := by
  have hl : (s.lossReported l).lane l.other = s.lane l.other := by cases l <;> rfl
  rw [State.conditionFrame_eq, State.onReference_lane]
  split
  · rfl
  · rw [State.setLane_other, hl]

theorem State.conditionFrame_keeps (s : State) (l : Lane) (v : Verdict) (input : Word) :
    (s.conditionFrame l v input).transfer = s.transfer ∧ (s.conditionFrame l v input).bank = s.bank
      ∧ ∀ k, ((s.conditionFrame l v input).lane k).selection = (s.lane k).selection := by
  rw [State.conditionFrame_eq]
  split
  · exact ⟨rfl, rfl, fun k => by simp⟩
  · refine ⟨rfl, rfl, fun k => ?_⟩
    rw [State.onReference_lane_selection, State.setLane_lane_eq]
    split
    · rename_i h; rw [h]; rfl
    · cases k <;> rfl

/-! ## The whole frame -/

/-- The conditioner's state with no transfer under way: the engine makes no movement. -/
theorem State.conditioned_quiet (hq : s.Quiet) (f : ServoFields) (slots : EngineSlots) :
    s.conditioned f slots =
      (s.judgeWedge f.lane f.wedge).1.conditionFrame f.lane (s.judgeWedge f.lane f.wedge).2 f.input := by
  have h1 := (s.judgeWedge_spares (l := f.lane) f.wedge).quiet hq
  have h2 : ((s.judgeWedge f.lane f.wedge).1.conditionFrame f.lane (s.judgeWedge f.lane f.wedge).2 f.input).Quiet := by
    rw [State.Quiet, (State.conditionFrame_keeps _ _ _ _).1]; exact h1
  rw [State.conditioned, h1.engineMoves, h2.engineMoves]

/-- The lane path reaches the other lane through its sibling history alone. -/
theorem State.lanePath_other (hq : s.Quiet) (f : ServoFields) (slots : EngineSlots) (ha : s.Apart f.lane) :
    (s.lanePath f slots).1.lane f.lane.other =
      { s.lane f.lane.other with
        reference :=
          { (s.lane f.lane.other).reference with
            sibling := pushEntry (s.lane f.lane.other).reference.sibling f.input } } := by
  have hj := s.judgeWedge_spares (l := f.lane) f.wedge
  obtain ⟨kt, kb, ks⟩ := State.conditionFrame_keeps (s.judgeWedge f.lane f.wedge).1 f.lane
    (s.judgeWedge f.lane f.wedge).2 f.input
  have hc := State.conditionFrame_other (s.judgeWedge f.lane f.wedge).1 f.lane (s.judgeWedge f.lane f.wedge).2 f.input
  rw [← State.conditioned_quiet hq f slots] at kt kb ks hc
  have hcq : (s.conditioned f slots).Quiet := by rw [State.Quiet, kt]; exact hj.quiet hq
  have hca : (s.conditioned f slots).Apart f.lane :=
    (State.judgeWedge_apart ha f.wedge).of_same (fun n => by rw [State.record, kb]; rfl) fun k => by rw [ks]
  obtain ⟨hs, hn⟩ := State.selectFrame_spares hcq f hca
  have he : s.selected f slots = (s.conditioned f slots).selectFrame f := by
    rw [State.selected, (hs.quiet hcq).engineMoves]
  have hn1 : ∀ p ∈ (s.selected f slots).2, (s.selected f slots).1.NotCurrent f.lane.other p.1 := by
    rw [he]; exact fun p hp => hs.notCurrent (hn p hp)
  rw [← he] at hs
  have hd := State.decideFrame_spares (hs.quiet hcq) f hn1
  have hf := State.actOn_spares (hd.quiet (hs.quiet hcq)) f slots
    ((s.selected f slots).1.decideFrame f (s.selected f slots).2).2 fun p hp => hd.notCurrent (hn1 p hp)
  rw [State.lanePath_eq]
  refine ((hs.trans hd).trans hf).lane.trans ?_
  rw [hc, hj.lane]

/-- With no transfer under way the count of a frame leaves transfer record and bank alone. -/
theorem State.countFrame_quiet (hq : s.Quiet) :
    s.countFrame.transfer = s.transfer ∧ s.countFrame.bank = s.bank := by
  obtain ⟨ht, hb⟩ := State.ageCommand_transfer_bank (s := s.frameCounted)
  have hw : s.frameCounted.ageCommand.transfer.state ≠ .waiting := by rw [ht]; exact hq.not_waiting
  have hc : s.countFrame = s.frameCounted.ageCommand := State.countWait_idle hw
  rw [hc, ht, hb]
  exact ⟨rfl, rfl⟩

/-- Settles O50: each stage spares the other lane, but for the conditioner's push into its sibling history. -/
theorem lanesAreIndependent : Obligations.LanesAreIndependent := by
  intro words f slots s t hw hs hq ht
  obtain rfl : s.downstream words slots = t := Host.Outcome.next.inj ht
  have hl : ∀ k, (s.hold words).countFrame.lane k = s.lane k := fun k => State.lane_congr k (by simp) (by simp)
  obtain ⟨kt, kb⟩ := State.countFrame_quiet (s := s.hold words) hq
  have hcq : (s.hold words).countFrame.Quiet := by rw [State.Quiet, kt]; exact hq
  have hca : (s.hold words).countFrame.Apart f.lane :=
    (State.apart_of_serviceCoherent hs f.lane).of_same (fun n => by rw [State.record, kb]; rfl) fun k => by rw [hl]
  refine ⟨pushEntry (s.lane f.lane.other).reference.sibling f.input, fun i => getElem_pushEntry _ _ i, ?_⟩
  rw [State.downstream, hw, State.hold_lane]
  dsimp only
  rw [State.servoFrame, State.sendReturn_lane, State.lanePath_other hcq f slots hca, hl]

/-! ## A lane in OFF (R10, R46, R55, R66, R73, R112) -/

section
variable {f : ServoFields}

/-- The output command of an OFF lane's frame is its input command (R66). -/
theorem outputSum_bypass (input : Word) : outputSum input 0 0 = input.toInt := by simp [outputSum]

/-- With a lane that is not RUNNING and no transfer under way the stages after the decision send the drive frame of the
sum, and do nothing else, when the sum lies in the signed-16 range. -/
theorem State.actOn_not_running (hq : s.Quiet) (hm : (s.lane f.lane).control.mode ≠ .running) (slots : EngineSlots) :
    s.actOn f slots none (.plain .bypass 0) = s.sendDrive f.lane .bypass f.wedge f.input := by
  have hp : s.stepsProbe f = false := by simp [State.stepsProbe, hm]
  have hprobe : s.probeFrame f = s := by simp [State.probeFrame, hp]
  have hzero : s.frameProbe f = 0 := by simp [State.frameProbe, hp]
  have hform : s.formOutput f.lane f.input.toInt = s := by
    obtain ⟨h1, h2⟩ := word_toInt_bounds f.input
    have hn : saturated f.input.toInt ≠ true := by rw [ne_eq, saturated_iff]; omega
    simp only [State.formOutput, if_neg hn, if_neg hm]
  have hsum : outputSum f.input (Decision.plain .bypass 0).correction 0 = f.input.toInt := outputSum_bypass f.input
  have hadapt : s.adaptFrame f none (.plain .bypass 0) false = s := rfl
  simp only [State.actOn, hq.engineMoves, hprobe, hzero, hsum, hform, hp, hadapt, sat16_word]
  refine State.checkFault_below (.inl ?_)
  rwa [State.sendDrive_lane]

/-- The lane path of an OFF lane's frame. -/
theorem State.lanePath_off (hq : s.Quiet) (hm : (s.lane f.lane).control.mode = .off) (slots : EngineSlots) :
    s.lanePath f slots =
      (((((s.pushSibling f.lane f.input).applyBand f.lane f.writeActive).bypassFrame f.lane).1.sendDrive f.lane .bypass
        f.wedge f.input), .plain .bypass 0) := by
  have hc : s.conditioned f slots = s.pushSibling f.lane f.input := by
    rw [State.conditioned_quiet hq, State.judgeWedge_off hm, State.conditionFrame, if_pos hm]
  have hpm : ((s.pushSibling f.lane f.input).lane f.lane).control.mode = .off := by
    rw [State.pushSibling, State.onReference_lane_control, hm]
  have hbm : (((s.pushSibling f.lane f.input).applyBand f.lane f.writeActive).lane f.lane).control.mode ≠ .running := by
    unfold State.applyBand
    split
    · rw [hpm]; decide
    · rw [State.onSelection_lane_control, hpm]; decide
  have hbq : ((s.pushSibling f.lane f.input).applyBand f.lane f.writeActive).Quiet :=
    (State.applyBand_spares (l := f.lane) f.writeActive).quiet hq
  have hs : s.selected f slots = ((s.pushSibling f.lane f.input).applyBand f.lane f.writeActive, none) := by
    have he : (s.pushSibling f.lane f.input).selectFrame f =
        ((s.pushSibling f.lane f.input).applyBand f.lane f.writeActive, none) := if_neg hbm
    rw [State.selected, hc, he, hbq.engineMoves]
  generalize (s.pushSibling f.lane f.input).applyBand f.lane f.writeActive = u at hs hbm hbq
  have hd : u.decideFrame f none = u.bypassFrame f.lane := if_pos hbm
  have hact := State.actOn_not_running (s := (u.bypassFrame f.lane).1) (f := f) hbq
    (by rwa [State.bypassFrame, State.onCounters_lane_control]) slots
  rw [State.lanePath_eq, hs]
  dsimp only
  rw [hd]
  exact Prod.ext hact rfl

/-- What the stages of an OFF lane's frame change of the lanes: the applied band, the BYPASS counter and the other
lane's sibling history. -/
def State.passedBy (s : State) (f : ServoFields) : State :=
  ((s.onSelection f.lane fun x => { x with band := if f.writeActive then x.band else s.cond.band }).onCounters f.lane
      fun c => { c with bypassFrame := min 65535 (c.bypassFrame + 1) }).onReference f.lane.other fun r =>
    { r with sibling := pushEntry (s.lane f.lane.other).reference.sibling f.input }

theorem State.offLane_stages (s : State) (f : ServoFields) :
    (((s.pushSibling f.lane f.input).applyBand f.lane f.writeActive).bypassFrame f.lane).1 = s.passedBy f := by
  have hp : s.pushSibling f.lane f.input = s.onReference f.lane.other fun r =>
      { r with sibling := pushEntry (s.lane f.lane.other).reference.sibling f.input } := State.onReference_congr rfl
  rw [hp, State.passedBy]
  generalize pushEntry (s.lane f.lane.other).reference.sibling f.input = sibling
  simp only [State.bypassFrame, raised]
  cases f.lane <;> cases f.writeActive <;> rfl

/-- The count of the frame does not matter to them. -/
theorem State.passedBy_counted (s : State) (f : ServoFields) (words : List Word) :
    (s.hold words).frameCounted.passedBy f =
      { s.passedBy f with link := { receiving := words, frameTime := s.link.frameTime + 1 } } := by
  have hl : ((s.hold words).frameCounted.lane f.lane.other).reference.sibling =
      (s.lane f.lane.other).reference.sibling := by cases f.lane <;> rfl
  rw [State.passedBy, State.passedBy, hl]
  generalize pushEntry (s.lane f.lane.other).reference.sibling f.input = sibling
  cases f.lane <;> rfl

/-- The words of the return frame of a BYPASS frame (R137, R142). -/
theorem returnWords_bypass (l : Lane) (q : NoticeQueue) (wedge : Word) (payload : List QueuedWord) :
    returnWords ⟨1, l, .bypass, false, wedge, 0⟩ q.attention payload =
      sealFrame (BitVec.ofNat 16
          (16384 + l.toNat * 8192 + (if q.records = [] then 0 else 1024) + payload.length * 64 + transferMarks payload)
        :: wedge :: 0 :: payload.map QueuedWord.word) := by
  have ha : (if q.attention = true then 1024 else 0) = if q.records = [] then 0 else 1024 := by
    unfold NoticeQueue.attention
    cases q.records <;> rfl
  simp only [returnWords, returnHeader, ha, natWord, OutStatus.code, Nat.one_mul, Nat.zero_mul, Nat.add_zero,
    Bool.false_eq_true, if_false]

theorem driveWords_bypass (l : Lane) (wedge output : Word) :
    driveWords l .bypass wedge output = sealFrame [BitVec.ofNat 16 (l.toNat * 4), wedge, output] := rfl

/-- The drive frame and the return frame of a BYPASS frame, and the end of its reception (R135, R137). -/
theorem State.answer_bypass (v : State) (l : Lane) (k : Link) (wedge output : Word) :
    (((State.sendDrive { v with link := k } l .bypass wedge output).sendReturn ⟨1, l, .bypass, false, wedge, 0⟩).hold []) =
      { v with
        responses := v.responses.drop 4
        link := { receiving := [], frameTime := k.frameTime }
        ports :=
          { drive := v.ports.drive ++ [sealFrame [BitVec.ofNat 16 (l.toNat * 4), wedge, output]]
            upstream := v.ports.upstream ++
              [sealFrame (BitVec.ofNat 16
                  (16384 + l.toNat * 8192 + (if v.notices.records = [] then 0 else 1024)
                    + (v.responses.take 4).length * 64 + transferMarks (v.responses.take 4))
                :: wedge :: 0 :: (v.responses.take 4).map QueuedWord.word)]
            driveBegun := true, upstreamBegun := true } } := by
  simp only [State.sendReturn, State.sendDrive, returnWords_bypass, driveWords_bypass, State.hold]

end

/-- Settles O44: the stages of an OFF lane's frame, one after the other. -/
theorem offLaneFrame : Obligations.OffLaneFrame := by
  intro words f slots s hw hm hc hq
  refine ⟨pushEntry (s.lane f.lane.other).reference.sibling f.input, fun i => getElem_pushEntry _ _ i, ?_⟩
  have hcount : (s.hold words).countFrame = (s.hold words).frameCounted := by
    have ha : (s.hold words).frameCounted.ageCommand = (s.hold words).frameCounted := State.ageCommand_none hc
    show (s.hold words).frameCounted.ageCommand.countWait = _
    rw [ha]
    exact State.countWait_idle (State.Quiet.not_waiting hq)
  have hpath := State.lanePath_off (s := (s.hold words).frameCounted) (f := f) hq
    (by rw [← hm]; cases f.lane <;> rfl) slots
  refine congrArg Host.Outcome.next ?_
  rw [State.downstream, hw]
  dsimp only
  rw [State.servoFrame, hcount, hpath]
  dsimp only
  rw [State.offLane_stages, State.passedBy_counted]
  exact State.answer_bypass _ _ _ _ _

end Sys2Proof.Machine
end

