-- ==== Sys2Proof/Proofs/ReadOutside.lean ====
section
/-! SUPPORT. READ outside BANK (R153, R155, R157) and the items of each region (R22, R41, R109, R124, R127, R143). -/

namespace Sys2Proof.Machine

variable {s : State}

/-! ## The command -/

/-- READ by itself, in a frame of its own. -/
theorem execRead_eq (h : s.accepts 1) (imm : BitVec 9) :
    exec (.read imm) s = .next (s.execCommand ⟨2#6, .zero, imm⟩ [] 0 false) := by
  obtain ⟨hc, -, hr⟩ := h
  exact congrArg Host.Outcome.next (State.command_bare .zero hc hr 2#6 rfl imm)

/-- The room that a READ in a frame of its own leaves to its data words (R157). -/
theorem State.roomAvailable_alone (s : State) : s.roomAvailable 0 false = 32 - s.responses.length - 1 := rfl

theorem State.dataNeed_read (s : State) (l : Lane) (imm : BitVec 9) :
    s.dataNeed ⟨2#6, l, imm⟩ = if imm.toNat = 0 ∨ 16 < imm.toNat then 0 else s.readCount imm.toNat := rfl

theorem State.runCommand_read (s : State) (l : Lane) (imm : BitVec 9) (args : List Word) (room : Nat) :
    s.runCommand ⟨2#6, l, imm⟩ args room = s.readCommand imm := rfl

theorem execRead_range (h : s.accepts 1) {imm : BitVec 9} (hi : imm.toNat = 0 ∨ 16 < imm.toNat) :
    exec (.read imm) s = .next (s.answered 2 2 []) := by
  have hneed : s.dataNeed ⟨2#6, .zero, imm⟩ = 0 := (s.dataNeed_read .zero imm).trans (if_pos hi)
  have hread : s.readCommand imm = (s, .bare .range) := if_pos hi
  rw [execRead_eq h, State.execCommand_served _ _ _ _ _ (by rw [hneed]; exact Nat.zero_le _), State.runCommand_read, hread,
    State.respond_eq]
  rfl

theorem execRead_full (h : s.accepts 1) {imm : BitVec 9} (h1 : 1 ≤ imm.toNat) (h16 : imm.toNat ≤ 16)
    (hroom : 32 < s.responses.length + 1 + s.readCount imm.toNat) :
    exec (.read imm) s = .next (s.answered 2 3 []) := by
  have hi : ¬(imm.toNat = 0 ∨ 16 < imm.toNat) := by omega
  have hneed : s.dataNeed ⟨2#6, .zero, imm⟩ = s.readCount imm.toNat := (s.dataNeed_read .zero imm).trans (if_neg hi)
  have hfull : s.roomAvailable 0 false < s.dataNeed ⟨2#6, .zero, imm⟩ := by
    rw [hneed, State.roomAvailable_alone]; omega
  rw [execRead_eq h, State.execCommand_full _ _ _ _ _ hfull, State.respond_eq]
  rfl

theorem execRead_served (h : s.accepts 1) {imm : BitVec 9} (h1 : 1 ≤ imm.toNat) (h16 : imm.toNat ≤ 16)
    (hroom : s.responses.length + 1 + s.readCount imm.toNat ≤ 32) (hb : s.decoder.pointer.region ≠ .bank) :
    exec (.read imm) s =
      .next (State.answered (s.advanceRead (s.readCount imm.toNat)) 2 0
        ((List.range (s.readCount imm.toNat)).map fun i =>
          s.item s.decoder.pointer.region s.decoder.pointer.lane (s.decoder.pointer.addr + i))) := by
  have hi : ¬(imm.toNat = 0 ∨ 16 < imm.toNat) := by omega
  have hneed : s.dataNeed ⟨2#6, .zero, imm⟩ = s.readCount imm.toNat := (s.dataNeed_read .zero imm).trans (if_neg hi)
  have hread : s.readCommand imm =
      (s.advanceRead (s.readCount imm.toNat), (s.readItems (s.readCount imm.toNat)).2) := by
    unfold State.readCommand
    rw [if_neg hi]
    dsimp only
    rw [if_neg hb]
    rfl
  have hfits : s.dataNeed ⟨2#6, .zero, imm⟩ ≤ s.roomAvailable 0 false := by
    rw [hneed, State.roomAvailable_alone]; omega
  rw [execRead_eq h, State.execCommand_served _ _ _ _ _ hfits, State.runCommand_read, hread, State.respond_eq]
  rfl

theorem State.advanceRead_eq (s : State) (k : Nat) :
    s.advanceRead k =
      if s.decoder.origin = none then s.setPointer { s.decoder.pointer with addr := s.decoder.pointer.addr + k } else s := by
  unfold State.advanceRead
  cases s.decoder.origin <;> rfl

/-! ## The items of RESULTS (R109) -/

/-- The two words of an accumulator. -/
theorem Campaign.resultsWord_high (c : Campaign) (d : Fin 16) :
    c.resultsWord (2 * d.val) = BitVec.ofInt 16 (c.correlations[d.val] / 65536) := by
  have hd : 2 * d.val / 2 = d.val := by omega
  unfold Campaign.resultsWord
  rw [dif_pos (by omega), if_pos (by omega)]
  simp only [hd]

theorem Campaign.resultsWord_low (c : Campaign) (d : Fin 16) :
    c.resultsWord (2 * d.val + 1) = BitVec.ofInt 16 (c.correlations[d.val] % 65536) := by
  have hd : (2 * d.val + 1) / 2 = d.val := by omega
  unfold Campaign.resultsWord
  rw [dif_pos (by omega), if_neg (by omega)]
  simp only [hd]

/-- A signed 32-bit value is its high word, as signed, times 65536, plus its low word, as unsigned (R109). -/
theorem split_words {x : Int} (h1 : -2147483648 ≤ x) (h2 : x ≤ 2147483647) :
    x = (BitVec.ofInt 16 (x / 65536)).toInt * 65536 + (BitVec.ofInt 16 (x % 65536)).toNat := by
  rw [ofInt_toInt (by omega) (by omega), BitVec.toNat_ofInt]
  omega

theorem State.item_results_state (s : State) (l : Lane) :
    s.item .results l 32 = natWord (s.lane l).campaign.state.code := by
  show (s.lane l).campaign.resultsWord 32 = _
  unfold Campaign.resultsWord
  rw [dif_neg (by decide), if_pos rfl]

theorem State.item_results_done (s : State) (l : Lane) : s.item .results l 33 = natWord (s.lane l).campaign.done := by
  show (s.lane l).campaign.resultsWord 33 = _
  unfold Campaign.resultsWord
  rw [dif_neg (by decide), if_neg (by decide), if_pos rfl]

/-! ## The items of the other regions -/

/-- A field that names a set (R142). -/
theorem setField_eq (n : Option SetNo) : setField n = (n.map Fin.val).getD 255 := by cases n <;> rfl

theorem setOfNat_val (n : SetNo) : setOfNat n.val = some n := dif_pos n.isLt

/-- The set-status record of a set (R22, R143). -/
theorem State.item_sets (s : State) (l : Lane) (n : SetNo) : s.item .sets l n.val = (s.record n).word := by
  show s.setsWord n.val = _
  rw [State.setsWord, setOfNat_val]

/-- The owner bit of a set-status record: lane 1, while the set is named (R143). -/
theorem SetRecord.ownerBit_eq (r : SetRecord) :
    (if r.refCount = 0 then 0 else if r.owner = some .one then 1024 else 0) =
      if r.owner = some .one ∧ r.refCount ≠ 0 then 1024 else 0 := by
  by_cases h0 : r.refCount = 0
  · rw [if_pos h0, if_neg fun h => h.2 h0]
  · rw [if_neg h0]
    by_cases h1 : r.owner = some .one
    · rw [if_pos h1, if_pos ⟨h1, h0⟩]
    · rw [if_neg h1, if_neg fun h => h1 h.1]

/-- The items of LANES in the order of their addresses (section 7.5). -/
theorem State.items_lanes (s : State) (l : Lane) :
    (List.range 14).map (s.item .lanes l) =
      [natWord (s.lane l).control.mode.code, natWord (setField (s.lane l).selection.current),
       natWord (s.lane l).selection.route.code, natWord (s.lane l).reference.status.code,
       natWord (s.lane l).reference.staleCount, natWord (s.lane l).reference.settle, natWord (s.lane l).control.fill,
       natWord (s.lane l).adapt.window, natWord (s.lane l).adapt.divergence, natWord (s.lane l).selection.band.val,
       natWord s.cond.band.val, s.cond.temperature.getD (BitVec.ofInt 16 (-32768)),
       natWord (s.lane l).filter.saturationRun, natWord ((s.lane l).control.expectation.getD 65535)] := by
  have h11 : s.item .lanes l 11 = s.cond.temperature.getD (BitVec.ofInt 16 (-32768)) := by
    show (match s.cond.temperature with
      | some t => t
      | none => signedWord (-32768)) = _
    cases s.cond.temperature <;> rfl
  have h13 : s.item .lanes l 13 = natWord ((s.lane l).control.expectation.getD 65535) := by
    show natWord (match (s.lane l).control.expectation with
      | some e => e
      | none => 65535) = _
    cases (s.lane l).control.expectation <;> rfl
  rw [← h11, ← h13]
  rfl

/-- The items of LANE (section 7.4, R43). -/
theorem State.items_lane (s : State) (l : Lane) :
    (List.range 8).map (s.item .lane l) =
      [natWord (s.lane l).control.alignment, natWord (setField (s.lane l).selection.fallback),
       natWord (s.lane l).control.wedgesPerRev, natWord (if (s.lane l).control.seekFeedForward then 1 else 0),
       natWord (s.lane l).adapt.mode.code, natWord (s.lane l).adapt.pesGate, natWord (s.lane l).control.staleLimit,
       natWord (s.lane l).control.holdLength] := rfl

/-- The items of COND (section 1.4). -/
theorem State.items_cond (s : State) (l : Lane) :
    (List.range 10).map (s.item .cond l) =
      [natWord (if s.cond.params.negative1 then 1 else 0), natWord (if s.cond.params.negative2 then 1 else 0),
       s.cond.params.trim1, s.cond.params.trim2, s.cond.params.threshold1, s.cond.params.threshold2,
       s.cond.params.threshold3, natWord s.cond.params.hysteresis, natWord s.cond.params.startBand.val,
       natWord (if s.cond.params.retain then 1 else 0)] := rfl

theorem natWord_bit (b : Bool) : natWord (if b then 1 else 0) = if b then 1 else 0 := by cases b <;> rfl

/-- A set-status word is fixed by its state code, its hold code and the rest. -/
theorem natWord_status_congr {state state' hold hold' frozen owner refs : Nat} (hs : state = state') (hh : hold = hold') :
    natWord ((state + 5 * hold) * 4096 + frozen + owner + refs) =
      BitVec.ofNat 16 ((state' + 5 * hold') * 4096 + frozen + owner + refs) := by
  rw [hs, hh]
  rfl

/-- Settles O19: the command's three answers, then the items region by region. -/
theorem readOutsideTheBank : Obligations.ReadOutsideTheBank := by
  intro imm s h
  refine ⟨fun hi => execRead_range h hi, fun h1 h16 hroom => execRead_full h h1 h16 hroom,
    fun h1 h16 hroom hb => ?_, fun l d => ⟨fun hlo hhi => ?_, ?_, ?_, fun l => ⟨fun a => ?_, ?_, ?_, rfl, fun n => ?_, ?_⟩⟩⟩
  · rw [execRead_served h h1 h16 hroom hb, State.advanceRead_eq]
    rfl
  · refine (split_words hlo hhi).trans ?_
    rw [← Campaign.resultsWord_high, ← Campaign.resultsWord_low]
    rfl
  · rw [State.item_results_state]
    cases (s.lane l).campaign.state <;> rfl
  · exact State.item_results_done s l
  · exact congrArg natWord (setField_eq _)
  · rw [State.items_lane, setField_eq]
    cases (s.lane l).adapt.mode <;> rfl
  · simp only [State.items_cond, natWord_bit]
    rfl
  · rw [State.item_sets, SetRecord.word, SetRecord.ownerBit_eq]
    refine natWord_status_congr ?_ ?_
    · cases (s.record n).state <;> rfl
    · cases (s.record n).hold <;> rfl
  · rw [State.items_lanes, setField_eq]
    cases (s.lane l).control.mode <;> cases (s.lane l).selection.route <;> cases (s.lane l).reference.status <;> rfl

end Sys2Proof.Machine
end

