-- ==== Sys2Proof/Proofs/OutputStatus.lean ====
section
/-! SUPPORT. The Cancellation Filter: what its reads of a set find, with and without a double error, and the
correction that the words read give (R55 to R63, R68, R73). -/

namespace Sys2Proof.Machine

variable {s : State} {l : Lane} {n : SetNo}

/-! ## Reads up to a double error (R61) -/

theorem State.readUntilDouble_cons_some {s1 : State} {w : Nat} {v : Word} (h : s.readWord n w = (s1, some v))
    (ws : List Nat) :
    s.readUntilDouble n (w :: ws) = ((s1.readUntilDouble n ws).1, (s1.readUntilDouble n ws).2.map (v :: ·)) := by
  rcases e : s1.readUntilDouble n ws with ⟨s2, _ | vs⟩ <;> simp only [State.readUntilDouble, h, e] <;> rfl

theorem State.readUntilDouble_cons_none {s1 : State} {w : Nat} (h : s.readWord n w = (s1, none)) (ws : List Nat) :
    s.readUntilDouble n (w :: ws) = (s1, none) := by
  simp only [State.readUntilDouble, h]

/-- Reads that find no double error are those of the first words, then those of the rest. -/
theorem State.readUntilDouble_append_some {t : State} {a b : List Nat} {va vb : List Word} (hl : va.length = a.length)
    (h : s.readUntilDouble n (a ++ b) = (t, some (va ++ vb))) :
    ∃ s1, s.readUntilDouble n a = (s1, some va) ∧ s1.readUntilDouble n b = (t, some vb) := by
  induction a generalizing s va with
  | nil =>
    obtain rfl := List.length_eq_zero_iff.mp hl
    exact ⟨s, rfl, h⟩
  | cons w a ih =>
    obtain ⟨v, va, rfl⟩ := List.exists_cons_of_length_eq_add_one hl
    rcases hw : s.readWord n w with ⟨s1, _ | v'⟩
    · rw [List.cons_append, State.readUntilDouble_cons_none hw] at h
      cases h
    · rw [List.cons_append, State.readUntilDouble_cons_some hw] at h
      obtain ⟨rfl, h2⟩ := Prod.mk.inj h
      obtain ⟨vs, hvs, hc⟩ := Option.map_eq_some_iff.mp h2
      obtain ⟨rfl, rfl⟩ := List.cons.inj hc
      obtain ⟨s2, ha, hb⟩ := ih (Nat.succ.inj hl) (Prod.ext rfl hvs)
      exact ⟨s2, by rw [State.readUntilDouble_cons_some hw, ha]; rfl, hb⟩

/-- From `s` to `u` lanes, records of sets, transfer record and the count of storage errors stand. -/
structure State.SameService (s u : State) : Prop where
  lane : ∀ k, u.lane k = s.lane k
  record : ∀ m, u.record m = s.record m
  transfer : u.transfer = s.transfer
  errors : u.counters.storageError = s.counters.storageError

theorem State.SameService.refl (s : State) : s.SameService s := ⟨fun _ => rfl, fun _ => rfl, rfl, rfl⟩

theorem State.SameService.trans {t u : State} (h1 : s.SameService t) (h2 : t.SameService u) : s.SameService u :=
  ⟨fun k => (h2.lane k).trans (h1.lane k), fun m => (h2.record m).trans (h1.record m), h2.transfer.trans h1.transfer,
    h2.errors.trans h1.errors⟩

theorem State.correctWord_sameService (s : State) (n : SetNo) (w : Nat) (v : Word) :
    s.SameService (s.correctWord n w v) :=
  ⟨fun _ => by simp, fun _ => rfl, by simp, rfl⟩

/-- A correction leaves every other word of its set (R35). -/
theorem State.correctWord_cell_of_ne (hs : s.bankWf) {w w' : Nat} (h : w' ≠ w) (v : Word) :
    (s.correctWord n w v).cell n w' = s.cell n w' := by
  refine (Memory.read_write hs (n.val * 64 + w) (n.val * 64 + w') _).trans (if_neg ?_)
  omega

/-- Reads that find no double error give the words' values and leave the service and every other word of the set. -/
theorem State.readUntilDouble_service {ws : List Nat} (hs : s.bankWf) (hd : ws.Nodup)
    (h : ∀ w ∈ ws, (s.cell n w).flipped.length ≤ 1) :
    ∃ t : State, s.readUntilDouble n ws = (t, some (ws.map fun w => (s.cell n w).value)) ∧ s.SameService t ∧ t.bankWf
      ∧ ∀ w ∉ ws, t.cell n w = s.cell n w := by
  obtain ⟨words, wf, e, hread⟩ := State.readUntilDouble_corrected hs hd h
  rw [List.map_map] at e
  refine ⟨_, e, ⟨fun k => State.lane_congr k rfl rfl, fun _ => rfl, rfl, rfl⟩, wf, fun w hw => ?_⟩
  refine (hread (n.val * 64 + w)).trans (if_neg ?_)
  rintro ⟨v, hv, he⟩
  exact hw (Nat.add_left_cancel he ▸ hv)

/-- Reads of words with a double error among them end at the first one, after corrections at most (R35, R36, R61). -/
theorem State.readUntilDouble_double {ws : List Nat} (hs : s.bankWf)
    (h : ∃ w ∈ ws, 2 ≤ (s.cell n w).flipped.length) :
    ∃ u, s.SameService u ∧ s.readUntilDouble n ws = (u.doubleError n, none) := by
  induction ws generalizing s with
  | nil => simp at h
  | cons w ws ih =>
    obtain ⟨w', hmem, hw'⟩ := h
    by_cases h2 : 2 ≤ (s.cell n w).flipped.length
    · exact ⟨s, .refl s, State.readUntilDouble_cons_none (State.readWord_double h2) ws⟩
    · have hne : w' ≠ w := fun e => h2 (e ▸ hw')
      have hin : w' ∈ ws := (List.mem_cons.mp hmem).resolve_left hne
      rcases Nat.le_one_iff_eq_zero_or_eq_one.mp (Nat.lt_succ_iff.mp (Nat.not_le.mp h2)) with h0 | h1
      · obtain ⟨u, hu, e⟩ := ih hs ⟨w', hin, hw'⟩
        refine ⟨u, hu, ?_⟩
        rw [State.readUntilDouble_cons_some (State.readWord_clean (List.length_eq_zero_iff.mp h0)), e]
        rfl
      · obtain ⟨u, hu, e⟩ := ih (s := s.correctWord n w (s.cell n w).value) (Memory.write_wf hs _ _)
          ⟨w', hin, by rwa [State.correctWord_cell_of_ne hs hne]⟩
        refine ⟨u, (s.correctWord_sameService n w _).trans hu, ?_⟩
        rw [State.readUntilDouble_cons_some (State.readWord_single h1), e]
        rfl

/-- A double error in a lane's LIVE current set: the set is QUARANTINED and counted once, and the lane loses it (R36,
R51). -/
theorem State.doubleError_live (hl : (s.record n).state = .live) (hc : (s.lane l).selection.current = some n)
    (hw : ¬(s.transfer.state = .waiting ∧ s.transfer.current = some n)) :
    (s.doubleError n).lane l = (s.lane l).withoutSet ∧ ((s.doubleError n).record n).state = .quarantined
      ∧ (s.doubleError n).counters.storageError = min 65535 (s.counters.storageError + 1) := by
  have hf : (s.record n).state ≠ .free := by rw [hl]; decide
  have hq : (s.record n).state ≠ .quarantined := by rw [hl]; decide
  rw [State.doubleError_quarantines hf hq]
  refine ⟨?_, ?_, ?_⟩
  · rw [State.quarantine_lane_eq, State.withCounters_lane, if_pos hc]
  · exact congrArg SetRecord.state ((State.quarantine_record (by exact hw) n).trans (if_pos rfl))
  · simp [raised]

/-! ## The words that the filter reads (R61) -/

/-- TR, TS, OS and CL, then the taps in use. -/
def filterWords (tr ts : Nat) : List Nat :=
  [0, 1, 2, 3] ++ (List.range tr).map (10 + ·) ++ (List.range ts).map (42 + ·)

theorem filterWords_eq (tr ts : Nat) : filterWords tr ts = [0, 1, 2, 3] ++ usedTapWords tr ts := by
  have hadd : ∀ c k : Nat, (List.range k).map (c + ·) = (List.range k).map (· + c) := fun c k =>
    List.map_congr_left fun i _ => Nat.add_comm c i
  rw [filterWords, hadd, hadd, List.append_assoc]
  rfl

theorem mem_usedTapWords {tr ts w : Nat} :
    w ∈ usedTapWords tr ts ↔ 10 ≤ w ∧ w < 10 + tr ∨ 42 ≤ w ∧ w < 42 + ts := by
  simp only [usedTapWords, List.mem_append, List.mem_map, List.mem_range, Config.firstTap, Config.firstSiblingTap]
  constructor
  · rintro (⟨k, hk, rfl⟩ | ⟨k, hk, rfl⟩) <;> omega
  · rintro (h | h)
    · exact .inl ⟨w - 10, by omega, by omega⟩
    · exact .inr ⟨w - 42, by omega, by omega⟩

theorem filterWords_nodup {tr : Nat} (h : tr ≤ 32) (ts : Nat) : (filterWords tr ts).Nodup := by
  have hmap : ∀ c k : Nat, ((List.range k).map (· + c)).Nodup := fun c k =>
    List.nodup_range.map (add_left_injective c)
  rw [filterWords_eq]
  refine List.nodup_append'.mpr ⟨by decide, List.nodup_append'.mpr ⟨hmap _ _, hmap _ _, ?_⟩, ?_⟩
  · intro w h1 h2
    simp only [List.mem_map, List.mem_range, Config.firstTap, Config.firstSiblingTap] at h1 h2
    omega
  · intro w h1 h2
    have h4 : ∀ v ∈ [0, 1, 2, 3], v < 4 := by decide
    have := h4 w h1
    rw [mem_usedTapWords] at h2
    omega

/-! ## The correction (R62, R63) -/

theorem correctionSum_append {a b : List Word} {c d : List Int} (h : a.length = c.length) :
    correctionSum (a ++ b) (c ++ d) = correctionSum a c + correctionSum b d := by
  induction a generalizing c with
  | nil =>
    obtain rfl := List.length_eq_zero_iff.mp h.symm
    exact (zero_add _).symm
  | cons w a ih =>
    obtain ⟨x, c, rfl⟩ := List.exists_cons_of_length_eq_add_one h.symm
    rw [List.cons_append, List.cons_append, correctionSum, correctionSum, ih (Nat.succ.inj h), add_assoc]

theorem correctionSum_range (f : Nat → Word) (g : Nat → Int) (k : Nat) :
    correctionSum ((List.range k).map f) ((List.range k).map g) = ∑ i ∈ Finset.range k, (f i).toInt * g i := by
  induction k with
  | zero => rfl
  | succ k ih =>
    rw [List.range_succ, List.map_append, List.map_append, correctionSum_append (by simp), ih, Finset.sum_range_succ]
    exact congrArg _ (add_zero _)

/-- The sum over the taps in use, each with its reference (R62). -/
theorem correctionSum_usedTaps (x : LaneState) (v : Nat → Word) (tr ts : Nat) :
    correctionSum ((usedTapWords tr ts).map v) (x.references tr ts 0) =
      ∑ k ∈ Finset.range tr, (v (10 + k)).toInt * (x.reference.ring.toList.getD (x.control.alignment + k) 0).toInt
        + ∑ j ∈ Finset.range ts, (v (42 + j)).toInt * (x.reference.sibling.toList.getD j 0).toInt := by
  rw [usedTapWords, LaneState.references, List.map_append, correctionSum_append (by simp), List.map_map, List.map_map,
    correctionSum_range, correctionSum_range]
  refine congrArg₂ (· + ·) (Finset.sum_congr rfl fun k _ => ?_) (Finset.sum_congr rfl fun j _ => ?_)
  · rw [Nat.add_comm 10 k]; rfl
  · rw [Nat.add_comm 42 j]; rfl

/-- A computed correction, from the sum and its roundings (R63, R73). -/
theorem State.applyTaps_eq (u : State) (l : Lane) {tr ts : Nat} {os cl : Word} {taps : List Word}
    {sum rounded y : Int} (hs : correctionSum taps ((u.lane l).references tr ts 0) = sum)
    (hr : roundedCorrection sum os = rounded) (hy : clampSym cl.toInt rounded = y) :
    u.applyTaps l tr ts os cl taps =
      ((u.onCounters l fun c =>
          { c with
            freshFrame := min 65535 (c.freshFrame + 1)
            correctionClamp :=
              if y = rounded then c.correctionClamp else min 65535 (c.correctionClamp + 1) }).onFilter l
        (fun z => { z with held := BitVec.ofInt 16 y }), ⟨.fresh, BitVec.ofInt 16 y, tr, ts⟩) := by
  simp only [State.applyTaps, State.freshFrame, limitedCorrection, hs, hr, hy, signedWord, raised, Config.counterMax,
    decide_eq_true_eq, ne_eq, ite_not]
  cases l <;> rfl

theorem State.computeCorrection_of_reads {s1 s2 : State} {tr ts os cl : Word} {taps : List Word}
    (h1 : s.readUntilDouble n [0, 1, 2, 3] = (s1, some [tr, ts, os, cl]))
    (h2 : s1.readUntilDouble n (usedTapWords (tapCount 32 tr) (tapCount 8 ts)) = (s2, some taps)) :
    s.computeCorrection l n = s2.applyTaps l (tapCount 32 tr) (tapCount 8 ts) os cl taps := by
  simp only [State.computeCorrection, h1, h2]

theorem State.computeCorrection_of_header_double {s1 : State} (h : s.readUntilDouble n [0, 1, 2, 3] = (s1, none)) :
    s.computeCorrection l n = (s1, .plain .diag 0) := by
  simp only [State.computeCorrection, h]

theorem State.computeCorrection_of_tap_double {s1 s2 : State} {tr ts os cl : Word}
    (h1 : s.readUntilDouble n [0, 1, 2, 3] = (s1, some [tr, ts, os, cl]))
    (h2 : s1.readUntilDouble n (usedTapWords (tapCount 32 tr) (tapCount 8 ts)) = (s2, none)) :
    s.computeCorrection l n = (s2, .plain .diag 0) := by
  simp only [State.computeCorrection, h1, h2]

/-! ### The correction of a set whose header is in range -/

/-- The sum of a set's taps in use, each with its reference (R62). -/
def State.tapSum (s : State) (l : Lane) (n : SetNo) : Int :=
  ∑ k ∈ Finset.range (s.wordInt n 0).toNat,
      s.wordInt n (10 + k) * ((s.lane l).reference.ring.toList.getD ((s.lane l).control.alignment + k) 0).toInt
    + ∑ j ∈ Finset.range (s.wordInt n 1).toNat,
      s.wordInt n (42 + j) * ((s.lane l).reference.sibling.toList.getD j 0).toInt

/-- The sum rounded half up by 15 + OS places (R63). -/
def State.tapsRounded (s : State) (l : Lane) (n : SetNo) : Int :=
  (s.tapSum l n + 2 ^ (14 + (s.wordInt n 2).toNat)).fdiv (2 ^ (15 + (s.wordInt n 2).toNat))

/-- The rounded sum clamped to ±CL (R63). -/
def State.tapsClamped (s : State) (l : Lane) (n : SetNo) : Int :=
  max (-s.wordInt n 3) (min (s.wordInt n 3) (s.tapsRounded l n))

/-- A FRESH frame in a lane of `t`, with its correction taken from the words of `s` (R58, R63, R73). -/
def State.freshFrom (s t : State) (l : Lane) (n : SetNo) : State × Decision :=
  ((t.onCounters l fun c =>
      { c with
        freshFrame := min 65535 (c.freshFrame + 1)
        correctionClamp :=
          if s.tapsClamped l n = s.tapsRounded l n then c.correctionClamp
          else min 65535 (c.correctionClamp + 1) }).onFilter l
      (fun z => { z with held := BitVec.ofInt 16 (s.tapsClamped l n) }),
    ⟨.fresh, BitVec.ofInt 16 (s.tapsClamped l n), (s.wordInt n 0).toNat, (s.wordInt n 1).toNat⟩)

theorem roundedCorrection_eq (sum : Int) (os : Word) :
    roundedCorrection sum os = (sum + 2 ^ (14 + os.toInt.toNat)).fdiv (2 ^ (15 + os.toInt.toNat)) := by
  have hs : 15 + os.toInt.toNat - 1 = 14 + os.toInt.toNat := by omega
  rw [fdiv_of_pos _ (by positivity), roundedCorrection, roundHalfUp, hs]

/-- A correction within ±CL is the value of its word. -/
theorem State.tapsClamped_toInt (h : s.headerInRange n) (l : Lane) :
    (BitVec.ofInt 16 (s.tapsClamped l n) : Word).toInt = s.tapsClamped l n := by
  obtain ⟨-, -, -, hcl, -⟩ := h
  have hb := (word_toInt_bounds (s.cell n 3).value).2
  rw [← State.wordInt] at hb
  refine ofInt_toInt ?_ ?_ <;> rw [State.tapsClamped] <;> omega

theorem State.tapCount_of_headerInRange (h : s.headerInRange n) :
    tapCount 32 (s.cell n 0).value = (s.wordInt n 0).toNat ∧ tapCount 8 (s.cell n 1).value = (s.wordInt n 1).toNat := by
  obtain ⟨htr, hts, -⟩ := h
  exact ⟨min_eq_right (Int.toNat_le.mpr htr.2), min_eq_right (Int.toNat_le.mpr hts.2)⟩

/-- Reads without a double error give the correction of the words as they stood (R57, R62, R63). -/
theorem State.computeCorrection_fresh (hh : s.headerInRange n) {t : State} (hl : t.lane l = s.lane l)
    (hr : s.readUntilDouble n (filterWords (s.wordInt n 0).toNat (s.wordInt n 1).toNat) =
      (t, some ((filterWords (s.wordInt n 0).toNat (s.wordInt n 1).toNat).map fun w => (s.cell n w).value))) :
    s.computeCorrection l n = s.freshFrom t l n := by
  obtain ⟨htr, hts⟩ := State.tapCount_of_headerInRange hh
  rw [filterWords_eq, List.map_append] at hr
  obtain ⟨s1, h1, h2⟩ := State.readUntilDouble_append_some (by simp) hr
  rw [← htr, ← hts] at h2
  rw [State.computeCorrection_of_reads h1 h2, htr, hts]
  refine State.applyTaps_eq t l ?_ (roundedCorrection_eq _ _) ?_
  · rw [hl, correctionSum_usedTaps]; rfl
  · rw [clampSym, min_comm]; rfl

/-- A double error in a word that the filter reads makes the frame DIAG, and takes the set from the lane (R61, R68). -/
theorem State.computeCorrection_diag (hs : s.bankWf) (hlive : (s.record n).state = .live)
    (hc : (s.lane l).selection.current = some n)
    (hw : ¬(s.transfer.state = .waiting ∧ s.transfer.current = some n))
    (hd : ∃ w : Nat, 2 ≤ (s.cell n w).flipped.length
      ∧ (w < 4 ∨ s.headerInRange n ∧ w ∈ usedTapWords (s.wordInt n 0).toNat (s.wordInt n 1).toNat)) :
    ∃ t, s.computeCorrection l n = (t, .plain .diag 0) ∧ t.lane l = (s.lane l).withoutSet
      ∧ (t.record n).state = .quarantined ∧ t.counters.storageError = min 65535 (s.counters.storageError + 1) := by
  suffices h : ∃ u, s.SameService u ∧ s.computeCorrection l n = (u.doubleError n, .plain .diag 0) by
    obtain ⟨u, hu, e⟩ := h
    obtain ⟨h1, h2, h3⟩ := State.doubleError_live (s := u) (l := l) (n := n) (by rw [hu.record, hlive])
      (by rw [hu.lane, hc]) (by rw [hu.transfer]; exact hw)
    exact ⟨_, e, by rw [h1, hu.lane], h2, by rw [h3, hu.errors]⟩
  by_cases hhead : ∃ w ∈ [0, 1, 2, 3], 2 ≤ (s.cell n w).flipped.length
  · obtain ⟨u, hu, e⟩ := State.readUntilDouble_double hs hhead
    exact ⟨u, hu, State.computeCorrection_of_header_double e⟩
  · have hle : ∀ w ∈ [0, 1, 2, 3], (s.cell n w).flipped.length ≤ 1 := fun w hw =>
      Nat.lt_succ_iff.mp (Nat.not_le.mp fun h => hhead ⟨w, hw, h⟩)
    obtain ⟨w, hw2, hlt | ⟨hh, hmem⟩⟩ := hd
    · exact absurd ⟨w, by simp only [List.mem_cons, List.not_mem_nil, or_false]; omega, hw2⟩ hhead
    · obtain ⟨s1, h1, hsame, wf, hcell⟩ := State.readUntilDouble_service hs (by decide) hle
      obtain ⟨htr, hts⟩ := State.tapCount_of_headerInRange hh
      have hout : w ∉ [0, 1, 2, 3] := fun h => hhead ⟨w, h, hw2⟩
      obtain ⟨u, hu, h2⟩ := State.readUntilDouble_double (n := n) wf ⟨w, hmem, by rwa [hcell w hout]⟩
      rw [← htr, ← hts] at h2
      exact ⟨u, hsame.trans hu, State.computeCorrection_of_tap_double h1 h2⟩

/-! ## The output status (R55 to R59) -/

theorem correcting_iff {m : ServoMode} {b : Bool} :
    correcting m b = true ↔ m = .settle ∨ m = .track ∨ m = .seek ∧ b = true := by
  cases m <;> simp [correcting]

section
variable {f : ServoFields} {r : Route}

theorem State.decideFrame_not_running (h : (s.lane f.lane).control.mode ≠ .running) (found : Option (SetNo × Route)) :
    s.decideFrame f found = s.bypassFrame f.lane := if_pos h

theorem State.decideFrame_lost_set (hm : (s.lane f.lane).control.mode = .running)
    (hc : (s.lane f.lane).selection.current ≠ some n) : s.decideFrame f (some (n, r)) = (s, .plain .diag 0) :=
  (if_neg (not_not.mpr hm)).trans (if_pos ⟨rfl, hc⟩)

theorem State.decideFrame_none (hm : (s.lane f.lane).control.mode = .running) :
    s.decideFrame f none = s.bypassFrame f.lane := by
  refine (if_neg (not_not.mpr hm)).trans ((if_neg (by simp)).trans ?_)
  split
  · rfl
  · cases (s.lane f.lane).reference.status <;> rfl

/-- In a RUNNING lane that still has the frame's set, the frame's mode and the reference decide (R57). -/
theorem State.decideFrame_bypasses (hm : (s.lane f.lane).control.mode = .running)
    (hc : (s.lane f.lane).selection.current = some n)
    (h : correcting f.mode (s.lane f.lane).control.seekFeedForward = false ∨ (s.lane f.lane).reference.status = .lost) :
    s.decideFrame f (some (n, r)) = s.bypassFrame f.lane := by
  refine (if_neg (not_not.mpr hm)).trans ((if_neg fun h => h.2 hc).trans ?_)
  split
  · rfl
  · rw [h.resolve_left ‹_›]

theorem State.decideFrame_holds (hm : (s.lane f.lane).control.mode = .running)
    (hc : (s.lane f.lane).selection.current = some n)
    (hcor : correcting f.mode (s.lane f.lane).control.seekFeedForward = true)
    (hst : (s.lane f.lane).reference.status = .stale) : s.decideFrame f (some (n, r)) = s.heldFrame f.lane := by
  refine (if_neg (not_not.mpr hm)).trans ((if_neg fun h => h.2 hc).trans ((if_neg (by simp [hcor])).trans ?_))
  rw [hst]

theorem State.decideFrame_computes (hm : (s.lane f.lane).control.mode = .running)
    (hc : (s.lane f.lane).selection.current = some n)
    (hcor : correcting f.mode (s.lane f.lane).control.seekFeedForward = true)
    (hst : (s.lane f.lane).reference.status = .good) :
    s.decideFrame f (some (n, r)) = s.computeCorrection f.lane n := by
  refine (if_neg (not_not.mpr hm)).trans ((if_neg fun h => h.2 hc).trans ((if_neg (by simp [hcor])).trans ?_))
  rw [hst]

end

/-- Settles O46: the decision by its conditions in order, and the correction of the words read. -/
theorem outputStatus : Obligations.OutputStatus := by
  intro f found s l x counted bypass correcting
  have hcor : Machine.correcting f.mode x.control.seekFeedForward = true ↔ correcting := correcting_iff
  refine ⟨fun hm => State.decideFrame_not_running hm found, fun hm => ⟨?_, ?_, ?_⟩⟩
  · rintro n r rfl hc
    exact State.decideFrame_lost_set hm hc
  · rintro rfl
    exact State.decideFrame_none hm
  rintro n r rfl hc
  refine ⟨fun h => ?_, fun h hst => ?_, fun h hst hh => ?_, fun h hst hs hlive hw hd => ?_⟩
  · exact State.decideFrame_bypasses hm hc (h.imp_left fun h => by rwa [← hcor, Bool.not_eq_true] at h)
  · exact State.decideFrame_holds hm hc (hcor.mpr h) hst
  · intro tr ts os read cs sum rounded y fresh
    rw [State.decideFrame_computes hm hc (hcor.mpr h) hst]
    refine ⟨State.tapsClamped_toInt hh l, fun hcl => ?_, fun hs hle => ?_⟩
    · refine State.computeCorrection_fresh hh rfl (State.readUntilDouble_clean fun w hw => ?_)
      exact hcl _ (List.mem_map_of_mem hw)
    · have htr : tr ≤ 32 := Int.toNat_le.mpr hh.1.2
      obtain ⟨words, -, e, hwords⟩ := State.readUntilDouble_corrected hs.1 (filterWords_nodup htr ts) fun w hw =>
        hle _ (List.mem_map_of_mem hw)
      rw [List.map_map] at e
      exact ⟨words, State.computeCorrection_fresh hh (State.lane_congr l rfl rfl) e, hwords⟩
  · rw [State.decideFrame_computes hm hc (hcor.mpr h) hst]
    refine State.computeCorrection_diag hs.1 hlive hc hw ?_
    simp only [mem_usedTapWords]
    exact hd

end Sys2Proof.Machine
end

