-- ==== Sys2Proof/Proofs/ServoFrames.lean ====
section
/-! SUPPORT. A servo frame, stage by stage: what its stages leave of the outgoing ports and the Response Queue, of a
lane's Lane Controller and campaign, the engine's movements between them, and the frames sent (R65, R66, R101, R123,
R130, R134, R135, R137 to R139). -/

namespace Sys2Proof.Machine

variable {s t : State} {l k : Lane} {n : SetNo}

/-! ## The engine rows and the movement that is due (R130, R169 to R173) -/

theorem execWordMovement_of_due {cur : Option SetNo} (h : s.due = cur.map .word) :
    execWordMovement s = .next s.engineMove := by
  unfold execWordMovement State.engineMove
  rw [h]
  cases cur <;> rfl

theorem execBlockHeaderAppend_of_due {cur : Option SetNo} (h : s.due = cur.map .header) :
    execBlockHeaderAppend s = .next s.engineMove := by
  unfold execBlockHeaderAppend State.engineMove
  rw [h]
  cases cur <;> rfl

theorem execBlockTrailerAppend_of_due {cur : Option SetNo} (h : s.due = cur.map .trailer) :
    execBlockTrailerAppend s = .next s.engineMove := by
  unfold execBlockTrailerAppend State.engineMove
  rw [h]
  cases cur <;> rfl

theorem execSweepExamine_of_due {cur : Option SetNo} (h : s.due = some (.examine cur)) :
    execSweepExamine s = .next s.engineMove := by
  unfold execSweepExamine State.engineMove
  rw [h]
  rfl

/-- An engine that waits for room for a transfer word makes no movement (R171). -/
theorem State.engineMove_stalled (hm : s.transfer.mode ≠ .copy) (hp : s.transfer.phase ≠ .examine) (hf : ¬s.fits) :
    s.engineMove = s := by
  have hd : s.due = none := by
    refine Option.eq_none_iff_forall_not_mem.mpr fun m h => ?_
    have hn := State.needs_of_due h
    cases m with
    | word n => exact hn.2.elim (fun h => hm h.2) fun h => hf h.2
    | header n => exact hf hn.2.2
    | trailer n => exact hf hn.2.2
    | examine cur => exact hp hn.2.2
  unfold State.engineMove
  rw [hd]

/-- Each movement of the engine is what the row that is due does. -/
theorem State.engineMoves_rows (u : State) :
    (u.transfer.state ≠ .active → u.engineMove = u)
      ∧ (u.transfer.state = .active → u.transfer.mode = .copy → execWordMovement u = .next u.engineMove)
      ∧ (u.inBlock .words → u.fits → execWordMovement u = .next u.engineMove)
      ∧ (u.inBlock .header → u.fits → execBlockHeaderAppend u = .next u.engineMove)
      ∧ (u.inBlock .trailer → u.fits → execBlockTrailerAppend u = .next u.engineMove)
      ∧ (u.inBlock .examine → execSweepExamine u = .next u.engineMove)
      ∧ (u.transfer.mode ≠ .copy → u.transfer.phase ≠ .examine → ¬u.fits → u.engineMove = u) := by
  refine ⟨State.engineMove_of_not_active, fun ha hm => execWordMovement_of_due (State.due_copy ha hm), ?_, ?_, ?_, ?_,
    State.engineMove_stalled⟩
  · rintro ⟨ha, hm, hp⟩ hf
    obtain ⟨-, -, words, -⟩ := State.due_block ha hm
    exact execWordMovement_of_due ((words hp).trans (if_pos (u.admitsTransferWord_iff.mpr hf)))
  · rintro ⟨ha, hm, hp⟩ hf
    obtain ⟨-, header, -, -⟩ := State.due_block ha hm
    exact execBlockHeaderAppend_of_due ((header hp).trans (if_pos (u.admitsTransferWord_iff.mpr hf)))
  · rintro ⟨ha, hm, hp⟩ hf
    obtain ⟨-, -, -, trailer⟩ := State.due_block ha hm
    exact execBlockTrailerAppend_of_due ((trailer hp).trans (if_pos (u.admitsTransferWord_iff.mpr hf)))
  · rintro ⟨ha, hm, hp⟩
    obtain ⟨examine, -, -, -⟩ := State.due_block ha hm
    exact execSweepExamine_of_due (examine hp)

/-! ## The outgoing ports and the Response Queue between the stages (R135, R137, R158) -/

/-- From `s` to `t` no frame is sent, and the Response Queue gains transfer words at its tail, if anything. -/
structure State.Gathers (s t : State) : Prop where
  ports : t.ports = s.ports
  responses : ∃ moved : List Word, t.responses = s.responses ++ moved.map (QueuedWord.mk .transfer)

/-- Ports and Response Queue as they were. -/
theorem State.Gathers.of_kept (h : t.responses = s.responses ∧ t.ports = s.ports) : s.Gathers t :=
  ⟨h.2, [], by simp [h.1]⟩

theorem State.Gathers.refl (s : State) : s.Gathers s := .of_kept ⟨rfl, rfl⟩

theorem State.Gathers.trans {u : State} (h1 : s.Gathers t) (h2 : t.Gathers u) : s.Gathers u := by
  obtain ⟨p1, m1, r1⟩ := h1
  obtain ⟨p2, m2, r2⟩ := h2
  exact ⟨p2.trans p1, m1 ++ m2, by rw [r2, r1, List.map_append, List.append_assoc]⟩

theorem State.Gathers.of_word (v : Word) (h : t.responses = s.responses ++ [⟨.transfer, v⟩] ∧ t.ports = s.ports) :
    s.Gathers t := ⟨h.2, [v], h.1⟩

/-! ### The engine -/

theorem State.deliver_gathers (s : State) (v : Word) : s.Gathers (s.deliver v) := by
  unfold State.deliver
  split
  · split
    · exact .of_kept ⟨rfl, rfl⟩
    · exact .refl s
  · exact .of_word v ⟨rfl, rfl⟩
  · exact .of_word v ⟨rfl, rfl⟩

theorem State.advanceWord_gathers (s : State) : s.Gathers s.advanceWord := by
  refine .of_kept ?_
  simp only [State.advanceWord]
  split <;> split <;> simp

theorem State.moveWord_gathers (s : State) (n : SetNo) : s.Gathers (s.moveWord n) := by
  have hread : s.Gathers
      (State.readWord { s with transfer := { s.transfer with remaining := s.transfer.remaining - 1 } } n
        s.transfer.word).1 := .of_kept (by simp)
  have hnext : ∀ (u : State) (v : Word), u.Gathers (u.deliver v).advanceWord := fun u v =>
    (u.deliver_gathers v).trans (State.advanceWord_gathers _)
  have hbad : ∀ u : State, u.Gathers u.countBadWord := fun u => .of_kept ⟨rfl, rfl⟩
  simp only [State.moveWord]
  split <;> rename_i e <;> rw [e] at hread
  · exact hread.trans (hnext _ _)
  · split
    · exact hread.trans ((hbad _).trans (hnext _ _))
    · exact hread.trans (.of_kept (by simp))

theorem State.appendTrailer_gathers (s : State) (n : SetNo) : s.Gathers (s.appendTrailer n) := by
  refine .of_word (transferTrailer n s.transfer.setBadWords) ?_
  simp only [State.appendTrailer]
  split <;> (try split) <;> simp [State.sweepNext]

theorem State.examineSet_gathers (s : State) (cur : Option SetNo) : s.Gathers (s.examineSet cur) := by
  refine .of_kept ?_
  simp only [State.examineSet]
  split <;> (try split) <;> simp [State.sweepNext, State.holdSource]

theorem State.engineMove_gathers (s : State) : s.Gathers s.engineMove := by
  unfold State.engineMove State.move
  split
  · split
    · exact s.moveWord_gathers _
    · exact .of_word _ ⟨rfl, rfl⟩
    · exact s.appendTrailer_gathers _
    · exact s.examineSet_gathers _
  · exact .refl s

theorem State.engineMoves_gathers (s : State) (j : Nat) : s.Gathers (s.engineMoves j) :=
  s.engineMoves_induction (P := s.Gathers) (fun u h => h.trans u.engineMove_gathers) (.refl s) j

/-! ### The stages -/

theorem State.judgeWedge_queues (s : State) (l : Lane) (w : Word) :
    (s.judgeWedge l w).1.responses = s.responses ∧ (s.judgeWedge l w).1.ports = s.ports := by
  simp only [State.judgeWedge, State.applyVerdict, State.slipLane]
  split
  · simp
  · split <;> (try split) <;> simp

theorem State.conditionFrame_queues (s : State) (l : Lane) (v : Verdict) (input : Word) :
    (s.conditionFrame l v input).responses = s.responses ∧ (s.conditionFrame l v input).ports = s.ports := by
  rw [State.conditionFrame_eq]
  split <;> exact ⟨rfl, rfl⟩

theorem State.select_queues (s : State) (l : Lane) (found : Option (SetNo × Route)) :
    (s.select l found).responses = s.responses ∧ (s.select l found).ports = s.ports := by
  unfold State.select
  split
  · simp
  · rename_i n r
    split
    · simp
    · have hr : (s.retireCurrent l).responses = s.responses ∧ (s.retireCurrent l).ports = s.ports := by
        unfold State.retireCurrent
        split <;> (try split) <;> simp
      have he : ((s.retireCurrent l).enterLive l n r).responses = s.responses
          ∧ ((s.retireCurrent l).enterLive l n r).ports = s.ports := hr
      generalize (s.retireCurrent l).enterLive l n r = u at he
      have h := u.readUntilDouble_outside n tapWords
      unfold State.captureShadow
      split <;> rename_i e <;> rw [e] at h <;> simp_all

theorem State.selectFrame_queues (s : State) (f : ServoFields) :
    (s.selectFrame f).1.responses = s.responses ∧ (s.selectFrame f).1.ports = s.ports := by
  have hb : (s.applyBand f.lane f.writeActive).responses = s.responses
      ∧ (s.applyBand f.lane f.writeActive).ports = s.ports := by
    unfold State.applyBand
    split <;> simp
  simp only [State.selectFrame]
  split
  · rw [(State.select_queues _ _ _).1, (State.select_queues _ _ _).2]
    exact hb
  · exact hb

/-- What the filter leaves: a frame counted, or nothing changed, or the set's words read, with a correction computed
from them or without (R57, R61). -/
theorem State.decideFrame_cases (s : State) (f : ServoFields) (found : Option (SetNo × Route)) :
    (∃ g, (s.decideFrame f found).1 = s.onCounters f.lane g) ∨ (s.decideFrame f found).1 = s
      ∨ ∃ (n : SetNo) (a b : List Nat),
        (s.decideFrame f found).1 = ((s.readUntilDouble n a).1.readUntilDouble n b).1
          ∨ ∃ y clamped, (s.decideFrame f found).1 =
              ((s.readUntilDouble n a).1.readUntilDouble n b).1.freshFrame f.lane y clamped := by
  have hbypass : ∃ g, (s.bypassFrame f.lane).1 = s.onCounters f.lane g :=
    ⟨fun c => { c with bypassFrame := raised c.bypassFrame 1 }, rfl⟩
  have hheld : ∃ g, (s.heldFrame f.lane).1 = s.onCounters f.lane g :=
    ⟨fun c => { c with heldFrame := raised c.heldFrame 1 }, rfl⟩
  simp only [State.decideFrame]
  split_ifs
  · exact .inl hbypass
  · exact .inr (.inl rfl)
  · exact .inl hbypass
  · split
    · exact .inl hbypass
    · exact .inl hbypass
    · exact .inl hheld
    · rename_i n _ _ _
      refine .inr (.inr ⟨n, [0, 1, 2, 3], ?_⟩)
      unfold State.computeCorrection
      split
      · rename_i tr ts _ _ e
        refine ⟨usedTapWords (tapCount 32 tr) (tapCount 8 ts), ?_⟩
        split <;> rename_i e2 <;> rw [e, e2]
        · exact .inr ⟨_, _, rfl⟩
        · exact .inl rfl
      · rename_i e
        exact ⟨[], .inl (by rw [e]; rfl)⟩

theorem State.decideFrame_queues (s : State) (f : ServoFields) (found : Option (SetNo × Route)) :
    (s.decideFrame f found).1.responses = s.responses ∧ (s.decideFrame f found).1.ports = s.ports := by
  rcases s.decideFrame_cases f found with ⟨g, e⟩ | e | ⟨n, a, b, e | ⟨y, clamped, e⟩⟩ <;> rw [e] <;>
    simp [State.freshFrame]

theorem State.probeFrame_queues (s : State) (f : ServoFields) :
    (s.probeFrame f).responses = s.responses ∧ (s.probeFrame f).ports = s.ports := by
  simp only [State.probeFrame, State.countProbeStep]
  split <;> (try split) <;> simp

theorem State.formOutput_queues (s : State) (l : Lane) (sum : Int) :
    (s.formOutput l sum).responses = s.responses ∧ (s.formOutput l sum).ports = s.ports := by
  rw [State.formOutput_eq]
  exact ⟨rfl, rfl⟩

theorem State.adaptTaps_queues (s : State) (l : Lane) (n : SetNo) (tr ts : Nat) (e : Int) (h : AdaptHeader)
    (taps : List Word) :
    (s.adaptTaps l n tr ts e h taps).responses = s.responses ∧ (s.adaptTaps l n tr ts e h taps).ports = s.ports := by
  simp only [State.adaptTaps, State.countWindow, State.countDivergence, State.raiseDivergence, State.rollback]
  constructor <;> split_ifs <;> simp [State.writeTaps]

theorem State.adaptSet_queues (s : State) (l : Lane) (n : SetNo) (tr ts : Nat) (e : Int) :
    (s.adaptSet l n tr ts e).responses = s.responses ∧ (s.adaptSet l n tr ts e).ports = s.ports := by
  have h1 := s.readWord_outside n 4
  unfold State.adaptSet
  split <;> rename_i e1 <;> rw [e1] at h1
  · simp_all
  · split
    · simp_all
    · rename_i s1 _ _
      have h2 := s1.readUntilDouble_outside n [5, 6, 7, 8, 9]
      split
      · rename_i s2 _ _ _ _ _ e2
        rw [e2] at h2
        have h3 := s2.readUntilDouble_outside n (usedTapWords tr ts)
        split <;> rename_i e3 <;> rw [e3] at h3
        · rw [(State.adaptTaps_queues _ _ _ _ _ _ _ _).1, (State.adaptTaps_queues _ _ _ _ _ _ _ _).2]
          simp_all
        · simp_all
      · rename_i e2
        rw [e2] at h2
        simp_all

theorem State.adaptFrame_queues (s : State) (f : ServoFields) (found : Option (SetNo × Route)) (d : Decision)
    (probed : Bool) :
    (s.adaptFrame f found d probed).responses = s.responses ∧ (s.adaptFrame f found d probed).ports = s.ports := by
  unfold State.adaptFrame
  split
  · split
    · exact s.adaptSet_queues _ _ _ _ _
    · exact ⟨rfl, rfl⟩
  · exact ⟨rfl, rfl⟩

theorem State.checkFault_queues (s : State) (l : Lane) :
    (s.checkFault l).responses = s.responses ∧ (s.checkFault l).ports = s.ports := by
  unfold State.checkFault State.faultLane
  split <;> simp

/-! ## The lane's mode and campaign up to the probe (R64, R99, R101, R107, R120, R122) -/

/-- From `s` to `t` a lane's Lane Controller values and campaign record stand. -/
structure State.SameRun (s t : State) (k : Lane) : Prop where
  control : (t.lane k).control = (s.lane k).control
  campaign : (t.lane k).campaign = (s.lane k).campaign

theorem State.SameRun.refl (s : State) (k : Lane) : s.SameRun s k := ⟨rfl, rfl⟩

theorem State.SameRun.trans {u : State} (h1 : s.SameRun t k) (h2 : t.SameRun u k) : s.SameRun u k :=
  ⟨h2.control.trans h1.control, h2.campaign.trans h1.campaign⟩

theorem State.engineMoves_sameRun (s : State) (k : Lane) (j : Nat) : s.SameRun (s.engineMoves j) k :=
  s.engineMoves_induction (P := fun u => s.SameRun u k)
    (fun u h => h.trans <| (u.engineMove_lane_cases k).elim (fun e => ⟨by rw [e], by rw [e]⟩) fun e =>
      ⟨by rw [e]; rfl, by rw [e]; rfl⟩)
    (.refl s k) j

theorem State.select_sameRun (s : State) (l k : Lane) (found : Option (SetNo × Route)) :
    s.SameRun (s.select l found) k := by
  unfold State.select
  split
  · constructor <;> simp [State.releaseCurrent_lane]
  · rename_i n r
    split
    · constructor <;> simp
    · have he : s.SameRun ((s.retireCurrent l).enterLive l n r) k := by constructor <;> simp [State.enterLive]
      have hr := State.readUntilDouble_lane ((s.retireCurrent l).enterLive l n r) k n tapWords
      refine he.trans ?_
      unfold State.captureShadow
      split <;> rename_i e <;> rw [e] at hr <;> constructor <;> simp [hr]

theorem State.selectFrame_sameRun (s : State) (f : ServoFields) (k : Lane) : s.SameRun (s.selectFrame f).1 k := by
  have hb : s.SameRun (s.applyBand f.lane f.writeActive) k := by
    unfold State.applyBand
    split <;> constructor <;> simp
  simp only [State.selectFrame]
  split
  · exact hb.trans (State.select_sameRun _ _ _ _)
  · exact hb

theorem State.decideFrame_sameRun (s : State) (f : ServoFields) (found : Option (SetNo × Route)) (k : Lane) :
    s.SameRun (s.decideFrame f found).1 k := by
  rcases s.decideFrame_cases f found with ⟨g, e⟩ | e | ⟨n, a, b, e | ⟨y, clamped, e⟩⟩ <;> rw [e] <;> constructor <;>
    simp [State.freshFrame]

/-! ### The verdict -/

/-- A wedge index is accepted when it lies below WPR and no more than three places ahead of the expected one (R120). -/
theorem wedgeVerdict_slip_iff (wpr : Nat) (expectation : Option Nat) (i : Nat) :
    (∃ d, wedgeVerdict wpr expectation i = .slip d) ↔
      ¬(i < wpr ∧ ∀ e ∈ expectation, ((i : Int) - e) % (wpr : Int) ≤ 3) := by
  by_cases hi : i < wpr
  · cases expectation with
    | none => simp [wedgeVerdict_none hi, hi]
    | some e =>
      obtain ⟨h0, hg, h3⟩ := wedgeVerdict_some (e := e) hi
      rw [Int.fmod_eq_emod_of_nonneg _ (Int.natCast_nonneg wpr)] at h0 hg h3
      have hnn : 0 ≤ ((i : Int) - e) % (wpr : Int) := Int.emod_nonneg _ (by omega)
      by_cases hle : ((i : Int) - e) % (wpr : Int) ≤ 3
      · have hv : ∀ d, wedgeVerdict wpr (some e) i ≠ .slip d := by
          intro d
          by_cases hz : ((i : Int) - e) % (wpr : Int) = 0
          · rw [h0 hz]; nofun
          · rw [hg (((i : Int) - e) % (wpr : Int)).toNat (by omega) (by omega) (by omega)]; nofun
        simp [hv, hi, hle]
      · simp [h3 (by omega), hle]
  · simp [wedgeVerdict_high (Nat.not_lt.mp hi), hi]

/-- A frame that is no slip of a RUNNING lane leaves the lane's mode and campaign (R121, R122). -/
theorem State.judgeWedge_keeps (w : Word)
    (h : (s.lane l).control.mode = .running →
      ¬∃ d, wedgeVerdict (s.lane l).control.wedgesPerRev (s.lane l).control.expectation w.toNat = .slip d) :
    ((s.judgeWedge l w).1.lane l).control.mode = (s.lane l).control.mode
      ∧ ((s.judgeWedge l w).1.lane l).campaign = (s.lane l).campaign := by
  by_cases hoff : (s.lane l).control.mode = .off
  · rw [State.judgeWedge_off hoff]
    exact ⟨rfl, rfl⟩
  · generalize hv : wedgeVerdict (s.lane l).control.wedgesPerRev (s.lane l).control.expectation w.toNat = v at h
    rw [State.judgeWedge_eq hoff hv]
    cases v with
    | inSequence => simp [State.applyVerdict, State.judged]
    | gap g => simp [State.applyVerdict, State.judged]
    | slip d =>
      have hr : (s.lane l).control.mode ≠ .running := fun hr => h hr ⟨d, rfl⟩
      simp only [State.applyVerdict, State.judged_slip, if_neg hr]
      simp [State.judged]

/-- A slip takes a RUNNING lane to PRIMING, with nothing filled and no campaign RUNNING (R107, R122). -/
theorem State.judgeWedge_slips {w : Word} {d : Nat} (hm : (s.lane l).control.mode = .running)
    (hv : wedgeVerdict (s.lane l).control.wedgesPerRev (s.lane l).control.expectation w.toNat = .slip d) :
    (s.judgeWedge l w).2 = .slip d ∧ ((s.judgeWedge l w).1.lane l).control.mode = .priming
      ∧ ((s.judgeWedge l w).1.lane l).control.fill = 0
      ∧ ((s.judgeWedge l w).1.lane l).campaign.state ≠ .running := by
  rw [State.judgeWedge_eq (by rw [hm]; decide) hv]
  simp only [State.applyVerdict, State.judged_slip, if_pos hm, State.leaveRunning_lane, LaneState.departed,
    State.notify_lane, State.onControl_lane, true_and]
  split
  · simp
  · assumption

/-! ### The conditioner -/

theorem State.conditionFrame_lane (s : State) (l : Lane) (v : Verdict) (input : Word) :
    ((s.conditionFrame l v input).lane l).campaign = (s.lane l).campaign
      ∧ ((s.conditionFrame l v input).lane l).control.mode =
          if (s.lane l).control.mode = .priming ∧ 0 < (s.lane l).pushesFor v
            ∧ 64 ≤ (s.lane l).control.fill + (s.lane l).pushesFor v then .running
          else (s.lane l).control.mode := by
  rw [State.conditionFrame_eq, State.onReference_lane_campaign, State.onReference_lane_control]
  split
  · rename_i hoff
    simp [hoff]
  · rw [State.setLane_lane]
    exact ⟨rfl, rfl⟩

/-- A lane that is not PRIMING keeps its mode. -/
theorem State.conditionFrame_mode (v : Verdict) (input : Word) (h : (s.lane l).control.mode ≠ .priming) :
    ((s.conditionFrame l v input).lane l).control.mode = (s.lane l).control.mode :=
  (s.conditionFrame_lane l v input).2.trans (if_neg fun hp => h hp.1)

/-- The one push that a slip's frame may bring does not fill an empty ring (R116, R122). -/
theorem State.conditionFrame_mode_of_slip (d : Nat) (input : Word) (hm : (s.lane l).control.mode = .priming)
    (hf : (s.lane l).control.fill = 0) :
    ((s.conditionFrame l (.slip d) input).lane l).control.mode = .priming := by
  refine (s.conditionFrame_lane l (.slip d) input).2.trans ((if_neg ?_).trans hm)
  rintro ⟨-, -, h64⟩
  have hp : (s.lane l).pushesFor (.slip d) ≤ 1 := by
    unfold LaneState.pushesFor
    split
    · exact le_refl 1
    · exact Nat.zero_le 1
  omega

/-! ## The whole frame (R123, R134) -/

section
variable (s : State) (f : ServoFields) (slots : EngineSlots)

/-- The frame's state after the filter and the engine's movements that follow it, and the decision. -/
def State.decided : State × Decision :=
  (((s.selected f slots).1.decideFrame f (s.selected f slots).2).1.engineMoves slots.afterFilter,
    ((s.selected f slots).1.decideFrame f (s.selected f slots).2).2)

/-- The stages that follow, but for the drive frame: the probe, the output command, the adaptation and the lane
fault. -/
def State.settled (found : Option (SetNo × Route)) (d : Decision) : State :=
  (((((s.probeFrame f).formOutput f.lane (outputSum f.input d.correction (s.frameProbe f))).engineMoves
    slots.afterProbe).adaptFrame f found d (s.stepsProbe f)).engineMoves slots.afterAdaptation).checkFault f.lane

/-- The frame's state after all its stages. -/
def State.completed : State :=
  (s.decided f slots).1.settled f slots (s.selected f slots).2 (s.decided f slots).2

/-! ### What the stages leave -/

theorem State.conditioned_gathers : s.Gathers (s.conditioned f slots) := by
  have hj : s.Gathers (s.judgeWedge f.lane f.wedge).1 := .of_kept (s.judgeWedge_queues _ _)
  refine hj.trans ((State.engineMoves_gathers _ slots.afterLaneControl).trans (.trans ?_
    (State.engineMoves_gathers _ _)))
  exact .of_kept (State.conditionFrame_queues _ _ _ _)

theorem State.decided_gathers : s.Gathers (s.decided f slots).1 := by
  have hs : (s.conditioned f slots).Gathers (s.selected f slots).1 :=
    .trans (.of_kept (State.selectFrame_queues _ _)) (State.engineMoves_gathers _ _)
  have hd : (s.selected f slots).1.Gathers (s.decided f slots).1 :=
    .trans (.of_kept (State.decideFrame_queues _ _ _)) (State.engineMoves_gathers _ _)
  exact (s.conditioned_gathers f slots).trans (hs.trans hd)

theorem State.settled_gathers (found : Option (SetNo × Route)) (d : Decision) :
    s.Gathers (s.settled f slots found d) := by
  have hp : s.Gathers (s.probeFrame f) := .of_kept (s.probeFrame_queues f)
  have ho : ∀ (u : State) (sum : Int), u.Gathers ((u.formOutput f.lane sum).engineMoves slots.afterProbe) :=
    fun u sum => .trans (.of_kept (u.formOutput_queues _ _)) (State.engineMoves_gathers _ _)
  have ha : ∀ (u : State) (probed : Bool),
      u.Gathers ((u.adaptFrame f found d probed).engineMoves slots.afterAdaptation) :=
    fun u _ => .trans (.of_kept (u.adaptFrame_queues _ _ _ _)) (State.engineMoves_gathers _ _)
  exact hp.trans ((ho _ _).trans ((ha _ _).trans (.of_kept (State.checkFault_queues _ _))))

theorem State.completed_gathers : s.Gathers (s.completed f slots) :=
  (s.decided_gathers f slots).trans (State.settled_gathers _ _ _ _ _)

theorem State.completed_outside :
    (s.completed f slots).pending = s.pending ∧ (s.completed f slots).link = s.link := by
  simp [State.completed, State.settled, State.decided, State.selected, State.conditioned]

/-- From the conditioner's part to the probe the lane's mode and campaign stand. -/
theorem State.decided_sameRun (k : Lane) : (s.conditioned f slots).SameRun (s.decided f slots).1 k :=
  (((State.selectFrame_sameRun _ f k).trans (State.engineMoves_sameRun _ k _)).trans
    (State.decideFrame_sameRun _ f _ k)).trans (State.engineMoves_sameRun _ k _)

/-! ### The lane when the set is selected -/

/-- The verdict on the frame's wedge index is a slip (R120). -/
def State.Slips : Prop :=
  ∃ d, wedgeVerdict (s.lane f.lane).control.wedgesPerRev (s.lane f.lane).control.expectation f.wedge.toNat = .slip d

variable {s f}

theorem State.conditioned_campaign (h : (s.lane f.lane).control.mode = .running → ¬s.Slips f) :
    ((s.conditioned f slots).lane f.lane).campaign = (s.lane f.lane).campaign := by
  rw [State.conditioned, (State.engineMoves_sameRun _ _ _).campaign, (State.conditionFrame_lane _ _ _ _).1,
    (State.engineMoves_sameRun _ _ _).campaign]
  exact (State.judgeWedge_keeps f.wedge h).2

theorem State.conditioned_mode (hm : (s.lane f.lane).control.mode ≠ .priming)
    (h : (s.lane f.lane).control.mode = .running → ¬s.Slips f) :
    ((s.conditioned f slots).lane f.lane).control.mode = (s.lane f.lane).control.mode := by
  have hj := (State.engineMoves_sameRun (s.judgeWedge f.lane f.wedge).1 f.lane slots.afterLaneControl).control
  have hmode := (State.judgeWedge_keeps f.wedge h).1
  rw [← hj] at hmode
  rw [State.conditioned, (State.engineMoves_sameRun _ _ _).control, State.conditionFrame_mode _ _ (hmode ▸ hm), hmode]

/-- A slip leaves a lane that was RUNNING in PRIMING, without a RUNNING campaign (R107, R122). -/
theorem State.conditioned_of_slip (hm : (s.lane f.lane).control.mode = .running) (h : s.Slips f) :
    ((s.conditioned f slots).lane f.lane).control.mode = .priming
      ∧ ((s.conditioned f slots).lane f.lane).campaign.state ≠ .running := by
  obtain ⟨d, hv⟩ := h
  obtain ⟨hverdict, hmode, hfill, hcampaign⟩ := State.judgeWedge_slips hm hv
  have hj := State.engineMoves_sameRun (s.judgeWedge f.lane f.wedge).1 f.lane slots.afterLaneControl
  rw [← hj.control] at hmode hfill
  rw [← hj.campaign] at hcampaign
  rw [State.conditioned, hverdict, (State.engineMoves_sameRun _ _ _).control,
    (State.engineMoves_sameRun _ _ _).campaign, (State.conditionFrame_lane _ _ _ _).1]
  exact ⟨State.conditionFrame_mode_of_slip d f.input hmode hfill, hcampaign⟩

/-! ### The decision and the probe value -/

/-- BYPASS and DIAG correct nothing (R57, R60). -/
theorem State.decideFrame_zero (s : State) (found : Option (SetNo × Route))
    (h : (s.decideFrame f found).2.status = .bypass ∨ (s.decideFrame f found).2.status = .diag) :
    (s.decideFrame f found).2.correction = 0 := by
  revert h
  simp only [State.decideFrame]
  split_ifs
  · exact fun _ => rfl
  · exact fun _ => rfl
  · exact fun _ => rfl
  · split
    · exact fun _ => rfl
    · exact fun _ => rfl
    · exact fun h => by simp [State.heldFrame, Decision.plain] at h
    · unfold State.computeCorrection
      split
      · split
        · exact fun h => by simp [State.applyTaps] at h
        · exact fun _ => rfl
      · exact fun _ => rfl

theorem State.stepsProbe_eq (s : State) (f : ServoFields) :
    s.stepsProbe f =
      decide ((s.lane f.lane).control.mode = .running ∧ f.mode = .track
        ∧ (s.lane f.lane).campaign.state = .running) := by
  simp only [State.stepsProbe, Bool.decide_and, Bool.and_assoc]

theorem State.frameProbe_of_not_stepped
    (h : ¬((s.lane f.lane).control.mode = .running ∧ f.mode = .track ∧ (s.lane f.lane).campaign.state = .running)) :
    s.frameProbe f = 0 :=
  if_neg (by rwa [State.stepsProbe_eq, decide_eq_true_eq])

theorem State.frameProbe_of_stepped
    (h : (s.lane f.lane).control.mode = .running ∧ f.mode = .track ∧ (s.lane f.lane).campaign.state = .running) :
    s.frameProbe f =
      probeValue (probeFeedback (s.lane f.lane).campaign.generator) (s.lane f.lane).campaign.amplitude :=
  if_pos (by rwa [State.stepsProbe_eq, decide_eq_true_eq])

/-- The sign of a step in the places of the generator's value (R99). -/
theorem probeValue_feedback (g amplitude : Nat) :
    probeValue (probeFeedback g) amplitude =
      if g / 64 % 2 ≠ g / 32 % 2 then (amplitude : Int) else -(amplitude : Int) := by
  have hfeedback : probeFeedback g = true ↔ g / 64 % 2 ≠ g / 32 % 2 := by
    simp only [probeFeedback, Nat.testBit_eq_decide_div_mod_eq, bne_iff_ne, ne_eq, decide_eq_decide]
    omega
  simp only [probeValue, hfeedback]

/-- A lane that is not RUNNING when the set is selected is BYPASS, without a probe value (R55, R101). -/
theorem State.decided_not_running (h : ((s.conditioned f slots).lane f.lane).control.mode ≠ .running) :
    (s.decided f slots).2.status = .bypass ∧ (s.decided f slots).1.frameProbe f = 0 := by
  have hs : ((s.selected f slots).1.lane f.lane).control.mode ≠ .running := by
    rw [State.selected, (State.engineMoves_sameRun _ _ _).control, (State.selectFrame_sameRun _ f _).control]
    exact h
  refine ⟨?_, State.frameProbe_of_not_stepped fun hr => ?_⟩
  · rw [State.decided, State.decideFrame_not_running hs]
    rfl
  · rw [(s.decided_sameRun f slots f.lane).control] at hr
    exact h hr.1

/-- A lane in OFF, STANDBY or FAULT is BYPASS (R55). -/
theorem State.decided_at_rest
    (h : (s.lane f.lane).control.mode = .off ∨ (s.lane f.lane).control.mode = .standby
      ∨ (s.lane f.lane).control.mode = .fault) :
    (s.decided f slots).2.status = .bypass := by
  have hr : (s.lane f.lane).control.mode ≠ .running := by rcases h with h | h | h <;> rw [h] <;> decide
  have hp : (s.lane f.lane).control.mode ≠ .priming := by rcases h with h | h | h <;> rw [h] <;> decide
  exact (State.decided_not_running slots (by rwa [State.conditioned_mode slots hp fun h => absurd h hr])).1

/-- A slip of a RUNNING lane makes the frame BYPASS, without a probe value (R101, R122). -/
theorem State.decided_of_slip (hm : (s.lane f.lane).control.mode = .running) (h : s.Slips f) :
    (s.decided f slots).2.status = .bypass ∧ (s.decided f slots).1.frameProbe f = 0 :=
  State.decided_not_running slots (by rw [(State.conditioned_of_slip slots hm h).1]; decide)

/-- Outside TRACK, and where no campaign is RUNNING when the frame comes, the probe value is 0 (R64, R101). -/
theorem State.decided_probe_zero (h : f.mode ≠ .track ∨ (s.lane f.lane).campaign.state ≠ .running) :
    (s.decided f slots).1.frameProbe f = 0 := by
  refine State.frameProbe_of_not_stepped ?_
  rintro ⟨-, ht, hr⟩
  rw [(s.decided_sameRun f slots f.lane).campaign] at hr
  by_cases hslip : (s.lane f.lane).control.mode = .running ∧ s.Slips f
  · exact (State.conditioned_of_slip slots hslip.1 hslip.2).2 hr
  · rw [State.conditioned_campaign slots fun hm hs => hslip ⟨hm, hs⟩] at hr
    exact h.elim (· ht) (· hr)

/-- A RUNNING lane whose wedge is accepted steps its RUNNING campaign in TRACK (R99, R101). -/
theorem State.decided_probe (hm : (s.lane f.lane).control.mode = .running) (h : ¬s.Slips f) (ht : f.mode = .track)
    (hr : (s.lane f.lane).campaign.state = .running) :
    (s.decided f slots).1.frameProbe f =
      if (s.lane f.lane).campaign.generator / 64 % 2 ≠ (s.lane f.lane).campaign.generator / 32 % 2 then
        ((s.lane f.lane).campaign.amplitude : Int)
      else -((s.lane f.lane).campaign.amplitude : Int) := by
  have hrun := s.decided_sameRun f slots f.lane
  have hcampaign := hrun.campaign.trans (State.conditioned_campaign slots fun _ => h)
  have hmode := (congrArg Control.mode hrun.control).trans
    (State.conditioned_mode slots (by rw [hm]; decide) fun _ => h)
  rw [State.frameProbe_of_stepped ⟨hmode.trans hm, ht, by rw [hcampaign, hr]⟩, hcampaign, probeValue_feedback]

end

/-! ### The frames sent (R135, R137 to R139) -/

/-- The ports when the drive frame and the return frame of a servo frame have been sent. -/
def State.framesSent (v : State) (l : Lane) (d : Decision) (wedge output : Word) : Ports :=
  { drive := v.ports.drive ++ [sealFrame [BitVec.ofNat 16 (l.toNat * 4 + d.status.code), wedge, output]]
    upstream := v.ports.upstream ++
      [sealFrame (BitVec.ofNat 16
          (16384 + l.toNat * 8192 + d.status.code * 2048 + (if v.notices.records = [] then 0 else 1024)
            + (v.responses.take 4).length * 64 + transferMarks (v.responses.take 4))
        :: wedge :: d.correction :: (v.responses.take 4).map QueuedWord.word)]
    driveBegun := true, upstreamBegun := true }

theorem returnWords_servo (l : Lane) (d : Decision) (q : NoticeQueue) (wedge : Word) (payload : List QueuedWord) :
    returnWords ⟨1, l, d.status, false, wedge, d.correction⟩ q.attention payload =
      sealFrame (BitVec.ofNat 16
          (16384 + l.toNat * 8192 + d.status.code * 2048 + (if q.records = [] then 0 else 1024) + payload.length * 64
            + transferMarks payload)
        :: wedge :: d.correction :: payload.map QueuedWord.word) := by
  have ha : (if q.attention = true then 1024 else 0) = if q.records = [] then 0 else 1024 := by
    unfold NoticeQueue.attention
    cases q.records <;> rfl
  simp only [returnWords, returnHeader, ha, natWord, Nat.one_mul, Nat.add_zero, Bool.false_eq_true, if_false]

/-- The two frames are sent, and the reception ends. -/
theorem State.answer_eq (v : State) (l : Lane) (d : Decision) (wedge output : Word) :
    ((v.sendDrive l d.status wedge output).sendReturn ⟨1, l, d.status, false, wedge, d.correction⟩).hold [] =
      { v with
        responses := v.responses.drop 4, ports := v.framesSent l d wedge output
        link := { receiving := [], frameTime := v.link.frameTime } } := by
  simp only [State.sendReturn, State.sendDrive, returnWords_servo, State.hold]
  rfl

/-! ### A lane fault neither reads the ports nor changes them (R71, R113) -/

section
variable (s : State) (l k : Lane) (st : OutStatus) (wedge output : Word)

theorem State.releaseCurrent_sendDrive :
    (s.sendDrive k st wedge output).releaseCurrent l = (s.releaseCurrent l).sendDrive k st wedge output := by
  unfold State.releaseCurrent
  rw [State.sendDrive_lane]
  split
  · rw [State.sendDrive_record]
    split <;> cases l <;> rfl
  · cases l <;> rfl

theorem State.cancelWindow_sendDrive :
    (s.sendDrive k st wedge output).cancelWindow l = (s.cancelWindow l).sendDrive k st wedge output := by
  unfold State.cancelWindow
  rw [State.sendDrive_lane]
  split <;> cases l <;> rfl

theorem State.abortCampaign_sendDrive (d : Nat) :
    (s.sendDrive k st wedge output).abortCampaign l d = (s.abortCampaign l d).sendDrive k st wedge output := by
  unfold State.abortCampaign
  rw [State.sendDrive_lane]
  split <;> cases l <;> rfl

theorem State.onFilter_sendDrive (g : Filter → Filter) :
    (s.sendDrive k st wedge output).onFilter l g = (s.onFilter l g).sendDrive k st wedge output := by
  cases l <;> rfl

theorem State.onControl_sendDrive (g : Control → Control) :
    (s.sendDrive k st wedge output).onControl l g = (s.onControl l g).sendDrive k st wedge output := by
  cases l <;> rfl

theorem State.leaveRunning_sendDrive (d : Nat) (next : LaneMode) :
    (s.sendDrive k st wedge output).leaveRunning l d next =
      (s.leaveRunning l d next).sendDrive k st wedge output := by
  simp only [State.leaveRunning, State.releaseCurrent_sendDrive, State.onFilter_sendDrive, State.cancelWindow_sendDrive,
    State.abortCampaign_sendDrive, State.onControl_sendDrive]

theorem State.checkFault_sendDrive :
    (s.sendDrive k st wedge output).checkFault l = (s.checkFault l).sendDrive k st wedge output := by
  have hf : (s.sendDrive k st wedge output).faultLane l = (s.faultLane l).sendDrive k st wedge output := by
    unfold State.faultLane
    rw [← State.leaveRunning_sendDrive]
    cases l <;> rfl
  unfold State.checkFault
  rw [State.sendDrive_lane, hf]
  split <;> rfl
end

/-! ### The frame as its row handles it -/

/-- A servo frame is its stages, then its two frames: the drive frame may as well leave after the lane fault. -/
theorem State.servoFrame_eq (s : State) (f : ServoFields) (slots : EngineSlots) :
    s.servoFrame f slots =
      ((s.countFrame.completed f slots).sendDrive f.lane (s.countFrame.decided f slots).2.status f.wedge
          (sat16 (outputSum f.input (s.countFrame.decided f slots).2.correction
            ((s.countFrame.decided f slots).1.frameProbe f)))).sendReturn
        ⟨1, f.lane, (s.countFrame.decided f slots).2.status, false, f.wedge,
          (s.countFrame.decided f slots).2.correction⟩ := by
  rw [State.servoFrame, State.lanePath_eq]
  dsimp only [State.actOn, State.completed, State.settled, State.decided]
  rw [State.checkFault_sendDrive]

/-- What a valid servo frame makes of the state (R134, R135, R137). -/
theorem State.downstream_servo {words : List Word} {f : ServoFields} {c : State} (h : receive words = .servo f)
    (hc : (s.hold words).countFrame = c) (slots : EngineSlots) :
    s.downstream words slots =
      { c.completed f slots with
        responses := (c.completed f slots).responses.drop 4
        ports :=
          (c.completed f slots).framesSent f.lane (c.decided f slots).2 f.wedge
            (sat16 (outputSum f.input (c.decided f slots).2.correction ((c.decided f slots).1.frameProbe f)))
        link := { receiving := [], frameTime := (c.completed f slots).link.frameTime } } := by
  subst hc
  rw [State.downstream, h]
  dsimp only
  rw [State.servoFrame_eq]
  exact State.answer_eq _ _ _ _ _

/-- Settles O43: the stages of the frame, what they leave of ports, queues and the frame's lane, and the engine's
rows. -/
theorem servoFrame : Obligations.ServoFrame := by
  refine ⟨fun words f slots s hw => ?_, fun u k => ?_⟩
  · intro x accepted
    have hl : (s.hold words).countFrame.lane f.lane = x := State.lane_congr f.lane (by simp) (by simp)
    have hlink : (s.hold words).countFrame.link = ⟨words, s.link.frameTime + 1⟩ := by
      rw [State.countFrame_eq]; rfl
    obtain ⟨hpending, -, -, -, hresponses, -, hports⟩ := (s.hold words).countFrame_outside
    generalize hc : (s.hold words).countFrame = c at hl hlink hpending hresponses hports
    have ht := State.downstream_servo hw hc slots
    have hslips : c.Slips f ↔ ¬accepted := by
      rw [State.Slips, hl]
      exact wedgeVerdict_slip_iff _ _ _
    obtain ⟨hvports, moved, hmoved⟩ := c.completed_gathers f slots
    obtain ⟨hvpending, hvlink⟩ := c.completed_outside f slots
    refine ⟨s.downstream words slots, (c.judgeWedge f.lane f.wedge).1, _, ((c.conditioned f slots).selectFrame f).1,
      ((c.selected f slots).1.decideFrame f (c.selected f slots).2).1, (c.decided f slots).1, c.completed f slots,
      (c.judgeWedge f.lane f.wedge).2, (c.selected f slots).2, (c.decided f slots).2,
      (c.decided f slots).1.frameProbe f, moved, rfl, congrArg (State.judgeWedge · f.lane f.wedge) hc, rfl, rfl, rfl,
      rfl, ⟨State.frameProbe_of_not_stepped, State.frameProbe_of_stepped, ?_, ?_, ?_⟩, ?_, ?_, rfl,
      State.decideFrame_zero _ _, fun h => ?_, fun hm hn => ?_, fun h => ?_, fun hm ha hmode hr => ?_⟩
    · rw [State.completed, State.settled, State.stepsProbe_eq]
      rfl
    · rw [ht, hvlink, hlink]
    · have hsat : ∀ sum : Int, sat16 sum = BitVec.ofInt 16 (max (-32768) (min 32767 sum)) := fun sum => by
        rw [sat16, min_comm]
      rw [ht]
      dsimp only [State.framesSent]
      rw [hvports, hports, hsat]
      rfl
    · rw [hmoved, hresponses]
      rfl
    · rw [ht]
      exact hvpending.trans hpending
    · exact State.decided_at_rest slots (by rwa [hl])
    · exact State.decided_of_slip slots (by rwa [hl]) (hslips.mpr hn)
    · exact State.decided_probe_zero slots (by rwa [hl])
    · rw [State.decided_probe slots (by rwa [hl]) (fun h => hslips.mp h ha) hmode (by rwa [hl]), hl]
  · obtain ⟨hidle, hcopy, hwords, hheader, htrailer, hexamine, hstalled⟩ := u.engineMoves_rows
    exact ⟨rfl, rfl, hidle, hcopy, hwords, hheader, htrailer, hexamine, hstalled⟩

end Sys2Proof.Machine
end

section
/-! SUPPORT. A word for a lane parameter (R84, R124, R125). -/

namespace Sys2Proof.Machine

variable {s : State} {l : Lane}

/-- Refused in PRIMING, RUNNING and FAULT (R124). -/
theorem State.writeLaneParam_refused (h : ¬(s.lane l).atRest) (p : LaneParam) (v : Word) :
    s.writeLaneParam l p v = (s, .refused .state) :=
  if_pos ((LaneMode.started_iff _).mpr h)

/-- Given to the parameter in OFF and STANDBY (R124). -/
theorem State.writeLaneParam_accepted (h : (s.lane l).atRest) (p : LaneParam) (v : Word) :
    s.writeLaneParam l p v = s.storeLaneParam l p v :=
  if_neg fun hm => (LaneMode.started_iff _).mp hm h

/-- A word for a numeric parameter is clamped to its range (R124). -/
theorem State.storeLaneParam_numeric {p : LaneParam} (h1 : p ≠ .seekFeedForward) (h2 : p ≠ .adaptMode) (v : Word) :
    s.storeLaneParam l p v = (s.storeNumeric l p (laneParamKeep p v), .ofClamp v.toNat (laneParamKeep p v)) := by
  cases p with
  | seekFeedForward => exact absurd rfl h1
  | adaptMode => exact absurd rfl h2
  | _ => rfl

theorem clampNat_eq (lo hi x : Nat) : clampNat lo hi x = max lo (min hi x) := by rw [clampNat, min_comm]

/-- A numeric parameter written at rest: the value kept is the nearest of its range, and the word is reported when it lay
outside (R124, R152). -/
theorem State.reportLaneParam_numeric {p : LaneParam} (h1 : p ≠ .seekFeedForward) (h2 : p ≠ .adaptMode) (v : Word) :
    (s.storeLaneParam l p v).1.report (Tally.count ⟨0, 0⟩ (s.storeLaneParam l p v).2) =
      (s.storeNumeric l p (max (laneParamRange p).1 (min (laneParamRange p).2 v.toNat))).reported 0
        (if v.toNat < (laneParamRange p).1 ∨ (laneParamRange p).2 < v.toNat then 1 else 0) := by
  have hr : (laneParamRange p).1 ≤ (laneParamRange p).2 := by cases p <;> decide
  rw [State.storeLaneParam_numeric h1 h2, State.report_ofClamp, laneParamKeep, clampNat_eq]
  congr 1
  split_ifs <;> omega

/-- Seek feed-forward takes 0 and 1 and refuses any other word (R124). -/
theorem State.reportLaneParam_seekFeedForward (v : Word) :
    (s.storeLaneParam l .seekFeedForward v).1.report (Tally.count ⟨0, 0⟩ (s.storeLaneParam l .seekFeedForward v).2) =
      if v.toNat ≤ 1 then s.onControl l fun c => { c with seekFeedForward := decide (v.toNat = 1) }
      else s.reported 1 0 := by
  simp only [State.storeLaneParam]
  by_cases h : v.toNat ≤ 1
  · simp only [if_pos h]
    exact State.report_stored _
  · simp only [if_neg h]
    rw [State.report_refused, State.reported_refused]

/-- An adaptation mode word is 0, 1 or 2 (R84). -/
theorem adaptModeOf_eq (n : Nat) :
    adaptModeOf n = if n ≤ 2 then some (if n = 0 then .off else if n = 1 then .free else .window) else none := by
  match n with
  | 0 => rfl
  | 1 => rfl
  | 2 => rfl
  | n + 3 => rw [if_neg (by omega)]; rfl

/-- The adaptation mode takes 0, 1 and 2 and refuses any other word (R84). -/
theorem State.reportLaneParam_adaptMode (v : Word) :
    (s.storeLaneParam l .adaptMode v).1.report (Tally.count ⟨0, 0⟩ (s.storeLaneParam l .adaptMode v).2) =
      if v.toNat ≤ 2 then
        s.onAdapt l fun x => { x with mode := if v.toNat = 0 then .off else if v.toNat = 1 then .free else .window }
      else s.reported 1 0 := by
  simp only [State.storeLaneParam, adaptModeOf_eq]
  by_cases h : v.toNat ≤ 2
  · simp only [if_pos h]
    exact State.report_stored _
  · simp only [if_neg h]
    rw [State.report_refused, State.reported_refused]

/-- Settles O9, by the owner's outcome for each parameter and the report of it. -/
theorem laneParameterWrite : Obligations.LaneParameterWrite := by
  intro l v s hr
  have row : ∀ p : LaneParam, exec (.laneParameterWrite l p v) s =
      .next ((s.writeLaneParam l p v).1.report (Tally.count ⟨0, 0⟩ (s.writeLaneParam l p v).2)) := fun p =>
    congrArg Host.Outcome.next (State.manageWrite_eq hr _)
  refine ⟨fun h p => ?_, fun h => ?_⟩
  · rw [row, State.writeLaneParam_refused h, State.report_refused, State.reported_refused]
  have take : ∀ p : LaneParam, exec (.laneParameterWrite l p v) s =
      .next ((s.storeLaneParam l p v).1.report (Tally.count ⟨0, 0⟩ (s.storeLaneParam l p v).2)) := fun p => by
    rw [row, State.writeLaneParam_accepted h]
  have numeric : ∀ p : LaneParam, p ≠ .seekFeedForward → p ≠ .adaptMode → exec (.laneParameterWrite l p v) s =
      .next ((s.storeNumeric l p (max (laneParamRange p).1 (min (laneParamRange p).2 v.toNat))).reported 0
        (if v.toNat < (laneParamRange p).1 ∨ (laneParamRange p).2 < v.toNat then 1 else 0)) := fun p h1 h2 => by
    rw [take, State.reportLaneParam_numeric h1 h2]
  have from_one : v.toNat < 1 ↔ v.toNat = 0 := Nat.lt_one_iff
  refine ⟨?_, ?_, ?_, ?_, ?_, ?_, ?_⟩
  · simpa [laneParamRange, State.storeNumeric] using numeric .alignment (by decide) (by decide)
  · simpa only [laneParamRange, State.storeNumeric, from_one] using numeric .wedgesPerRev (by decide) (by decide)
  · rw [take, State.reportLaneParam_seekFeedForward]
  · rw [take, State.reportLaneParam_adaptMode]
  · simpa [laneParamRange, State.storeNumeric] using numeric .pesGate (by decide) (by decide)
  · simpa only [laneParamRange, State.storeNumeric, from_one] using numeric .staleLimit (by decide) (by decide)
  · simpa [laneParamRange, State.storeNumeric] using numeric .holdLength (by decide) (by decide)

end Sys2Proof.Machine
end

section
/-! SUPPORT. ADAPT WINDOW (R87), PROBE START (R97, R98) and PROBE STOP (R106). -/

namespace Sys2Proof.Machine

variable {s : State} {l : Lane}

/-- A decoder without a pending command has none to clear (R148). -/
theorem State.clearCommand_of_none (hc : s.decoder.command = none) (ha : s.decoder.age = 0) : s.clearCommand = s := by
  simp only [State.clearCommand, ← hc, ← ha]

/-! ## The rows as their commands' own rules -/

/-- ADAPT WINDOW by itself, in a frame of its own. -/
theorem execAdaptWindow_eq (h : s.accepts 2) (n : Word) :
    exec (.adaptWindow l n) s =
      .next ((s.adaptWindow l n).1.answered 12 (s.adaptWindow l n).2.result.code (s.adaptWindow l n).2.words) := by
  obtain ⟨hc, ha, hr⟩ := h
  refine congrArg Host.Outcome.next ((State.command_one l hc hr 12#6 rfl 0 n).trans ?_)
  rw [State.clearCommand_of_none hc ha, State.execCommand_served _ _ _ _ _ (Nat.zero_le _)]
  exact State.respond_eq _ _

/-- PROBE START by itself, in a frame of its own, which leaves room for its one data word (R157). -/
theorem execProbeStart_eq (h : s.accepts 3) (n a : Word) :
    exec (.probeStart l n a) s =
      .next ((s.probeStart l n a).1.answered 13 (s.probeStart l n a).2.result.code (s.probeStart l n a).2.words) := by
  obtain ⟨hc, ha, hr⟩ := h
  have hroom : s.dataNeed ⟨13#6, l, 0⟩ ≤ s.roomAvailable 0 false := by
    show 1 ≤ 32 - s.responses.length - 1
    omega
  refine congrArg Host.Outcome.next ((State.command_two l hc hr 13#6 rfl 0 n a).trans ?_)
  rw [State.clearCommand_of_none hc ha, State.execCommand_served _ _ _ _ _ hroom]
  exact State.respond_eq _ _

/-- PROBE STOP by itself, in a frame of its own. -/
theorem execProbeStop_eq (h : s.accepts 1) :
    exec (.probeStop l) s =
      .next ((s.probeStop l).1.answered 14 (s.probeStop l).2.result.code (s.probeStop l).2.words) := by
  obtain ⟨hc, -, hr⟩ := h
  refine congrArg Host.Outcome.next ((State.command_bare l hc hr 14#6 rfl 0).trans ?_)
  rw [State.execCommand_served _ _ _ _ _ (Nat.zero_le _)]
  exact State.respond_eq _ _

/-! ## The checks in their order -/

theorem State.adaptWindow_range {n : Word} (h : n.toNat = 0) : s.adaptWindow l n = (s, .bare .range) := if_pos h

theorem State.adaptWindow_state {n : Word} (h : n.toNat ≠ 0)
    (hm : ¬((s.lane l).control.mode = .running ∧ (s.lane l).adapt.mode = .window)) :
    s.adaptWindow l n = (s, .bare .state) :=
  (if_neg h).trans (if_pos (not_and_or.mp hm))

/-- With its length and the lane's state in order, the window opens unless one is open (R87). -/
theorem State.adaptWindow_ready {n : Word} (h : n.toNat ≠ 0)
    (hm : (s.lane l).control.mode = .running ∧ (s.lane l).adapt.mode = .window) :
    s.adaptWindow l n =
      if 0 < (s.lane l).adapt.window then (s, .bare .busy)
      else (s.onAdapt l fun x => { x with window := n.toNat }, .bare .ok) :=
  (if_neg h).trans (if_neg (not_or.mpr ⟨not_not.mpr hm.1, not_not.mpr hm.2⟩))

theorem State.probeStart_range {n a : Word} (h : n.toNat = 0) : s.probeStart l n a = (s, .bare .range) := if_pos h

theorem State.probeStart_state {n a : Word} (h : n.toNat ≠ 0) (hm : (s.lane l).control.mode ≠ .running) :
    s.probeStart l n a = (s, .bare .state) :=
  (if_neg h).trans (if_pos hm)

/-- With its length and the lane's state in order, the campaign starts unless one is RUNNING (R97, R98). -/
theorem State.probeStart_ready {n a : Word} (h : n.toNat ≠ 0) (hm : (s.lane l).control.mode = .running) :
    s.probeStart l n a =
      if (s.lane l).campaign.state = .running then (s, .bare .busy)
      else
        (s.onCampaign l fun _ => Campaign.started n.toNat (clampAmplitude a), ⟨.ok, [natWord (clampAmplitude a)]⟩) :=
  (if_neg h).trans (if_neg (not_not.mpr hm))

/-- The amplitude is the argument's nearest value of 0 to 4095 (R97). -/
theorem clampAmplitude_eq (a : Word) : clampAmplitude a = min 4095 (max 0 a.toInt).toNat := by
  simp only [clampAmplitude, clampInt]; omega

/-- Settles O26, by each command's own rule and its checks in order. -/
theorem windowAndProbeCommands : Obligations.WindowAndProbeCommands := by
  intro l n a s
  refine ⟨fun h => ?_, fun h => ?_, fun h => ?_⟩
  · intro ready
    rw [execAdaptWindow_eq h]
    refine ⟨fun h0 => ?_, fun h0 hm => ?_, fun h0 hm hw => ?_, fun h0 hm hw => ?_⟩
    · rw [State.adaptWindow_range h0]; rfl
    · rw [State.adaptWindow_state h0 hm]; rfl
    · rw [State.adaptWindow_ready h0 hm, if_pos hw]; rfl
    · rw [State.adaptWindow_ready h0 hm, if_neg (by omega)]; rfl
  · intro pa
    have hpa : clampAmplitude a = pa := clampAmplitude_eq a
    rw [execProbeStart_eq h]
    refine ⟨fun h0 => ?_, fun h0 hm => ?_, fun h0 hm hc => ?_, fun h0 hm hc => ?_⟩
    · rw [State.probeStart_range h0]; rfl
    · rw [State.probeStart_state h0 hm]; rfl
    · rw [State.probeStart_ready h0 hm, if_pos hc]; rfl
    · rw [State.probeStart_ready h0 hm, if_neg hc, hpa]; rfl
  · rw [execProbeStop_eq h]
    refine ⟨fun hc => ?_, fun hc => ?_⟩
    · have hstop : s.probeStop l = (s.abortCampaign l 0, .bare .ok) := if_pos hc
      have habort : s.abortCampaign l 0 =
          (s.onCampaign l fun x => { x with state := .aborted }).notify .probeAborted (some l) 0 := if_pos hc
      rw [hstop, habort]; rfl
    · have hstop : s.probeStop l = (s, .bare .state) := if_neg hc
      rw [hstop]; rfl

end Sys2Proof.Machine
end

section
/-! SUPPORT. Adaptation: its gate, its reads with and without a double error, the update of the taps in use, and what an
adapted frame makes of its lane, its set and the notices (R75 to R83, R86, R91 to R93). -/

namespace Sys2Proof.Machine

variable {s t u : State} {l : Lane} {n : SetNo}

/-! ## The gate (R75) -/

/-- The frame may be adapted in set `n`, MU apart (R75). -/
def State.Adapts (s : State) (f : ServoFields) (found : Option (SetNo × Route)) (st : OutStatus) (probed : Bool)
    (n : SetNo) : Prop :=
  let x := s.lane f.lane
  x.control.mode = .running ∧ f.mode = .track ∧ st = .fresh ∧ found = some (n, .primary)
    ∧ x.selection.current = some n ∧ (s.record n).state = .live ∧ (s.record n).frozen = false
    ∧ (s.record n).hold = .none ∧ x.reference.settle = 0 ∧ |f.pes.toInt| ≤ x.adapt.pesGate ∧ probed = false
    ∧ (x.adapt.mode = .free ∨ x.adapt.mode = .window ∧ 0 < x.adapt.window)

theorem State.adapts_iff {f : ServoFields} {st : OutStatus} {probed : Bool} :
    s.Adapts f (some (n, .primary)) st probed n ↔ (s.laneAdapts f st probed && s.setAdapts f.lane n) = true := by
  simp only [State.Adapts, State.laneAdapts, State.setAdapts, Bool.and_eq_true, Bool.or_eq_true, decide_eq_true_eq,
    Bool.not_eq_true']
  tauto

/-- A frame adapted in WINDOW mode has an open window (R75, R86). -/
theorem State.Adapts.window_open {f : ServoFields} {found : Option (SetNo × Route)} {st : OutStatus} {probed : Bool}
    (h : s.Adapts f found st probed n) (hm : (s.lane f.lane).adapt.mode = .window) : 0 < (s.lane f.lane).adapt.window := by
  obtain ⟨-, -, -, -, -, -, -, -, -, -, -, hfree | ⟨-, hopen⟩⟩ := h
  · rw [hfree] at hm
    cases hm
  · exact hopen

theorem State.adaptFrame_of_adapts {f : ServoFields} {found : Option (SetNo × Route)} {d : Decision} {probed : Bool}
    (h : s.Adapts f found d.status probed n) :
    s.adaptFrame f found d probed = s.adaptSet f.lane n d.refTaps d.sibTaps f.pes.toInt := by
  obtain ⟨-, -, -, rfl, -⟩ := id h
  exact if_pos (State.adapts_iff.mp h)

theorem State.adaptFrame_of_not_adapts {f : ServoFields} {found : Option (SetNo × Route)} {d : Decision} {probed : Bool}
    (h : ∀ n, ¬s.Adapts f found d.status probed n) : s.adaptFrame f found d probed = s := by
  unfold State.adaptFrame
  split
  · exact if_neg fun hg => h _ (State.adapts_iff.mpr hg)
  · rfl

/-! ## The words that adaptation reads (R76) -/

/-- MU, LK, SD, SG, WL and DL, then the taps in use. -/
def adaptWords (tr ts : Nat) : List Nat :=
  [4, 5, 6, 7, 8, 9] ++ (List.range tr).map (10 + ·) ++ (List.range ts).map (42 + ·)

theorem adaptWords_eq (tr ts : Nat) : adaptWords tr ts = 4 :: ([5, 6, 7, 8, 9] ++ usedTapWords tr ts) := by
  have hadd : ∀ c k : Nat, (List.range k).map (c + ·) = (List.range k).map (· + c) := fun c k =>
    List.map_congr_left fun i _ => Nat.add_comm c i
  rw [adaptWords, hadd, hadd, List.append_assoc]
  rfl

theorem mem_adaptWords {tr ts w : Nat} :
    w ∈ adaptWords tr ts ↔ (4 ≤ w ∧ w < 10) ∨ w ∈ usedTapWords tr ts := by
  simp only [adaptWords_eq, List.mem_cons, List.mem_append, List.not_mem_nil, or_false]
  constructor
  · rintro (h | h | h)
    · exact .inl (by omega)
    · exact .inl (by omega)
    · exact .inr h
  · rintro (h | h)
    · by_cases h4 : w = 4
      · exact .inl h4
      · exact .inr (.inl (by omega))
    · exact .inr (.inr h)

theorem adaptWords_nodup {tr : Nat} (h : tr ≤ 32) (ts : Nat) : (adaptWords tr ts).Nodup := by
  have htaps : (usedTapWords tr ts).Nodup := by
    have := filterWords_nodup h ts
    rw [filterWords_eq] at this
    exact this.of_append_right
  have hsplit : adaptWords tr ts = [4, 5, 6, 7, 8, 9] ++ usedTapWords tr ts := adaptWords_eq tr ts
  rw [hsplit]
  refine List.nodup_append'.mpr ⟨by decide, htaps, fun w h1 h2 => ?_⟩
  have hlow : ∀ v ∈ [4, 5, 6, 7, 8, 9], v < 10 := by decide
  have := hlow w h1
  rw [mem_usedTapWords] at h2
  omega

/-! ## The reads in one (R76, R83) -/

/-- A read without a double error gives the word's value. -/
theorem State.readWord_value {w : Nat} {v : Word} (h : s.readWord n w = (t, some v)) : v = (s.cell n w).value := by
  unfold State.readWord Cell.finding at h
  rcases hf : (s.cell n w).flipped with _ | ⟨p, _ | ⟨q, ps⟩⟩ <;> rw [hf] at h <;> cases h <;> rfl

/-- Reads without a double error give as many values. -/
theorem State.readUntilDouble_length {ws : List Nat} {vs : List Word} (h : s.readUntilDouble n ws = (t, some vs)) :
    vs.length = ws.length := by
  induction ws generalizing s vs with
  | nil => cases h; rfl
  | cons w ws ih =>
    rcases hw : s.readWord n w with ⟨s1, _ | v⟩
    · rw [State.readUntilDouble_cons_none hw] at h
      cases h
    · rw [State.readUntilDouble_cons_some hw] at h
      obtain ⟨rfl, h2⟩ := Prod.mk.inj h
      obtain ⟨vs', hvs, rfl⟩ := Option.map_eq_some_iff.mp h2
      exact congrArg (· + 1) (ih (Prod.ext rfl hvs))

/-- Reads that end at a double error end among the first words or among the rest. -/
theorem State.readUntilDouble_append_none {a b : List Nat} (h : s.readUntilDouble n (a ++ b) = (t, none)) :
    s.readUntilDouble n a = (t, none)
      ∨ ∃ s1 va, s.readUntilDouble n a = (s1, some va) ∧ s1.readUntilDouble n b = (t, none) := by
  induction a generalizing s with
  | nil => exact .inr ⟨s, [], rfl, h⟩
  | cons w a ih =>
    rcases hw : s.readWord n w with ⟨s1, _ | v⟩
    · rw [List.cons_append, State.readUntilDouble_cons_none hw] at h
      exact .inl (by rw [State.readUntilDouble_cons_none hw, h])
    · rw [List.cons_append, State.readUntilDouble_cons_some hw] at h
      obtain ⟨rfl, h2⟩ := Prod.mk.inj h
      rw [State.readUntilDouble_cons_some hw]
      refine (ih (Prod.ext rfl (Option.map_eq_none_iff.mp h2))).imp (fun ha => by rw [ha]; rfl) ?_
      rintro ⟨s2, va, ha, hb⟩
      exact ⟨s2, v :: va, by rw [ha]; rfl, hb⟩

theorem State.adaptSet_of_mu_double {tr ts : Nat} {e : Int} (h : s.readWord n 4 = (t, none)) :
    s.adaptSet l n tr ts e = t := by
  simp only [State.adaptSet, h]

theorem State.adaptSet_of_mu_zero {tr ts : Nat} {e : Int} (h : s.readWord n 4 = (t, some 0)) :
    s.adaptSet l n tr ts e = t := by
  simp only [State.adaptSet, h, if_true]

/-- With MU above 0, a double error in a word that adaptation reads abandons the update (R83). -/
theorem State.adaptSet_of_double {tr ts : Nat} {e : Int} (hmu : (s.cell n 4).value ≠ 0)
    (h : s.readUntilDouble n (adaptWords tr ts) = (t, none)) : s.adaptSet l n tr ts e = t := by
  rw [adaptWords_eq] at h
  rcases hw : s.readWord n 4 with ⟨s1, _ | mu⟩
  · rw [State.readUntilDouble_cons_none hw] at h
    rw [State.adaptSet_of_mu_double hw]
    exact congrArg Prod.fst h
  · obtain rfl := State.readWord_value hw
    rw [State.readUntilDouble_cons_some hw] at h
    obtain ⟨rfl, h2⟩ := Prod.mk.inj h
    simp only [State.adaptSet, hw, if_neg hmu]
    rcases State.readUntilDouble_append_none (Prod.ext rfl (Option.map_eq_none_iff.mp h2)) with h3 | ⟨s2, va, h3, h4⟩
    · simp only [h3]
    · obtain ⟨lk, sd, sg, wl, dl, rfl⟩ : ∃ lk sd sg wl dl : Word, va = [lk, sd, sg, wl, dl] := by
        match va, State.readUntilDouble_length h3 with
        | [_, _, _, _, _], _ => exact ⟨_, _, _, _, _, rfl⟩
      simp only [h3, h4]

/-- The header words of a set that adaptation uses. -/
def State.adaptHeader (s : State) (n : SetNo) : AdaptHeader :=
  ⟨(s.cell n 4).value, (s.cell n 5).value, (s.cell n 6).value, (s.cell n 7).value, (s.cell n 8).value, (s.cell n 9).value⟩

/-- With MU above 0, reads without a double error give the update of the words as they stood. -/
theorem State.adaptSet_of_reads {tr ts : Nat} {e : Int} (hmu : (s.cell n 4).value ≠ 0)
    (h : s.readUntilDouble n (adaptWords tr ts) = (t, some ((adaptWords tr ts).map fun w => (s.cell n w).value))) :
    s.adaptSet l n tr ts e =
      t.adaptTaps l n tr ts e (s.adaptHeader n) ((usedTapWords tr ts).map fun w => (s.cell n w).value) := by
  rw [adaptWords_eq, ← List.singleton_append, List.map_append] at h
  obtain ⟨s1, h1, h⟩ := State.readUntilDouble_append_some (by simp) h
  rw [List.map_append] at h
  obtain ⟨s2, h2, h3⟩ := State.readUntilDouble_append_some (by simp) h
  rcases hw : s.readWord n 4 with ⟨s0, _ | mu⟩
  · rw [State.readUntilDouble_cons_none hw] at h1
    cases h1
  · obtain rfl := State.readWord_value hw
    rw [State.readUntilDouble_cons_some hw] at h1
    obtain rfl : s0 = s1 := congrArg Prod.fst h1
    simp only [State.adaptSet, hw, if_neg hmu, h2, List.map_cons, List.map_nil, h3]
    rfl

/-! ## The abandoned update (R83) -/

@[simp] theorem Cell.afterRead_afterRead (c : Cell) : c.afterRead.afterRead = c.afterRead := by
  unfold Cell.afterRead
  split_ifs <;> simp_all

/-- From `s` to `u` no transfer came to wait on set `n`, and every stored word is as it was or corrected. -/
structure State.OnlyCorrects (s : State) (n : SetNo) (u : State) : Prop where
  wf : u.bankWf
  not_waiting : ¬(u.transfer.state = .waiting ∧ u.transfer.current = some n)
  word : ∀ a, u.bankAt a = s.bankAt a ∨ u.bankAt a = (s.bankAt a).afterRead

/-- A double error in a set that no transfer waits on changes no word and leaves the transfer record. -/
theorem State.doubleError_words (h : ¬(s.transfer.state = .waiting ∧ s.transfer.current = some n)) :
    (s.doubleError n).bank.words = s.bank.words ∧ (s.doubleError n).transfer = s.transfer := by
  unfold State.doubleError
  split
  · exact ⟨rfl, rfl⟩
  · exact ⟨rfl, rfl⟩
  · rw [State.quarantine_eq (by exact h)]
    simp only [State.dropCurrentIf_outside, State.notify_bank, State.notify_transfer, State.setSetState_transfer,
      and_true]
    rfl

theorem State.OnlyCorrects.readWord (h : s.OnlyCorrects n u) (w : Nat) : s.OnlyCorrects n (u.readWord n w).1 := by
  obtain ⟨hwf, hw, hword⟩ := h
  unfold State.readWord
  split
  · exact ⟨hwf, hw, hword⟩
  · rename_i v hf
    have hc : (u.bankAt (n.val * 64 + w)).afterRead = ⟨v, []⟩ := by
      rw [State.bankAt_cell]
      unfold Cell.finding at hf
      split at hf <;> cases hf
      simp [Cell.afterRead, *]
    refine ⟨Memory.write_wf hwf _ _, by simpa using hw, fun a => ?_⟩
    have hb : (u.correctWord n w v).bankAt a = if a = n.val * 64 + w then ⟨v, []⟩ else u.bankAt a :=
      Memory.read_write hwf _ _ _
    rw [hb]
    split
    · rename_i ha
      refine .inr ?_
      rw [ha, ← hc]
      rcases hword (n.val * 64 + w) with e | e <;> simp [e]
    · exact hword a
  · obtain ⟨hwords, ht⟩ := State.doubleError_words hw
    refine ⟨by rwa [State.bankWf, hwords], by rwa [ht], fun a => ?_⟩
    simp only [State.bankAt, hwords]
    exact hword a

/-- With a double error in MU, or with MU above 0 in another word that adaptation reads, the unit's part of the frame is
that double error's, after corrections at most (R83). -/
theorem State.adaptSet_doubleError {tr ts : Nat} {e : Int} (hs : s.bankWf)
    (hw : ¬(s.transfer.state = .waiting ∧ s.transfer.current = some n))
    (hd : 2 ≤ (s.cell n 4).flipped.length
      ∨ (s.cell n 4).value ≠ 0 ∧ ∃ w ∈ adaptWords tr ts, 2 ≤ (s.cell n w).flipped.length) :
    ∃ u, s.SameService u ∧ s.adaptSet l n tr ts e = u.doubleError n ∧ s.OnlyCorrects n (u.doubleError n) := by
  have h0 : s.OnlyCorrects n s := ⟨hs, hw, fun _ => .inl rfl⟩
  rcases hd with h4 | ⟨hmu, hd⟩
  · have hread := State.readWord_double h4
    refine ⟨s, .refl s, State.adaptSet_of_mu_double hread, ?_⟩
    have := h0.readWord 4
    rwa [hread] at this
  · obtain ⟨u, hu, hread⟩ := State.readUntilDouble_double hs hd
    refine ⟨u, hu, State.adaptSet_of_double hmu hread, ?_⟩
    have := s.readUntilDouble_induction n (P := s.OnlyCorrects n) (fun _ w h => h.readWord w) h0 (adaptWords tr ts)
    rwa [hread] at this

/-- A double error in a LIVE set that no transfer waits on changes the record of that set and no other (R36). -/
theorem State.doubleError_live_record (hl : (s.record n).state = .live)
    (hw : ¬(s.transfer.state = .waiting ∧ s.transfer.current = some n)) (m : SetNo) :
    (s.doubleError n).record m = if m = n then { s.record n with state := .quarantined } else s.record m := by
  rw [State.doubleError_quarantines (by rw [hl]; decide) (by rw [hl]; decide)]
  exact State.quarantine_record (by exact hw) m

/-- An abandoned update of a lane's LIVE current set: the set is QUARANTINED and counted once, the lane loses it, and no
word changes its value (R36, R51, R83). -/
theorem State.adaptSet_abandoned {tr ts : Nat} {e : Int} (hs : s.bankWf) (hlive : (s.record n).state = .live)
    (hcur : (s.lane l).selection.current = some n)
    (hw : ¬(s.transfer.state = .waiting ∧ s.transfer.current = some n))
    (hd : 2 ≤ (s.cell n 4).flipped.length
      ∨ (s.cell n 4).value ≠ 0 ∧ ∃ w ∈ adaptWords tr ts, 2 ≤ (s.cell n w).flipped.length) :
    ∃ t, s.adaptSet l n tr ts e = t ∧ t.lane l = (s.lane l).withoutSet
      ∧ (∀ m, t.record m = if m = n then { s.record n with state := .quarantined } else s.record m)
      ∧ t.counters.storageError = min 65535 (s.counters.storageError + 1)
      ∧ ∀ a, t.bankAt a = s.bankAt a ∨ t.bankAt a = (s.bankAt a).afterRead := by
  obtain ⟨u, hu, hread, hcorr⟩ := State.adaptSet_doubleError (l := l) (e := e) hs hw hd
  rw [← hu.transfer] at hw
  rw [← hu.record] at hlive
  rw [← hu.lane] at hcur
  obtain ⟨hlane, -, herr⟩ := State.doubleError_live hlive hcur hw
  refine ⟨_, hread, by rw [hlane, hu.lane], fun m => ?_, by rw [herr, hu.errors], hcorr.word⟩
  rw [State.doubleError_live_record hlive hw, hu.record, hu.record]

/-! ## The update of the taps (R79 to R81) -/

/-- The unclamped result of a tap `w` with its reference `h`, from the header words of set `n`: the tap less its leak and
the gradient step on the filtered reference. -/
def State.tapResult (s : State) (n : SetNo) (e w h : Int) : Int :=
  (if (s.wordInt n 5).toNat = 0 then w else w - w.tdiv (2 ^ (s.wordInt n 5).toNat))
    - (e * max (-32768) (min 32767 ((s.wordInt n 7 * h + 16384).fdiv 32768)) + 2 ^ (14 + (s.wordInt n 4).toNat)).fdiv
        (2 ^ (15 + (s.wordInt n 4).toNat))

/-- A result clamped to ±WL. -/
def State.tapLimited (s : State) (n : SetNo) (v : Int) : Int := max (-s.wordInt n 8) (min (s.wordInt n 8) v)

/-- The unclamped results of a reference tap and of a sibling tap of set `n` in lane `l`. -/
def State.refResult (s : State) (l : Lane) (n : SetNo) (e : Int) (k : Nat) : Int :=
  s.tapResult n e (s.wordInt n (10 + k))
    ((s.lane l).reference.ring.toList.getD ((s.lane l).control.alignment + (k + (s.wordInt n 6).toNat)) 0).toInt
def State.sibResult (s : State) (l : Lane) (n : SetNo) (e : Int) (j : Nat) : Int :=
  s.tapResult n e (s.wordInt n (42 + j)) ((s.lane l).reference.sibling.toList.getD (j + (s.wordInt n 6).toNat) 0).toInt

theorem filteredReference_eq (sg : Word) (h : Int) :
    filteredReference sg h = max (-32768) (min 32767 ((sg.toInt * h + 16384).fdiv 32768)) := by
  rw [filteredReference, sat16_toInt, roundHalfUp, min_comm, fdiv_of_pos _ (by decide)]
  rfl

theorem leaked_eq (lk : Word) (w : Int) :
    leaked lk w = if lk.toInt.toNat = 0 then w else w - w.tdiv (2 ^ lk.toInt.toNat) := by
  have hpos : 0 < lk.toInt ↔ ¬lk.toInt.toNat = 0 := by omega
  rw [leaked, if_congr hpos rfl rfl, ite_not]
  rfl

theorem gradientStep_eq (e x : Int) (mu : Word) :
    gradientStep e x mu = (e * x + 2 ^ (14 + mu.toInt.toNat)).fdiv (2 ^ (15 + mu.toInt.toNat)) := by
  have hp : 15 + mu.toInt.toNat - 1 = 14 + mu.toInt.toNat := by omega
  rw [gradientStep, roundHalfUp, hp, fdiv_of_pos _ (by positivity)]

theorem State.steppedTap_eq (s : State) (n : SetNo) (e w h : Int) :
    steppedTap w e (filteredReference (s.adaptHeader n).sg h) (s.adaptHeader n).mu (s.adaptHeader n).lk =
      s.tapResult n e w h := by
  rw [steppedTap, leaked_eq, gradientStep_eq, filteredReference_eq]
  rfl

theorem steppedTaps_append (hd : AdaptHeader) (e : Int) {a b : List Word} {c d : List Int} (h : a.length = c.length) :
    steppedTaps hd e (a ++ b) (c ++ d) = steppedTaps hd e a c ++ steppedTaps hd e b d := by
  induction a generalizing c with
  | nil =>
    obtain rfl := List.length_eq_zero_iff.mp h.symm
    rfl
  | cons w a ih =>
    obtain ⟨x, c, rfl⟩ := List.exists_cons_of_length_eq_add_one h.symm
    rw [List.cons_append, List.cons_append, steppedTaps, steppedTaps, ih (Nat.succ.inj h), List.cons_append]

theorem steppedTaps_map (hd : AdaptHeader) (e : Int) (f : Nat → Word) (g : Nat → Int) (ks : List Nat) :
    steppedTaps hd e (ks.map f) (ks.map g) =
      ks.map fun k => steppedTap (f k).toInt e (filteredReference hd.sg (g k)) hd.mu hd.lk := by
  induction ks with
  | nil => rfl
  | cons k ks ih => simp only [List.map_cons, steppedTaps, ih]

/-- The unclamped results of the taps in use, in the order they are read. -/
theorem State.steppedTaps_eq (s : State) (l : Lane) (n : SetNo) (tr ts : Nat) (e : Int) :
    steppedTaps (s.adaptHeader n) e ((usedTapWords tr ts).map fun w => (s.cell n w).value)
        ((s.lane l).references tr ts (s.adaptHeader n).sd.toInt.toNat) =
      (List.range tr).map (s.refResult l n e) ++ (List.range ts).map (s.sibResult l n e) := by
  rw [usedTapWords, LaneState.references, List.map_append, steppedTaps_append _ _ (by simp), List.map_map, List.map_map,
    steppedTaps_map, steppedTaps_map]
  simp only [State.steppedTap_eq]
  refine congrArg₂ (· ++ ·) (List.map_congr_left fun k _ => ?_) (List.map_congr_left fun j _ => ?_)
  · rw [State.refResult, Nat.add_comm 10 k]; rfl
  · rw [State.sibResult, Nat.add_comm 42 j]; rfl

theorem State.clampSym_eq (s : State) (n : SetNo) (v : Int) :
    clampSym (s.adaptHeader n).wl.toInt v = s.tapLimited n v := by
  rw [clampSym, min_comm]; rfl

/-- The write-back of a frame's taps replaces the taps in use and no other word (R82). -/
theorem State.writeTaps_bankAt (hs : s.bankWf) {tr : Nat} (htr : tr ≤ 32) (ts : Nat) (f g : Nat → Word) (a : Nat) :
    (s.writeTaps n tr ((List.range tr).map f ++ (List.range ts).map g)).bankAt a =
      if n.val * 64 + 10 ≤ a ∧ a < n.val * 64 + 10 + tr then { value := f (a - (n.val * 64 + 10)), flipped := [] }
      else if n.val * 64 + 42 ≤ a ∧ a < n.val * 64 + 42 + ts then { value := g (a - (n.val * 64 + 42)), flipped := [] }
      else s.bankAt a := by
  have hget : ∀ (v : Nat → Word) (c i : Nat), i < c → ((List.range c).map v).getD i 0 = v i := fun v c i hi => by
    simp [List.getD_eq_getElem?_getD, hi]
  have hwf := State.writeWords_wf hs n Config.firstTap ((List.range tr).map f)
  rw [State.writeTaps, List.take_left' (by simp), List.drop_left' (by simp), State.writeWords_bankAt hwf,
    State.writeWords_bankAt hs]
  simp only [Config.firstTap, Config.firstSiblingTap, List.length_map, List.length_range]
  by_cases href : n.val * 64 + 10 ≤ a ∧ a < n.val * 64 + 10 + tr
  · have hsib : ¬(n.val * 64 + 42 ≤ a ∧ a < n.val * 64 + 42 + ts) := by omega
    rw [if_neg hsib, if_pos href, if_pos href, hget _ _ _ (by omega)]
  · simp only [if_neg href]
    exact if_ctx_congr Iff.rfl (fun hsib => by rw [hget _ _ _ (by omega)]) fun _ => rfl

/-! ## Window and divergence (R86, R91, R92) -/

/-- The frame's step brings the divergence count to 64 (R91, R92). -/
abbrev Adaptation.Diverges (x : Adaptation) (e dl : Int) : Prop := dl < |e| ∧ 63 ≤ x.divergence

/-- The taps of the shadow, none without one. -/
def Adaptation.shadowTaps (x : Adaptation) : List Word := (x.shadow.map Shadow.taps).getD []

/-- The step of the divergence count to 64 is a rollback from the shadow (R92). -/
theorem State.countDivergence_of_diverges (n : SetNo) {e : Int} {dl : Word} (h : (s.lane l).adapt.Diverges e dl.toInt) :
    s.countDivergence l n e dl = s.rollback l n (s.lane l).adapt.shadowTaps := by
  have hlimit : Config.divergenceLimit ≤ (s.lane l).adapt.divergence + 1 := Nat.succ_le_succ h.2
  unfold State.countDivergence State.raiseDivergence Adaptation.shadowTaps
  rw [if_pos h.1, if_pos hlimit]
  cases (s.lane l).adapt.shadow <;> rfl

/-- Any other step changes the count alone (R91). -/
theorem State.countDivergence_of_not_diverges (n : SetNo) {e : Int} {dl : Word}
    (h : ¬(s.lane l).adapt.Diverges e dl.toInt) :
    s.countDivergence l n e dl =
      s.onAdapt l fun x => { x with divergence := if dl.toInt < |e| then x.divergence + 1 else 0 } := by
  unfold State.countDivergence State.raiseDivergence
  by_cases he : dl.toInt < |e|
  · have hlimit : ¬Config.divergenceLimit ≤ (s.lane l).adapt.divergence + 1 := fun hd =>
      h ⟨he, Nat.le_of_succ_le_succ hd⟩
    simp only [if_pos he, if_neg hlimit]
  · simp only [if_neg he]

theorem State.countDivergence_lane (s : State) (l : Lane) (n : SetNo) (e : Int) (dl : Word) :
    (s.countDivergence l n e dl).lane l =
      { s.lane l with
        adapt :=
          { (s.lane l).adapt with
            divergence :=
              if dl.toInt < |e| ∧ ¬(s.lane l).adapt.Diverges e dl.toInt then (s.lane l).adapt.divergence + 1 else 0 } } := by
  by_cases h : (s.lane l).adapt.Diverges e dl.toInt
  · rw [State.countDivergence_of_diverges n h, if_neg fun hc => hc.2 h]
    simp [State.rollback]
  · rw [State.countDivergence_of_not_diverges n h, if_congr (and_iff_left h) rfl rfl, State.onAdapt_lane]

theorem State.countDivergence_notices (s : State) (l : Lane) (n : SetNo) (e : Int) (dl : Word) :
    (s.countDivergence l n e dl).notices =
      if (s.lane l).adapt.Diverges e dl.toInt then s.notices.add .diverged (some l) n.val else s.notices := by
  by_cases h : (s.lane l).adapt.Diverges e dl.toInt
  · rw [State.countDivergence_of_diverges n h, if_pos h]
    simp [State.rollback, State.notify]
  · rw [State.countDivergence_of_not_diverges n h, if_neg h, State.onAdapt_notices]

theorem State.countDivergence_counters (s : State) (l : Lane) (n : SetNo) (e : Int) (dl : Word) :
    (s.countDivergence l n e dl).counters = s.counters := by
  by_cases h : (s.lane l).adapt.Diverges e dl.toInt
  · rw [State.countDivergence_of_diverges n h]
    simp [State.rollback]
  · rw [State.countDivergence_of_not_diverges n h, State.onAdapt_counters]

/-- A rollback freezes the set and changes no other record (R92). -/
theorem State.countDivergence_record (s : State) (l : Lane) (n : SetNo) (e : Int) (dl : Word) (m : SetNo) :
    (s.countDivergence l n e dl).record m =
      if (s.lane l).adapt.Diverges e dl.toInt ∧ m = n then { s.record n with frozen := true } else s.record m := by
  by_cases h : (s.lane l).adapt.Diverges e dl.toInt
  · rw [State.countDivergence_of_diverges n h, if_congr (and_iff_right h) rfl rfl]
    refine (State.onRecord_record (s.writeWords n Config.firstTap (s.lane l).adapt.shadowTaps) n m
      fun r => { r with frozen := true }).trans ?_
    rw [State.writeWords_record, State.writeWords_record]
  · rw [State.countDivergence_of_not_diverges n h, if_neg fun hc => h hc.1]
    rfl

/-- A rollback restores the 40 taps and no other word (R92). -/
theorem State.countDivergence_bankAt (hs : s.bankWf) (n : SetNo) (e : Int) (dl : Word)
    (h40 : (s.lane l).adapt.Diverges e dl.toInt → (s.lane l).adapt.shadowTaps.length = 40) (a : Nat) :
    (s.countDivergence l n e dl).bankAt a =
      if (s.lane l).adapt.Diverges e dl.toInt ∧ n.val * 64 + 10 ≤ a ∧ a < n.val * 64 + 50 then
        { value := (s.lane l).adapt.shadowTaps.getD (a - (n.val * 64 + 10)) 0, flipped := [] }
      else s.bankAt a := by
  by_cases h : (s.lane l).adapt.Diverges e dl.toInt
  · rw [State.countDivergence_of_diverges n h, if_congr (and_iff_right h) rfl rfl]
    refine (State.writeWords_bankAt hs n 10 _ a).trans ?_
    rw [h40 h]
  · rw [State.countDivergence_of_not_diverges n h, if_neg fun hc => h hc.1]
    rfl

theorem State.countWindow_bank (s : State) (l : Lane) : (s.countWindow l).bank = s.bank := by
  unfold State.countWindow
  dsimp only
  split_ifs <;> rfl

theorem State.countWindow_counters (s : State) (l : Lane) : (s.countWindow l).counters = s.counters := by
  unfold State.countWindow
  dsimp only
  split_ifs <;> rfl

theorem State.countWindow_lane (s : State) (l : Lane) :
    (s.countWindow l).lane l =
      { s.lane l with
        adapt :=
          { (s.lane l).adapt with
            window :=
              if (s.lane l).adapt.mode = .window then (s.lane l).adapt.window - 1 else (s.lane l).adapt.window } } := by
  unfold State.countWindow
  dsimp only
  split_ifs <;> simp

/-- WINDOW DONE is queued when a window of one frame closes (R86). -/
theorem State.countWindow_notices (h : (s.lane l).adapt.mode = .window → 0 < (s.lane l).adapt.window) :
    (s.countWindow l).notices =
      if (s.lane l).adapt.mode = .window ∧ (s.lane l).adapt.window = 1 then s.notices.add .windowDone (some l) 0
      else s.notices := by
  unfold State.countWindow
  by_cases hm : (s.lane l).adapt.mode = .window
  · have hlast : (s.lane l).adapt.window - 1 = 0 ↔ (s.lane l).adapt.window = 1 := by have := h hm; omega
    simp only [if_pos hm, hlast, and_iff_right hm]
    split_ifs <;> rfl
  · rw [if_neg hm, if_neg fun hc => hm hc.1]

/-! ## The adapted frame (R82) -/

/-- A state that differs from another in one lane, the bank and the notices alone. -/
theorem State.eq_setLane {x : LaneState} {q : NoticeQueue} (hp : t.pending = s.pending) (hc : t.cond = s.cond)
    (hd : t.decoder = s.decoder) (hr : t.responses = s.responses) (ht : t.transfer = s.transfer)
    (hn : t.counters = s.counters) (hl : t.link = s.link) (ho : t.ports = s.ports)
    (hother : t.lane l.other = s.lane l.other) (hx : t.lane l = x) (hq : t.notices = q) :
    t = ({ s with bank := t.bank, notices := q } : State).setLane l x := by
  cases l with
  | zero =>
    have h1 : t.lane1 = s.lane1 := hother
    simp only [← hp, ← hc, ← hd, ← hr, ← ht, ← hn, ← hl, ← ho, ← hx, ← hq, ← h1]
    rfl
  | one =>
    have h0 : t.lane0 = s.lane0 := hother
    simp only [← hp, ← hc, ← hd, ← hr, ← ht, ← hn, ← hl, ← ho, ← hx, ← hq, ← h0]
    rfl

/-- The taps written and the two counters raised, from the frame's unclamped results (R82). -/
def State.tapsWritten (s : State) (l : Lane) (n : SetNo) (tr : Nat) (wl : Word) (results : List Int) : State :=
  (s.writeTaps n tr (clampedTaps wl results)).onCounters l fun c =>
    { c with adaptedFrame := raised c.adaptedFrame 1, tapClamp := raised c.tapClamp (clampedCount wl results) }

section
variable (s : State) (l : Lane) (n : SetNo) (tr : Nat) (wl : Word) (results : List Int)

theorem State.tapsWritten_lane :
    (s.tapsWritten l n tr wl results).lane l =
      { s.lane l with
        counters :=
          { (s.lane l).counters with
            adaptedFrame := min 65535 ((s.lane l).counters.adaptedFrame + 1)
            tapClamp := min 65535 ((s.lane l).counters.tapClamp + clampedCount wl results) } } := by
  rw [State.tapsWritten, State.onCounters_lane, State.writeTaps_lane]
  rfl

@[simp] theorem State.tapsWritten_adapt : ((s.tapsWritten l n tr wl results).lane l).adapt = (s.lane l).adapt := by
  rw [State.tapsWritten_lane]

@[simp] theorem State.tapsWritten_notices : (s.tapsWritten l n tr wl results).notices = s.notices := by
  simp [State.tapsWritten, State.writeTaps]

@[simp] theorem State.tapsWritten_counters : (s.tapsWritten l n tr wl results).counters = s.counters := by
  simp [State.tapsWritten, State.writeTaps]

@[simp] theorem State.tapsWritten_record (m : SetNo) : (s.tapsWritten l n tr wl results).record m = s.record m := by
  simp [State.tapsWritten, State.writeTaps, State.record]

variable {s} in
theorem State.tapsWritten_wf (hs : s.bankWf) : (s.tapsWritten l n tr wl results).bankWf :=
  State.writeWords_wf (State.writeWords_wf hs _ _ _) _ _ _

end

/-- An adapted frame of given results: the write-back, then the divergence count's step, then the window's (R82, R86,
R91). -/
theorem State.adaptTaps_eq {tr ts : Nat} {e : Int} {h : AdaptHeader} {taps : List Word} {results : List Int}
    (hr : steppedTaps h e taps ((s.lane l).references tr ts h.sd.toInt.toNat) = results) :
    s.adaptTaps l n tr ts e h taps =
      ((s.tapsWritten l n tr h.wl results).countDivergence l n e h.dl).countWindow l := by
  rw [← hr]
  rfl

section
variable {tr ts : Nat} {e : Int} {h : AdaptHeader} {taps : List Word} {results : List Int}

theorem State.adaptTaps_lane (hr : steppedTaps h e taps ((s.lane l).references tr ts h.sd.toInt.toNat) = results) :
    (s.adaptTaps l n tr ts e h taps).lane l =
      { s.lane l with
        counters :=
          { (s.lane l).counters with
            adaptedFrame := min 65535 ((s.lane l).counters.adaptedFrame + 1)
            tapClamp := min 65535 ((s.lane l).counters.tapClamp + clampedCount h.wl results) }
        adapt :=
          { (s.lane l).adapt with
            divergence :=
              if h.dl.toInt < |e| ∧ ¬(s.lane l).adapt.Diverges e h.dl.toInt then (s.lane l).adapt.divergence + 1 else 0
            window :=
              if (s.lane l).adapt.mode = .window then (s.lane l).adapt.window - 1 else (s.lane l).adapt.window } } := by
  rw [State.adaptTaps_eq hr, State.countWindow_lane, State.countDivergence_lane, State.tapsWritten_lane]

/-- DIVERGED stands before the WINDOW DONE of a window that the frame closes (R93). -/
theorem State.adaptTaps_notices (hw : (s.lane l).adapt.mode = .window → 0 < (s.lane l).adapt.window) :
    (s.adaptTaps l n tr ts e h taps).notices =
      let reported :=
        if (s.lane l).adapt.Diverges e h.dl.toInt then s.notices.add .diverged (some l) n.val else s.notices
      if (s.lane l).adapt.mode = .window ∧ (s.lane l).adapt.window = 1 then reported.add .windowDone (some l) 0
      else reported := by
  rw [State.adaptTaps_eq rfl, State.countWindow_notices (by simpa [State.countDivergence_lane] using hw),
    State.countDivergence_notices, State.countDivergence_lane, State.tapsWritten_adapt, State.tapsWritten_notices]

theorem State.adaptTaps_counters : (s.adaptTaps l n tr ts e h taps).counters = s.counters := by
  rw [State.adaptTaps_eq rfl, State.countWindow_counters, State.countDivergence_counters, State.tapsWritten_counters]

/-- An adapted frame changes its lane, the bank and the notices, and nothing else of the part. -/
theorem State.adaptTaps_frame {x : LaneState} {q : NoticeQueue} (hx : (s.adaptTaps l n tr ts e h taps).lane l = x)
    (hq : (s.adaptTaps l n tr ts e h taps).notices = q) :
    s.adaptTaps l n tr ts e h taps =
      ({ s with bank := (s.adaptTaps l n tr ts e h taps).bank, notices := q } : State).setLane l x := by
  obtain ⟨hp, hc, hd, hl⟩ := s.adaptTaps_outside l n tr ts e h taps
  obtain ⟨hr, ho⟩ := s.adaptTaps_queues l n tr ts e h taps
  obtain ⟨ht, hother⟩ := State.adaptTaps_spares (s := s) (l := l) (n := n) tr ts e h taps
  exact State.eq_setLane hp hc hd hr ht State.adaptTaps_counters hl ho hother hx hq

theorem State.adaptTaps_record (m : SetNo) :
    (s.adaptTaps l n tr ts e h taps).record m =
      if (s.lane l).adapt.Diverges e h.dl.toInt ∧ m = n then { s.record n with frozen := true } else s.record m := by
  rw [State.adaptTaps_eq rfl, State.record, State.countWindow_bank]
  refine (State.countDivergence_record _ l n e h.dl m).trans ?_
  rw [State.tapsWritten_adapt, State.tapsWritten_record, State.tapsWritten_record]

/-- An adapted frame's words: the shadow's taps after a rollback, else those that the update wrote. -/
theorem State.adaptTaps_bankAt (hs : s.bankWf)
    (hr : steppedTaps h e taps ((s.lane l).references tr ts h.sd.toInt.toNat) = results)
    (h40 : (s.lane l).adapt.Diverges e h.dl.toInt → (s.lane l).adapt.shadowTaps.length = 40) (a : Nat) :
    (s.adaptTaps l n tr ts e h taps).bankAt a =
      if (s.lane l).adapt.Diverges e h.dl.toInt ∧ n.val * 64 + 10 ≤ a ∧ a < n.val * 64 + 50 then
        { value := (s.lane l).adapt.shadowTaps.getD (a - (n.val * 64 + 10)) 0, flipped := [] }
      else (s.writeTaps n tr (clampedTaps h.wl results)).bankAt a := by
  rw [State.adaptTaps_eq hr, State.bankAt, State.countWindow_bank]
  refine (State.countDivergence_bankAt (State.tapsWritten_wf l n tr h.wl results hs) n e h.dl ?_ a).trans ?_
  · rwa [State.tapsWritten_adapt]
  · rw [State.tapsWritten_adapt]
    rfl

end

/-! ## The frame of a set whose header is in range -/

/-- The new taps of results `f` and `g` of the taps in use (R81). -/
theorem State.clampedTaps_eq (s : State) (n : SetNo) (tr ts : Nat) (f g : Nat → Int) :
    clampedTaps (s.adaptHeader n).wl ((List.range tr).map f ++ (List.range ts).map g) =
      (List.range tr).map (fun k => BitVec.ofInt 16 (s.tapLimited n (f k)))
        ++ (List.range ts).map fun j => BitVec.ofInt 16 (s.tapLimited n (g j)) := by
  simp only [clampedTaps, List.map_append, List.map_map, State.clampSym_eq]
  rfl

/-- The number of results `f` and `g` of the taps in use that the clamp changes (R81). -/
theorem State.clampedCount_eq (s : State) (n : SetNo) (tr ts : Nat) (f g : Nat → Int) :
    clampedCount (s.adaptHeader n).wl ((List.range tr).map f ++ (List.range ts).map g) =
      ((List.range tr).filter fun k => decide (s.tapLimited n (f k) ≠ f k)).length
        + ((List.range ts).filter fun j => decide (s.tapLimited n (g j) ≠ g j)).length := by
  simp only [clampedCount, State.clampSym_eq, List.filter_append, List.length_append, List.filter_map,
    List.length_map]
  rfl

/-- Beside the taps in use, the words read are the six header words. -/
theorem adaptWords_beside_taps {tr ts a : Nat} (n : SetNo)
    (href : ¬(n.val * 64 + 10 ≤ a ∧ a < n.val * 64 + 10 + tr))
    (hsib : ¬(n.val * 64 + 42 ≤ a ∧ a < n.val * 64 + 42 + ts)) :
    (∃ w ∈ adaptWords tr ts, a = n.val * 64 + w) ↔ n.val * 64 + 4 ≤ a ∧ a < n.val * 64 + 10 := by
  simp only [mem_adaptWords, mem_usedTapWords]
  constructor
  · rintro ⟨w, hw, rfl⟩
    omega
  · rintro ⟨h1, h2⟩
    exact ⟨a - n.val * 64, .inl (by omega), by omega⟩

/-- A set word's value is 0 just when its number is. -/
theorem State.wordInt_eq_zero {w : Nat} : s.wordInt n w = 0 ↔ (s.cell n w).value = 0 := by
  rw [State.wordInt, ← BitVec.toInt_inj]; rfl

/-- The state after checked reads that found the stored words `cs` of set `n`, single errors at most, and left the bank's
store `words` (R35). -/
def State.afterCorrections (s : State) (n : SetNo) (words : List (Nat × Cell)) (cs : List Cell) : State :=
  { s with
    bank := { s.bank with words := words }
    notices := s.notices.afterReads n false cs
    counters := { s.counters with storageCorrection := raisedBy s.counters.storageCorrection (singles cs) } }

/-- With MU above 0 and single errors at most in the words read, the update is made from their corrected values, after
the corrections (R35, R76). -/
theorem State.adaptSet_corrected {tr : Nat} (hs : s.bankWf) (htr : tr ≤ 32) (ts : Nat) (e : Int)
    (hmu : s.wordInt n 4 ≠ 0) (h : ∀ w ∈ adaptWords tr ts, (s.cell n w).flipped.length ≤ 1) :
    ∃ words : List (Nat × Cell), Memory.wf Cell.zero words = true
      ∧ s.adaptSet l n tr ts e =
        (s.afterCorrections n words ((adaptWords tr ts).map (s.cell n))).adaptTaps l n tr ts e (s.adaptHeader n)
          ((usedTapWords tr ts).map fun w => (s.cell n w).value)
      ∧ ∀ a : Nat, Memory.read Cell.zero words a =
          if ∃ w ∈ adaptWords tr ts, a = n.val * 64 + w then (s.bankAt a).afterRead else s.bankAt a := by
  obtain ⟨words, wf, hread, hwords⟩ := State.readUntilDouble_corrected hs (adaptWords_nodup htr ts) h
  rw [List.map_map] at hread
  exact ⟨words, wf, State.adaptSet_of_reads (mt State.wordInt_eq_zero.mpr hmu) hread, hwords⟩

/-- With MU at 0 only MU is read: a single error is corrected, and nothing else happens (R76). -/
theorem State.adaptSet_mu_zero (hs : s.bankWf) (tr ts : Nat) (e : Int) (hmu : s.wordInt n 4 = 0)
    (h : (s.cell n 4).flipped.length ≤ 1) :
    ∃ words : List (Nat × Cell),
      s.adaptSet l n tr ts e = s.afterCorrections n words [s.cell n 4]
      ∧ ∀ a : Nat, Memory.read Cell.zero words a = if a = n.val * 64 + 4 then (s.bankAt a).afterRead else s.bankAt a := by
  obtain ⟨words, -, hread, hwords⟩ := State.readUntilDouble_corrected (ws := [4]) hs (by decide) (by simpa using h)
  refine ⟨words, ?_, by simpa using hwords⟩
  rcases hw : s.readWord n 4 with ⟨s1, _ | mu⟩
  · rw [State.readUntilDouble_cons_none hw] at hread
    cases hread
  · obtain rfl := State.readWord_value hw
    rw [State.readUntilDouble_cons_some hw] at hread
    rw [State.wordInt_eq_zero.mp hmu] at hw
    rw [State.adaptSet_of_mu_zero hw]
    exact congrArg Prod.fst hread

/-- The words after an update made from the words of `s` as they stood, once corrected: the shadow's taps after a
rollback, else the new taps beside the header words as the reads left them (R82, R92). -/
theorem State.adaptTaps_bankAt_of_reads {tr : Nat} (htr : tr ≤ 32) (ts : Nat) (e : Int) (hu : u.bankWf)
    (hlane : u.lane l = s.lane l)
    (hwords : ∀ a, u.bankAt a =
      if ∃ w ∈ adaptWords tr ts, a = n.val * 64 + w then (s.bankAt a).afterRead else s.bankAt a)
    {shadow : List Word} (hshadow : (s.lane l).adapt.Diverges e (s.wordInt n 9) →
      (s.lane l).adapt.shadow.map Shadow.taps = some shadow ∧ shadow.length = 40) (a : Nat) :
    (u.adaptTaps l n tr ts e (s.adaptHeader n) ((usedTapWords tr ts).map fun w => (s.cell n w).value)).bankAt a =
      if (s.lane l).adapt.Diverges e (s.wordInt n 9) ∧ n.val * 64 + 10 ≤ a ∧ a < n.val * 64 + 50 then
        { value := shadow.getD (a - (n.val * 64 + 10)) 0, flipped := [] }
      else if n.val * 64 + 10 ≤ a ∧ a < n.val * 64 + 10 + tr then
        { value := BitVec.ofInt 16 (s.tapLimited n (s.refResult l n e (a - (n.val * 64 + 10)))), flipped := [] }
      else if n.val * 64 + 42 ≤ a ∧ a < n.val * 64 + 42 + ts then
        { value := BitVec.ofInt 16 (s.tapLimited n (s.sibResult l n e (a - (n.val * 64 + 42)))), flipped := [] }
      else if n.val * 64 + 4 ≤ a ∧ a < n.val * 64 + 10 then (s.bankAt a).afterRead
      else s.bankAt a := by
  have hres := s.steppedTaps_eq l n tr ts e
  rw [← hlane] at hres
  have htaps : (s.lane l).adapt.Diverges e (s.wordInt n 9) →
      (s.lane l).adapt.shadowTaps = shadow ∧ shadow.length = 40 := fun h => by
    rw [Adaptation.shadowTaps, (hshadow h).1]
    exact ⟨rfl, (hshadow h).2⟩
  rw [State.adaptTaps_bankAt hu hres (by rw [hlane]; exact fun h => by rw [(htaps h).1]; exact (htaps h).2), hlane,
    State.clampedTaps_eq, State.writeTaps_bankAt hu htr]
  refine if_ctx_congr Iff.rfl (fun h => by rw [(htaps h.1).1]) fun _ => ?_
  refine if_ctx_congr Iff.rfl (fun _ => rfl) fun href => ?_
  refine if_ctx_congr Iff.rfl (fun _ => rfl) fun hsib => ?_
  rw [hwords a]
  exact if_congr (adaptWords_beside_taps n href hsib) rfl rfl

/-- The lane after an update made from the words of `s` as they stood (R82, R86, R91). -/
theorem State.adaptTaps_lane_of_reads (tr ts : Nat) (e : Int) (hlane : u.lane l = s.lane l) :
    (u.adaptTaps l n tr ts e (s.adaptHeader n) ((usedTapWords tr ts).map fun w => (s.cell n w).value)).lane l =
      { s.lane l with
        counters :=
          { (s.lane l).counters with
            adaptedFrame := min 65535 ((s.lane l).counters.adaptedFrame + 1)
            tapClamp :=
              min 65535 ((s.lane l).counters.tapClamp
                + (((List.range tr).filter fun k => decide (s.tapLimited n (s.refResult l n e k) ≠ s.refResult l n e k)).length
                  + ((List.range ts).filter fun j =>
                      decide (s.tapLimited n (s.sibResult l n e j) ≠ s.sibResult l n e j)).length)) }
        adapt :=
          { (s.lane l).adapt with
            divergence :=
              if s.wordInt n 9 < |e| ∧ ¬(s.lane l).adapt.Diverges e (s.wordInt n 9) then
                (s.lane l).adapt.divergence + 1
              else 0
            window :=
              if (s.lane l).adapt.mode = .window then (s.lane l).adapt.window - 1 else (s.lane l).adapt.window } } := by
  have hres := s.steppedTaps_eq l n tr ts e
  rw [← hlane] at hres
  rw [State.adaptTaps_lane hres, hlane, State.clampedCount_eq]
  rfl

/-- Settles O47: the gate, the reads that end at a double error, and the update from words with single errors at most. -/
theorem adaptation : Obligations.Adaptation := by
  intro f found d probed s l x e gate
  refine ⟨fun h => State.adaptFrame_of_not_adapts h, fun n hg hs hw hd => ?_, fun n hg hs hh => ?_⟩
  · obtain ⟨-, -, -, -, hcur, hlive, -⟩ := id hg
    rw [State.adaptFrame_of_adapts hg]
    refine State.adaptSet_abandoned hs.1 hlive hcur hw ?_
    obtain ⟨w, h2, rfl | ⟨hmu, hin⟩⟩ := hd
    · exact .inl h2
    · refine .inr ⟨mt State.wordInt_eq_zero.mpr hmu, w, ?_, h2⟩
      rw [mem_adaptWords, mem_usedTapWords]
      omega
  · intro tr ts htr hts mu lk sd wl filtered leaked stepped refTap sibTap clamp clamps read cs corrected diverges hle
    obtain ⟨⟨-, htr32⟩, -, -, -, ⟨hmu, -⟩, -⟩ := hh
    have hmu0 : mu = 0 ↔ s.wordInt n 4 = 0 := by omega
    rw [State.adaptFrame_of_adapts hg, htr, hts]
    refine ⟨fun h0 hclean => ?_, fun h0 => ?_, ?_⟩
    · rw [State.adaptSet_of_mu_zero (t := s)]
      rw [State.readWord_clean hclean, State.wordInt_eq_zero.mp (hmu0.mp h0)]
    · have hread : read = [4] := if_pos h0
      have hcs : cs = [s.cell n 4] := congrArg (List.map _) hread
      have h4 : (s.cell n 4).flipped.length ≤ 1 := hle _ (by rw [hcs]; exact List.mem_singleton_self _)
      obtain ⟨words, hset, hwords⟩ := State.adaptSet_mu_zero (l := l) hs.1 tr ts e (hmu0.mp h0) h4
      rw [← hcs] at hset
      exact ⟨_, hset, rfl, hwords⟩
    · have htr32' : tr ≤ 32 := Int.toNat_le.mpr htr32
      intro h1 shadow hshadow reported
      have hread : read = adaptWords tr ts := if_neg (by omega)
      have hcs : cs = (adaptWords tr ts).map (s.cell n) := congrArg (List.map _) hread
      have hle' : ∀ w ∈ adaptWords tr ts, (s.cell n w).flipped.length ≤ 1 := fun w hw =>
        hle _ (by rw [hcs]; exact List.mem_map_of_mem hw)
      obtain ⟨words, wf, hset, hwords⟩ :=
        State.adaptSet_corrected (l := l) hs.1 htr32' ts e (by omega) hle'
      rw [← hcs] at hset
      have hlane : (s.afterCorrections n words cs).lane l = x := State.lane_congr l rfl rfl
      refine ⟨_, hset, State.adaptTaps_frame (State.adaptTaps_lane_of_reads tr ts e hlane) ?_, fun m => ?_,
        State.adaptTaps_bankAt_of_reads htr32' ts e wf hlane hwords hshadow⟩
      · rw [State.adaptTaps_notices (by rw [hlane]; exact State.Adapts.window_open hg), hlane]
        rfl
      · rw [State.adaptTaps_record, hlane]
        rfl

end Sys2Proof.Machine
end

section
/-! SUPPORT. The probe generator's cycle (R99): 127 is prime and the generator moves 127, so its first return, after 127
steps, is the whole period, and the 127 values passed are those from 1 to 127. -/

namespace Sys2Proof.Machine

/-- R99's feedback in the places of a state of seven places. -/
theorem probeFeedback_iff {g : Nat} (h : g < 128) : probeFeedback g = true ↔ g / 64 + g / 32 % 2 = 1 := by
  simp only [probeFeedback, Nat.testBit_eq_decide_div_mod_eq, bne_iff_ne, ne_eq, decide_eq_decide]
  omega

/-- The generator stays within 1 to 127 (R99). -/
theorem nextGenerator_mapsTo : Set.MapsTo nextGenerator (Set.Icc 1 127) (Set.Icc 1 127) :=
  fun g ⟨h1, h2⟩ => nextGenerator_bounds ⟨g, Nat.lt_succ_of_le h2⟩ h1

theorem iterate_nextGenerator_mem (k : Nat) : nextGenerator^[k] 127 ∈ Set.Icc 1 127 :=
  nextGenerator_mapsTo.iterate k ⟨by decide, le_rfl⟩

/-- The 127th step returns to 127 (R99), followed here in four stretches. -/
theorem nextGenerator_returns : nextGenerator^[127] 127 = 127 := by
  have hto32 : nextGenerator^[32] 127 = 114 := by decide
  have hto64 : nextGenerator^[32] 114 = 14 := by decide
  have hto96 : nextGenerator^[32] 14 = 70 := by decide
  have hto127 : nextGenerator^[31] 70 = 127 := by decide
  calc nextGenerator^[127] 127
      = nextGenerator^[31] (nextGenerator^[32] (nextGenerator^[32] (nextGenerator^[32] 127))) := by
        simp only [← Function.iterate_add_apply]
    _ = 127 := by rw [hto32, hto64, hto96, hto127]

/-- No shorter run of steps returns to 127: the period divides the prime 127 and is not 1. -/
theorem nextGenerator_minimalPeriod : Function.minimalPeriod nextGenerator 127 = 127 :=
  have : Fact (Nat.Prime 127) := ⟨by norm_num⟩
  Function.minimalPeriod_eq_prime nextGenerator_returns (show nextGenerator 127 ≠ 127 by decide)

/-- The states that the generator passes from 127 until it returns there (R99). -/
def probeCycle : List Nat := (List.range 127).map fun k => nextGenerator^[k] 127

theorem probeCycle_bounds {g : Nat} (h : g ∈ probeCycle) : 1 ≤ g ∧ g ≤ 127 := by
  obtain ⟨k, -, rfl⟩ := List.mem_map.mp h
  exact iterate_nextGenerator_mem k

theorem probeCycle_nodup : probeCycle.Nodup := by
  refine List.nodup_range.map_on fun i hi j hj h => ?_
  rw [List.mem_range, ← nextGenerator_minimalPeriod] at hi hj
  exact Function.iterate_injOn_Iio_minimalPeriod hi hj h

/-- The cycle runs through all numbers from 1 to 127 (R99). -/
theorem probeCycle_perm : probeCycle.Perm (List.range' 1 127) := by
  refine (probeCycle_nodup.subperm fun g hg => ?_).perm_of_length_le (by simp [probeCycle])
  have := probeCycle_bounds hg
  rw [List.mem_range'_1]
  omega

/-- Settles O48, from the period of the generator and the feedback's count over 1 to 127. -/
theorem probeGenerator : Obligations.ProbeGenerator := by
  refine ⟨fun g hg => ⟨probeFeedback_iff g.isLt, fun amplitude => ?_, rfl, ?_⟩,
    probeCycle_nodup, fun g => probeCycle_bounds, nextGenerator_returns, ?_, ?_⟩
  · simp only [probeValue, probeFeedback_iff g.isLt]
  · exact Nat.one_le_iff_ne_zero.mp (nextGenerator_bounds g hg).1
  · exact (probeCycle_perm.filter _).length_eq.trans (by decide)
  · exact (probeCycle_perm.filter _).length_eq.trans (by decide)

end Sys2Proof.Machine
end

section
/-! SUPPORT. A campaign: a frame's step of it (R100, R102, R105), and the sign history and the correlations after any
number of steps (R103, R104). -/

namespace Sys2Proof.Machine

variable {s : State} {l : Lane} {f : ServoFields}

/-! ## A frame's step (R100, R102, R105) -/

/-- A change of the campaign after another asks for both in one. -/
theorem State.onCampaign_onCampaign (s : State) (l : Lane) (g h : Campaign → Campaign) :
    (s.onCampaign l g).onCampaign l h = s.onCampaign l fun _ => h (g (s.lane l).campaign) := by
  simp only [State.onCampaign, State.setLane_lane, State.setLane_setLane]

theorem State.probeFrame_of_not_stepped
    (h : ¬((s.lane f.lane).control.mode = .running ∧ f.mode = .track ∧ (s.lane f.lane).campaign.state = .running)) :
    s.probeFrame f = s :=
  if_neg (by rwa [State.stepsProbe_eq, decide_eq_true_eq])

theorem State.probeFrame_of_stepped
    (h : (s.lane f.lane).control.mode = .running ∧ f.mode = .track ∧ (s.lane f.lane).campaign.state = .running) :
    s.probeFrame f = (s.onCampaign f.lane fun c => c.stepped f.pes.toInt).countProbeStep f.lane :=
  if_pos (by rwa [State.stepsProbe_eq, decide_eq_true_eq])

/-- A step short of the requested length counts itself (R100). -/
theorem State.countProbeStep_stepped_short (e : Int)
    (h : (s.lane l).campaign.done + 1 ≠ (s.lane l).campaign.requested) :
    (s.onCampaign l fun c => c.stepped e).countProbeStep l =
      s.onCampaign l fun _ => { (s.lane l).campaign.stepped e with done := (s.lane l).campaign.done + 1 } := by
  simp only [State.countProbeStep, State.onCampaign_lane, State.onCampaign_onCampaign]
  exact if_neg h

/-- The step that reaches the requested length ends the campaign with its notice (R105). -/
theorem State.countProbeStep_stepped_last (e : Int)
    (h : (s.lane l).campaign.done + 1 = (s.lane l).campaign.requested) :
    (s.onCampaign l fun c => c.stepped e).countProbeStep l =
      (s.onCampaign l fun _ =>
        { (s.lane l).campaign.stepped e with
          done := (s.lane l).campaign.done + 1, state := .done }).notify .probeDone (some l) 0 := by
  simp only [State.countProbeStep, State.onCampaign_lane, State.onCampaign_onCampaign]
  exact if_pos h

/-! ## Many steps: the generator and the sign history (R99, R103) -/

/-- The record of a campaign after a step for each position error. -/
def Campaign.run (start : Campaign) (errors : List Word) : Campaign :=
  errors.foldl (fun c e => c.stepped e.toInt) start

theorem Campaign.run_concat (start : Campaign) (errors : List Word) (e : Word) :
    start.run (errors ++ [e]) = (start.run errors).stepped e.toInt :=
  List.foldl_concat ..

/-- The generator's part of a run, from any state (R99). -/
theorem Campaign.run_generator (start : Campaign) (errors : List Word) :
    (start.run errors).generator = nextGenerator^[errors.length] start.generator := by
  induction errors using List.reverseRecOn with
  | nil => rfl
  | append_singleton errors e ih =>
    rw [Campaign.run_concat, List.length_append, List.length_singleton, Function.iterate_succ_apply', ← ih]
    rfl

/-- The probe sign of the step after `m` others (R99). -/
def probeSign (m : Nat) : Bool := probeFeedback (nextGenerator^[m] 127)

/-- The last signs of `n` steps, 16 at most, newest first (R103). -/
def lastSigns (n : Nat) : List Bool := (List.range (min n 16)).map fun d => probeSign (n - 1 - d)

theorem lastSigns_getElem? (n d : Nat) :
    (lastSigns n)[d]? = if d < min n 16 then some (probeSign (n - 1 - d)) else none := by
  split_ifs with h
  · rw [lastSigns, List.getElem?_map, List.getElem?_range h]
    rfl
  · exact List.getElem?_eq_none (by simpa [lastSigns, Nat.lt_min] using Nat.not_lt.mp h)

/-- A new sign takes place 0, the others move one place back, and a seventeenth is lost (R103). -/
theorem lastSigns_succ (n : Nat) : lastSigns (n + 1) = (probeSign n :: lastSigns n).take 16 := by
  refine List.ext_getElem? fun d => ?_
  rw [lastSigns_getElem?, List.getElem?_take]
  cases d with
  | zero => simp
  | succ d =>
    have hplace : d + 1 < min (n + 1) 16 ↔ d + 1 < 16 ∧ d < min n 16 := by omega
    rw [List.getElem?_cons_succ, lastSigns_getElem?, show n + 1 - 1 - (d + 1) = n - 1 - d by omega,
      if_congr hplace rfl rfl, ite_and]

theorem Campaign.run_signs {start : Campaign} (hgenerator : start.generator = 127) (hsigns : start.signs = [])
    (errors : List Word) : (start.run errors).signs = lastSigns errors.length := by
  induction errors using List.reverseRecOn with
  | nil => exact hsigns
  | append_singleton errors e ih =>
    rw [Campaign.run_concat, List.length_append, List.length_singleton, lastSigns_succ, ← ih, probeSign, ← hgenerator,
      ← Campaign.run_generator]
    rfl

/-! ## Many steps: the correlations (R104) -/

/-- A probe sign as the factor of the position error (R104). -/
def signFactor (sign : Bool) : Int := if sign then 1 else -1

theorem correlate_eq_clamp (c : Int) (sign : Bool) (e : Int) :
    correlate c (some sign) e = clampCorrelation (c + signFactor sign * e) := by
  cases sign <;> simp [correlate, signFactor, Int.sub_eq_add_neg]

/-- Within the accumulator's range the clamp changes nothing (R104). -/
theorem clampCorrelation_of_abs_le {x : Int} (h : |x| ≤ 2147483647) : clampCorrelation x = x := by
  rw [abs_le] at h
  simp only [clampCorrelation, clampInt]
  omega

/-- The exact correlation at lag `d`: each position error from the step after `d` others on, times the sign `d` steps
before (R104). -/
def exactCorrelation (errors : List Word) (d : Nat) : Int :=
  ∑ m ∈ Finset.range (errors.length - d), signFactor (probeSign m) * (errors.getD (m + d) 0).toInt

/-- The first `d` steps pair with no sign at lag `d`, each later one with the sign `d` steps before. -/
theorem exactCorrelation_concat (errors : List Word) (e : Word) (d : Nat) :
    exactCorrelation (errors ++ [e]) d =
      exactCorrelation errors d
        + if d ≤ errors.length then signFactor (probeSign (errors.length - d)) * e.toInt else 0 := by
  have hold : ∀ m ∈ Finset.range (errors.length - d), (errors ++ [e]).getD (m + d) 0 = errors.getD (m + d) 0 :=
    fun m hm => List.getD_append _ _ _ _ (by rw [Finset.mem_range] at hm; omega)
  have hsum := Finset.sum_congr rfl fun m hm => congrArg (fun w : Word => signFactor (probeSign m) * w.toInt) (hold m hm)
  rw [exactCorrelation, List.length_append, List.length_singleton]
  split_ifs with hd
  · rw [show errors.length + 1 - d = errors.length - d + 1 by omega, Finset.sum_range_succ, hsum, Nat.sub_add_cancel hd,
      List.getD_append_right _ _ _ _ le_rfl, Nat.sub_self]
    rfl
  · rw [show errors.length + 1 - d = errors.length - d by omega, hsum, add_zero]
    rfl

theorem abs_signFactor_mul_le (sign : Bool) (e : Word) : |signFactor sign * e.toInt| ≤ 32768 := by
  have habs : |signFactor sign * e.toInt| = |e.toInt| := by cases sign <;> simp [signFactor]
  rw [habs, abs_le]
  have := word_toInt_bounds e
  omega

/-- Each step adds 32768 at most. -/
theorem abs_exactCorrelation_le (errors : List Word) (d : Nat) :
    |exactCorrelation errors d| ≤ 32768 * errors.length := by
  calc |exactCorrelation errors d|
      ≤ ∑ m ∈ Finset.range (errors.length - d), |signFactor (probeSign m) * (errors.getD (m + d) 0).toInt| :=
        Finset.abs_sum_le_sum_abs ..
    _ ≤ (Finset.range (errors.length - d)).card • 32768 :=
        Finset.sum_le_card_nsmul _ _ _ fun m _ => abs_signFactor_mul_le _ _
    _ ≤ 32768 * errors.length := by
        rw [Finset.card_range, nsmul_eq_mul]
        omega

/-- A step in the accumulator at lag `d` (R104): it takes the error with the sign at place `d`, when there is one. -/
theorem correlate_lastSigns (c : Int) (n : Nat) (d : Fin 16) (e : Int) :
    correlate c (lastSigns (n + 1))[d.val]? e =
      if d.val ≤ n then clampCorrelation (c + signFactor (probeSign (n - d.val)) * e) else c := by
  rw [lastSigns_getElem?]
  split_ifs with h h' h'
  · exact correlate_eq_clamp c _ e
  · omega
  · omega
  · rfl

/-- The longest campaign's correlations stay within the accumulators' range: 65535 · 32768 is below 2³¹. -/
theorem Campaign.run_correlations {start : Campaign} (hgenerator : start.generator = 127) (hsigns : start.signs = [])
    (hzero : start.correlations = Vector.replicate 16 0) (errors : List Word) (hlength : errors.length ≤ 65535)
    (d : Fin 16) :
    (start.run errors).correlations[d.val] = exactCorrelation errors d := by
  induction errors using List.reverseRecOn with
  | nil => simp [Campaign.run, exactCorrelation, hzero]
  | append_singleton errors e ih =>
    have hbound := abs_exactCorrelation_le (errors ++ [e]) d
    have hsign := Campaign.run_signs hgenerator hsigns (errors ++ [e])
    rw [exactCorrelation_concat] at hbound ⊢
    rw [List.length_append, List.length_singleton] at hlength hbound hsign
    calc (start.run (errors ++ [e])).correlations[d.val]
        = correlate (start.run errors).correlations[d.val] (start.run (errors ++ [e])).signs[d.val]? e.toInt := by
          simp [Campaign.run_concat, Campaign.stepped]
      _ = if d.val ≤ errors.length then
            clampCorrelation (exactCorrelation errors d + signFactor (probeSign (errors.length - d.val)) * e.toInt)
          else exactCorrelation errors d := by
          rw [ih (by omega), hsign, correlate_lastSigns]
      _ = _ := by
          split_ifs at hbound ⊢ with hd
          · exact clampCorrelation_of_abs_le (by omega)
          · rw [add_zero]

/-- Settles O49: a frame by the cases of its step, a run by induction over its position errors. -/
theorem campaignCorrelations : Obligations.CampaignCorrelations := by
  refine ⟨fun f s => ⟨State.probeFrame_of_not_stepped, fun h hd => ?_, fun h hd => ?_⟩,
    fun start errors hgenerator hsigns hzero hlength => ⟨?_, ?_, ?_⟩⟩
  · exact (State.probeFrame_of_stepped h).trans (State.countProbeStep_stepped_short _ hd)
  · exact (State.probeFrame_of_stepped h).trans (State.countProbeStep_stepped_last _ hd)
  · exact (start.run_generator errors).trans (by rw [hgenerator])
  · exact Campaign.run_signs hgenerator hsigns errors
  · exact Campaign.run_correlations hgenerator hsigns hzero errors hlength

end Sys2Proof.Machine
end

section
/-! SUPPORT. LANE ENABLE (R114), LANE START (R115), LANE STOP (R117) and LANE OFF (R118) outside RUNNING. -/

namespace Sys2Proof.Machine

variable {s : State} {l : Lane}

/-! ## The row as its command's own rule -/

/-- A command without arguments or data words, by itself in a frame of its own: the state its rule gives, with the
rule's reply as its answer (R144, R159). -/
theorem State.command_bare_answered (h : s.accepts 1) (code : BitVec 6) (imm : BitVec 9) (ha : argCount code = 0)
    (hd : s.dataNeed ⟨code, l, imm⟩ = 0) {t : State} {r : Reply}
    (hrun : s.runCommand ⟨code, l, imm⟩ [] (s.roomAvailable 0 false) = (t, r)) :
    s.command code l imm [] = t.answered code.toNat r.result.code r.words := by
  obtain ⟨hc, -, hr⟩ := h
  rw [State.command_bare l hc hr code ha imm, State.execCommand_served _ _ _ _ _ (hd.trans_le (Nat.zero_le _)), hrun,
    State.respond_eq]

theorem execLaneEnable_eq (h : s.accepts 1) {t : State} {r : Reply} (hrun : s.laneEnable l = (t, r)) :
    exec (.laneEnable l) s = .next (t.answered 8 r.result.code r.words) :=
  congrArg Host.Outcome.next (State.command_bare_answered h 8#6 0 rfl rfl hrun)

theorem execLaneStart_eq (h : s.accepts 1) {t : State} {r : Reply} (hrun : s.laneStart l = (t, r)) :
    exec (.laneStart l) s = .next (t.answered 9 r.result.code r.words) :=
  congrArg Host.Outcome.next (State.command_bare_answered h 9#6 0 rfl rfl hrun)

theorem execLaneStop_eq (h : s.accepts 1) {t : State} {r : Reply} (hrun : s.laneStop l = (t, r)) :
    exec (.laneStop l) s = .next (t.answered 10 r.result.code r.words) :=
  congrArg Host.Outcome.next (State.command_bare_answered h 10#6 0 rfl rfl hrun)

theorem execLaneOff_eq (h : s.accepts 1) {t : State} {r : Reply} (hrun : s.laneOff l = (t, r)) :
    exec (.laneOff l) s = .next (t.answered 11 r.result.code r.words) :=
  congrArg Host.Outcome.next (State.command_bare_answered h 11#6 0 rfl rfl hrun)

/-! ## The commands by the lane's state -/

theorem State.laneEnable_off (hm : (s.lane l).control.mode = .off) :
    s.laneEnable l = (s.armLane l .standby, .bare .ok) := if_pos hm

theorem State.laneEnable_state (hm : (s.lane l).control.mode ≠ .off) : s.laneEnable l = (s, .bare .state) := if_neg hm

/-- The thresholds increase strictly as signed numbers: T1 < T2 < T3 (R115). -/
theorem CondParams.increasing_iff (p : CondParams) :
    p.increasing = true ↔
      p.threshold1.toInt < p.threshold2.toInt ∧ p.threshold2.toInt < p.threshold3.toInt := by
  rw [CondParams.increasing, Bool.and_eq_true, decide_eq_true_iff, decide_eq_true_iff]
  rfl

theorem State.laneStart_state (hm : (s.lane l).control.mode ≠ .standby) : s.laneStart l = (s, .bare .state) := if_pos hm

theorem State.laneStart_range (hm : (s.lane l).control.mode = .standby) (hi : ¬s.cond.params.increasing = true) :
    s.laneStart l = (s, .bare .range) :=
  (if_neg (not_not.mpr hm)).trans (if_pos (Bool.eq_false_of_not_eq_true hi))

theorem State.laneStart_standby (hm : (s.lane l).control.mode = .standby) (hi : s.cond.params.increasing = true) :
    s.laneStart l = (s.armLane l .priming, .bare .ok) :=
  (if_neg (not_not.mpr hm)).trans (if_neg (Bool.not_eq_false _ ▸ hi))

/-- Without the departure of R113 the lane's state is all that changes. -/
theorem State.moveLane_not_running (hm : (s.lane l).control.mode ≠ .running) (m : LaneMode) :
    s.moveLane l m = s.onControl l fun c => { c with mode := m } := if_neg hm

theorem State.laneStop_started (hm : (s.lane l).control.mode = .priming ∨ (s.lane l).control.mode = .fault) :
    s.laneStop l = (s.onControl l fun c => { c with mode := .standby }, .bare .ok) := by
  have hstarted : (s.lane l).control.mode.started = true := by obtain hm | hm := hm <;> rw [hm] <;> rfl
  have hrunning : (s.lane l).control.mode ≠ .running := by obtain hm | hm := hm <;> rw [hm] <;> decide
  rw [State.laneStop, if_pos hstarted, State.moveLane_not_running hrunning]

theorem State.laneStop_state (hm : (s.lane l).atRest) : s.laneStop l = (s, .bare .state) :=
  if_neg fun hstarted => (LaneMode.started_iff _).mp hstarted hm

theorem State.laneOff_not_running (hm : (s.lane l).control.mode ≠ .running) :
    s.laneOff l = (s.onControl l fun c => { c with mode := .off }, .bare .ok) := by
  rw [State.laneOff, State.moveLane_not_running hm]

/-- Settles O7, by each command's own rule in the lane's state. -/
theorem laneCommandsOutsideRunning : Obligations.LaneCommandsOutsideRunning := by
  intro l s h hrunning arm increasing
  have hincreasing : s.cond.params.increasing = true ↔ increasing := CondParams.increasing_iff _
  refine ⟨fun hm => ?_, fun hm => ?_, fun hm => ?_, fun hm hi => ?_, fun hm hi => ?_, fun hm => ?_, fun hm => ?_, ?_⟩
  · exact (execLaneEnable_eq h (State.laneEnable_off hm)).trans rfl
  · exact (execLaneEnable_eq h (State.laneEnable_state hm)).trans rfl
  · exact (execLaneStart_eq h (State.laneStart_state hm)).trans rfl
  · exact (execLaneStart_eq h (State.laneStart_range hm (mt hincreasing.mp hi))).trans rfl
  · exact (execLaneStart_eq h (State.laneStart_standby hm (hincreasing.mpr hi))).trans rfl
  · exact (execLaneStop_eq h (State.laneStop_started hm)).trans rfl
  · exact (execLaneStop_eq h (State.laneStop_state hm)).trans rfl
  · exact (execLaneOff_eq h (State.laneOff_not_running hrunning)).trans rfl

end Sys2Proof.Machine
end

section
/-! SUPPORT. A downstream frame at the Link Interface: which check of R132 it fails, and that the layouts of R142 are
read as they were written. -/

namespace Sys2Proof

/-! ## The checks of R132 -/

/-- A frame of at least two words that ends in the check of the words before it (R131, R132). -/
def Checked (words : List Word) : Prop := 2 ≤ words.length ∧ words.getLast? = some (linkCheck words.dropLast)

/-- The kind and the form of a frame whose check is right (R132). -/
def receiveChecked (header : Word) (body : List Word) : Received :=
  if header.extractLsb' 14 2 = 1#2 then receiveServo header body
  else if header.extractLsb' 14 2 = 2#2 then receiveManagement header body
  else .discarded .undefinedKind

theorem receive_of_not_checked {words : List Word} (h : ¬Checked words) : receive words = .discarded .badCheck := by
  match words with
  | [] => rfl
  | [_] => rfl
  | header :: second :: rest => exact if_neg fun hlast => h ⟨by simp, hlast⟩

theorem receive_of_checked {words : List Word} (h : Checked words) :
    ∃ header body last, words = header :: (body ++ [last]) ∧ receive words = receiveChecked header body := by
  obtain ⟨hlength, hlast⟩ := h
  match words with
  | header :: second :: rest =>
    refine ⟨header, (second :: rest).dropLast, (second :: rest).getLast nofun, ?_, if_pos hlast⟩
    rw [List.dropLast_append_getLast]

theorem checked_sealFrame {words : List Word} (h : words ≠ []) : Checked (sealFrame words) := by
  refine ⟨?_, ?_⟩
  · have := List.length_pos_of_ne_nil h
    rw [sealFrame, List.length_append, List.length_singleton]
    omega
  · rw [sealFrame, List.getLast?_concat, List.dropLast_concat]

/-- A frame sealed with its check is received by its kind and form. -/
theorem receive_sealFrame (header : Word) (body : List Word) :
    receive (sealFrame (header :: body)) = receiveChecked header body := by
  obtain ⟨header', body', last, hwords, hreceive⟩ :=
    receive_of_checked (checked_sealFrame (List.cons_ne_nil header body))
  obtain ⟨rfl, htail⟩ := List.cons.inj hwords
  obtain ⟨rfl, -⟩ := List.append_inj' htail rfl
  exact hreceive

/-- The kind in a header word (R142). -/
theorem extractKind_eq_iff (header : Word) (k : Nat) (hk : k < 4) :
    header.extractLsb' 14 2 = BitVec.ofNat 2 k ↔ header.toNat / 16384 = k := by
  have := header.isLt
  rw [← BitVec.toNat_inj, BitVec.extractLsb'_toNat, BitVec.toNat_ofNat, Nat.shiftRight_eq_div_pow]
  omega

theorem receiveServo_cases (header : Word) (body : List Word) :
    body.length = 3 ∧ (∃ f, receiveServo header body = .servo f)
      ∨ body.length ≠ 3 ∧ receiveServo header body = .discarded .malformed := by
  match body with
  | [_, _, _] => exact .inl ⟨rfl, _, rfl⟩
  | [] | [_] | [_, _] | _ :: _ :: _ :: _ :: _ => exact .inr ⟨by simp, rfl⟩

/-- What a management frame must hold (R132): N from 1 to 8, C at most 8, N + 2 words in all. -/
abbrev ManagementFormed (header length : Nat) : Prop :=
  1 ≤ header % 16 ∧ header % 16 ≤ 8 ∧ header / 16 % 16 ≤ 8 ∧ length = header % 16 + 2

/-- The form of a management frame by the places of its header: N, then C (R132, R142). -/
theorem receiveManagement_eq (header : Word) (body : List Word) :
    receiveManagement header body =
      if ManagementFormed header.toNat (body.length + 2) then
        .management (body.take (header.toNat / 16 % 16)) (body.drop (header.toNat / 16 % 16))
      else .discarded .malformed := by
  simp only [receiveManagement, ManagementFormed, BitVec.extractLsb'_toNat, Nat.shiftRight_eq_div_pow, Nat.reducePow,
    Nat.div_one, Nat.add_right_cancel_iff]

/-- The kind of a checked frame by its header's two highest places (R132). -/
theorem receiveChecked_cases (header : Word) (body : List Word) :
    header.toNat / 16384 = 1 ∧ receiveChecked header body = receiveServo header body
      ∨ header.toNat / 16384 = 2 ∧ receiveChecked header body = receiveManagement header body
      ∨ (header.toNat / 16384 ≠ 1 ∧ header.toNat / 16384 ≠ 2)
        ∧ receiveChecked header body = .discarded .undefinedKind := by
  have h1 := extractKind_eq_iff header 1 (by decide)
  have h2 := extractKind_eq_iff header 2 (by decide)
  unfold receiveChecked
  split_ifs with hservo hmanagement
  · exact .inl ⟨h1.mp hservo, rfl⟩
  · exact .inr (.inl ⟨h2.mp hmanagement, rfl⟩)
  · exact .inr (.inr ⟨⟨mt h1.mpr hservo, mt h2.mpr hmanagement⟩, rfl⟩)

/-- What becomes of a frame, by the three checks of R132 in their order. -/
theorem receive_cases (words : List Word) :
    let header := (words.headD 0).toNat
    let kind := header / 16384
    ¬Checked words ∧ receive words = .discarded .badCheck
      ∨ Checked words ∧ (kind ≠ 1 ∧ kind ≠ 2) ∧ receive words = .discarded .undefinedKind
      ∨ Checked words ∧ (kind = 1 ∧ words.length ≠ 5 ∨ kind = 2 ∧ ¬ManagementFormed header words.length)
          ∧ receive words = .discarded .malformed
      ∨ Checked words ∧ (kind = 1 ∧ words.length = 5 ∨ kind = 2 ∧ ManagementFormed header words.length)
          ∧ ∀ cause, receive words ≠ .discarded cause := by
  intro header kind
  by_cases h : Checked words
  · obtain ⟨first, body, last, rfl, hreceive⟩ := receive_of_checked h
    have hlength : (first :: (body ++ [last])).length = body.length + 2 := by simp
    rw [hreceive, hlength]
    obtain ⟨hk, he⟩ | ⟨hk, he⟩ | ⟨hk, he⟩ := receiveChecked_cases first body <;> rw [he]
    · obtain ⟨hb, f, hf⟩ | ⟨hb, hf⟩ := receiveServo_cases first body <;> rw [hf]
      · exact .inr (.inr (.inr ⟨h, .inl ⟨hk, by omega⟩, nofun⟩))
      · exact .inr (.inr (.inl ⟨h, .inl ⟨hk, by omega⟩, rfl⟩))
    · rw [receiveManagement_eq]
      split_ifs with hform
      · exact .inr (.inr (.inr ⟨h, .inr ⟨hk, hform⟩, nofun⟩))
      · exact .inr (.inr (.inl ⟨h, .inr ⟨hk, hform⟩, rfl⟩))
    · exact .inr (.inl ⟨h, hk, rfl⟩)
  · exact .inl ⟨h, receive_of_not_checked h⟩

theorem receive_badCheck_iff (words : List Word) : receive words = .discarded .badCheck ↔ ¬Checked words := by
  obtain ⟨h, e⟩ | ⟨h, -, e⟩ | ⟨h, -, e⟩ | ⟨h, -, e⟩ := receive_cases words <;> simp [h, e]

theorem receive_undefinedKind_iff (words : List Word) :
    receive words = .discarded .undefinedKind ↔
      Checked words ∧ (words.headD 0).toNat / 16384 ≠ 1 ∧ (words.headD 0).toNat / 16384 ≠ 2 := by
  have h := receive_cases words
  grind

theorem receive_malformed_iff (words : List Word) :
    receive words = .discarded .malformed ↔
      Checked words ∧ ((words.headD 0).toNat / 16384 = 1 ∧ words.length ≠ 5
        ∨ (words.headD 0).toNat / 16384 = 2 ∧ ¬ManagementFormed (words.headD 0).toNat words.length) := by
  have h := receive_cases words
  grind

/-! ## The layouts of R142 -/

@[simp] theorem ServoMode.ofField_toField (m : ServoMode) : ServoMode.ofField m.toField = m := by cases m <;> rfl

/-- The fields of a servo header are the ones it was built from, whatever its unassigned places hold (R142). -/
theorem servoFields_servoHeader (f : ServoFields) (spare : BitVec 3) :
    servoFields (servoHeader f spare) f.wedge f.pes f.input = f := by
  have hlane : (servoHeader f spare).getLsbD 13 = f.lane.toBit := by
    rw [servoHeader]
    iterate 5 rw [BitVec.getLsbD_append, if_neg (by decide)]
    rw [BitVec.getLsbD_append, if_pos (by decide)]
    exact BitVec.getLsbD_ofBool _ _
  have hmode : (servoHeader f spare).extractLsb' 11 2 = f.mode.toField := by
    rw [servoHeader]
    iterate 4 rw [BitVec.extractLsb'_append_eq_of_le (by decide)]
    exact BitVec.extractLsb'_append_eq_right
  have hwrite : (servoHeader f spare).getLsbD 10 = f.writeActive := by
    rw [servoHeader]
    iterate 3 rw [BitVec.getLsbD_append, if_neg (by decide)]
    rw [BitVec.getLsbD_append, if_pos (by decide)]
    exact BitVec.getLsbD_ofBool _ _
  have hhead : (servoHeader f spare).extractLsb' 6 4 = f.head := by
    rw [servoHeader]
    iterate 2 rw [BitVec.extractLsb'_append_eq_of_le (by decide)]
    exact BitVec.extractLsb'_append_eq_right
  have hzone : (servoHeader f spare).extractLsb' 3 3 = f.zone := by
    rw [servoHeader, BitVec.extractLsb'_append_eq_of_le (by decide)]
    exact BitVec.extractLsb'_append_eq_right
  rw [servoFields, hlane, hmode, hwrite, hhead, hzone, Machine.Lane.ofBit_toBit, ServoMode.ofField_toField]

theorem commandWord_toNat (code : BitVec 6) (l : Lane) (imm : BitVec 9) :
    (commandWord code l imm).toNat = code.toNat * 1024 + l.toNat * 512 + imm.toNat := by
  have hlane : (BitVec.ofBool l.toBit).toNat = l.toNat := by cases l <;> rfl
  rw [commandWord, BitVec.toNat_append, BitVec.toNat_append, ← Nat.shiftLeft_add_eq_or_of_lt imm.isLt,
    ← Nat.shiftLeft_add_eq_or_of_lt (BitVec.isLt _), Nat.shiftLeft_eq, Nat.shiftLeft_eq, hlane]
  omega

theorem managementHeader_toNat (c n : BitVec 4) (spare : BitVec 6) :
    (managementHeader c n spare).toNat = 32768 + spare.toNat * 256 + c.toNat * 16 + n.toNat := by
  rw [managementHeader, BitVec.toNat_append, BitVec.toNat_append, BitVec.toNat_append,
    ← Nat.shiftLeft_add_eq_or_of_lt n.isLt, ← Nat.shiftLeft_add_eq_or_of_lt c.isLt,
    ← Nat.shiftLeft_add_eq_or_of_lt spare.isLt]
  simp only [Nat.shiftLeft_eq, BitVec.toNat_ofNat]
  omega

theorem receive_servoWords (f : ServoFields) (spare : BitVec 3) : receive (servoWords f spare) = .servo f := by
  have hkind : (servoHeader f spare).extractLsb' 14 2 = 1#2 := by
    rw [servoHeader]
    iterate 5 rw [BitVec.extractLsb'_append_eq_of_le (by decide)]
    exact BitVec.extractLsb'_append_eq_left
  rw [servoWords, receive_sealFrame, receiveChecked, if_pos hkind, receiveServo, servoFields_servoHeader]

theorem receive_managementWords (c : BitVec 4) (payload : List Word) (spare : BitVec 6) (hc : c.toNat ≤ 8)
    (h1 : 1 ≤ payload.length) (h8 : payload.length ≤ 8) :
    receive (managementWords c payload spare) = .management (payload.take c.toNat) (payload.drop c.toNat) := by
  have hspare := spare.isLt
  have hn : (BitVec.ofNat 4 payload.length).toNat = payload.length := Nat.mod_eq_of_lt (by omega)
  have hheader := managementHeader_toNat c (BitVec.ofNat 4 payload.length) spare
  rw [hn] at hheader
  rw [managementWords, receive_sealFrame]
  generalize managementHeader c (BitVec.ofNat 4 payload.length) spare = header at hheader ⊢
  obtain ⟨hk, -⟩ | ⟨-, he⟩ | ⟨⟨-, hk⟩, -⟩ := receiveChecked_cases header payload
  · omega
  · have hform : ManagementFormed header.toNat (payload.length + 2) := ⟨by omega, by omega, by omega, by omega⟩
    have hcount : header.toNat / 16 % 16 = c.toNat := by omega
    rw [he, receiveManagement_eq, if_pos hform, hcount]
  · omega

/-- Settles O52: a sealed frame passes its check, and its header's places are read as they were written. -/
theorem framesAreReceivedAsSent : Obligations.FramesAreReceivedAsSent :=
  ⟨receive_servoWords, fun c payload spare hc h1 h8 => receive_managementWords c payload spare hc h1 h8,
    fun code l imm => ⟨Machine.commandFields_commandWord l code imm, commandWord_toNat code l imm⟩⟩

end Sys2Proof
end

section
/-! SUPPORT. The link check (R131) is linear, so what it says of a received frame is the register that the wrong places
alone leave; one or two wrong places within 160 leave it other than 0. -/

namespace Sys2Proof

/-! ## The register is linear -/

/-- What a feedback bit adds to the doubled register (R131). -/
def feedback (bit : Bool) : Word := if bit then 4129#16 else 0#16

theorem feedback_xor (x y : Bool) : feedback (x ^^ y) = feedback x ^^^ feedback y := by cases x <;> cases y <;> rfl

theorem crcBit_eq (r : Word) (bit : Bool) : crcBit r bit = r <<< 1 ^^^ (feedback r.msb ^^^ feedback bit) := by
  rw [← feedback_xor, crcBit, feedback, Bool.bne_eq_xor]
  split
  · rfl
  · exact BitVec.xor_zero.symm

theorem crcBit_xor (a b : Word) (x y : Bool) : crcBit (a ^^^ b) (x ^^ y) = crcBit a x ^^^ crcBit b y := by
  simp only [crcBit_eq, BitVec.shiftLeft_xor_distrib, BitVec.msb_xor, feedback_xor]
  ac_rfl

theorem foldl_crcBit_xor (v w : Word) (places : List Nat) (a b : Word) :
    places.foldl (fun r i => crcBit r ((v ^^^ w).getLsbD i)) (a ^^^ b) =
      places.foldl (fun r i => crcBit r (v.getLsbD i)) a ^^^ places.foldl (fun r i => crcBit r (w.getLsbD i)) b := by
  induction places generalizing a b with
  | nil => rfl
  | cons i places ih => rw [List.foldl_cons, BitVec.getLsbD_xor, crcBit_xor, ih]; rfl

theorem crcWord_xor (a b v w : Word) : crcWord (a ^^^ b) (v ^^^ w) = crcWord a v ^^^ crcWord b w :=
  foldl_crcBit_xor v w _ a b

theorem foldl_crcWord_xor {words wrong : List Word} (h : words.length = wrong.length) (a b : Word) :
    (List.zipWith (fun v m => v ^^^ m) words wrong).foldl crcWord (a ^^^ b) =
      words.foldl crcWord a ^^^ wrong.foldl crcWord b := by
  induction words generalizing wrong a b with
  | nil => rw [List.length_eq_zero_iff.mp h.symm]; rfl
  | cons v words ih =>
    obtain ⟨m, wrong, rfl⟩ := List.exists_cons_of_length_eq_add_one h.symm
    rw [List.zipWith_cons_cons, List.foldl_cons, crcWord_xor, ih (Nat.succ.inj h)]
    rfl

/-! ## The register at the end of a frame -/

/-- The register's own places, highest first, shift it out. -/
theorem foldl_crcBit_self (r : Word) {k : Nat} (hk : k ≤ 16) :
    (List.range k).foldl (fun q i => crcBit q (r.getLsbD (15 - i))) r = r <<< k := by
  induction k with
  | zero => exact (BitVec.shiftLeft_zero r).symm
  | succ k ih =>
    have hmsb : (r <<< k).msb = r.getLsbD (15 - k) := by
      rw [BitVec.msb_eq_getLsbD_last, BitVec.getLsbD_shiftLeft, decide_eq_true (by decide), decide_eq_false (by omega)]
      rfl
    rw [List.range_succ, List.foldl_concat, ih (by omega), crcBit, hmsb, bne_self_eq_false, if_neg Bool.false_ne_true,
      BitVec.shiftLeft_add]

theorem crcWord_self (r : Word) : crcWord r r = 0 :=
  (foldl_crcBit_self r (Nat.le_refl 16)).trans (BitVec.shiftLeft_eq_zero (Nat.le_refl 16))

theorem linkCheck_sealFrame (words : List Word) : linkCheck (sealFrame words) = 0 := by
  rw [linkCheck, sealFrame, List.foldl_concat]
  exact crcWord_self (linkCheck words)

/-- The register ends at 0 over every frame that passes the check, so a frame that leaves it elsewhere fails it. -/
theorem linkCheck_of_checked {words : List Word} (h : Checked words) : linkCheck words = 0 := by
  have hne : words ≠ [] := List.ne_nil_of_length_pos (Nat.zero_lt_of_lt h.1)
  have hlast : words.getLast hne = linkCheck words.dropLast :=
    Option.some.inj ((List.getLast?_eq_some_getLast hne).symm.trans h.2)
  have hseal := linkCheck_sealFrame words.dropLast
  rwa [sealFrame, ← hlast, List.dropLast_append_getLast] at hseal

/-! ## Wrong places -/

/-- The places of a word, highest first. -/
def wordPlaces (w : Word) : List Bool := [15, 14, 13, 12, 11, 10, 9, 8, 7, 6, 5, 4, 3, 2, 1, 0].map w.getLsbD

theorem crcWord_eq_foldl_places (r w : Word) : crcWord r w = (wordPlaces w).foldl crcBit r := List.foldl_map.symm

theorem foldl_crcWord_eq_foldl_places (words : List Word) (r : Word) :
    words.foldl crcWord r = (words.flatMap wordPlaces).foldl crcBit r := by
  rw [List.foldl_flatMap, show crcWord = _ from funext₂ crcWord_eq_foldl_places]

theorem count_wordPlaces (w : Word) :
    (wordPlaces w).count true = ((List.range 16).filter fun i => w.getLsbD i).length := by
  rw [show wordPlaces w = ((List.range 16).map w.getLsbD).reverse from rfl, List.count_reverse, List.count,
    List.countP_map, List.countP_eq_length_filter]
  simp only [Function.comp_def, beq_true]

theorem count_places (words : List Word) :
    (words.flatMap wordPlaces).count true =
      (words.map fun w => ((List.range 16).filter fun i => w.getLsbD i).length).sum := by
  rw [List.count_flatMap]
  simp only [Function.comp_def, count_wordPlaces]

theorem length_places (words : List Word) : (words.flatMap wordPlaces).length = words.length * 16 := by
  rw [List.length_flatMap, show (fun w => (wordPlaces w).length) = fun _ => 16 from rfl]
  simp

/-- A right place empties no register. -/
theorem crcBit_false_ne_zero {r : Word} (h : r ≠ 0) : crcBit r false ≠ 0 := by
  have hr : r.toNat ≠ 0 := fun hn => h (BitVec.eq_of_toNat_eq hn)
  have hlt := r.isLt
  rw [crcBit, Bool.bne_false]
  split
  · intro hzero
    have hplace : (r <<< 1 ^^^ 4129#16).getLsbD 0 = true := by simp
    rw [hzero] at hplace
    cases hplace
  · rename_i hmsb
    rw [BitVec.msb_eq_decide, decide_eq_true_eq] at hmsb
    intro hzero
    have hdouble : r.toNat * 2 ^ 1 % 2 ^ 16 = 0 := by
      rw [← Nat.shiftLeft_eq, ← BitVec.toNat_shiftLeft, hzero]
      rfl
    omega

theorem foldl_ne_zero_of_right {r : Word} (hr : r ≠ 0) {places : List Bool} (h : places.count true = 0) :
    places.foldl crcBit r ≠ 0 := by
  induction places generalizing r with
  | nil => exact hr
  | cons wrong places ih =>
    cases wrong with
    | true => simp at h
    | false => exact ih (crcBit_false_ne_zero hr) (by simpa using h)

/-- The register after one wrong place and `d` right ones. -/
def afterWrong (d : Nat) : Word := (crcBit · false)^[d] 4129#16

theorem afterWrong_succ (d : Nat) : crcBit (afterWrong d) false = afterWrong (d + 1) :=
  (Function.iterate_succ_apply' (crcBit · false) d 4129#16).symm

/-- Within 160 places the register of one wrong place does not come round, so no second one cancels it. -/
theorem afterWrong_ne : ∀ d < 159, afterWrong (d + 1) ≠ 4129#16 := by decide +kernel

/-- A second wrong place within 160 places leaves the register other than 0. -/
theorem foldl_afterWrong_ne_zero {d : Nat} {places : List Bool} (h : places.count true = 1)
    (hd : d + places.length ≤ 159) : places.foldl crcBit (afterWrong d) ≠ 0 := by
  induction places generalizing d with
  | nil => simp at h
  | cons wrong places ih =>
    rw [List.length_cons] at hd
    cases wrong with
    | true =>
      have hsecond : crcBit (afterWrong d) true = afterWrong (d + 1) ^^^ 4129#16 := by
        rw [← afterWrong_succ, crcBit_eq, crcBit_eq, show feedback false = 0#16 from rfl, BitVec.xor_zero,
          ← BitVec.xor_assoc]
        rfl
      rw [List.foldl_cons, hsecond]
      exact foldl_ne_zero_of_right (mt BitVec.xor_eq_zero_iff.mp (afterWrong_ne d (by omega))) (by simpa using h)
    | false =>
      rw [List.foldl_cons, afterWrong_succ]
      exact ih (by simpa using h) (by omega)

/-- One or two wrong places within 160 leave a register of 0 other than 0. -/
theorem foldl_wrong_ne_zero {places : List Bool} (h : places.count true = 1 ∨ places.count true = 2)
    (hlength : places.length ≤ 160) : places.foldl crcBit 0 ≠ 0 := by
  induction places with
  | nil => simp at h
  | cons wrong places ih =>
    rw [List.length_cons] at hlength
    cases wrong with
    | true =>
      rw [List.foldl_cons, show crcBit 0 true = afterWrong 0 from rfl]
      obtain h | h := h
      · exact foldl_ne_zero_of_right (by decide) (by simpa using h)
      · exact foldl_afterWrong_ne_zero (by simpa using h) (by omega)
    | false => exact ih (by simpa using h) (by omega)

theorem receive_wrong_places {words wrong : List Word} (hwords : words.length ≤ 9)
    (hlength : wrong.length = words.length + 1)
    (h : (wrong.flatMap wordPlaces).count true = 1 ∨ (wrong.flatMap wordPlaces).count true = 2) :
    receive (List.zipWith (fun a m => a ^^^ m) (sealFrame words) wrong) = .discarded .badCheck := by
  rw [receive_badCheck_iff]
  intro hchecked
  have hregister : wrong.foldl crcWord 0 = 0 := by
    have hsealed : (sealFrame words).length = wrong.length := by rw [hlength, sealFrame, List.length_append]; rfl
    have hsum := foldl_crcWord_xor hsealed 65535#16 0#16
    rw [BitVec.xor_zero, ← linkCheck, ← linkCheck, linkCheck_of_checked hchecked, linkCheck_sealFrame] at hsum
    exact (hsum.trans BitVec.zero_xor).symm
  rw [foldl_crcWord_eq_foldl_places] at hregister
  exact foldl_wrong_ne_zero h (by rw [length_places]; omega) hregister

/-- Settles O53: the register of a frame with wrong places is the one that the wrong places alone leave. -/
theorem linkCheckFindsWrongPlaces : Obligations.LinkCheckFindsWrongPlaces :=
  ⟨rfl, by decide +kernel, linkCheck_sealFrame, fun _ wrong hwords hlength h =>
    receive_wrong_places hwords hlength (by rwa [count_places wrong])⟩

end Sys2Proof
end

section
/-! SUPPORT. The words of a return frame (R137 to R139, R142), and a frame that is discarded (R133). -/

namespace Sys2Proof.Machine

variable (s : State)

/-! ## Return frames (R137 to R139, R142) -/

/-- The header of a return frame shows the Notice Queue's attention and its payload's transfer marks. -/
theorem returnWords_eq (e : Echo) (q : NoticeQueue) (payload : List QueuedWord) :
    returnWords e q.attention payload =
      sealFrame (BitVec.ofNat 16
          (e.kind * 16384 + e.lane.toNat * 8192 + e.status.code * 2048 + (if q.records = [] then 0 else 1024)
            + (if e.linkError then 512 else 0) + payload.length * 64 + transferMarks payload)
        :: e.wedge :: e.correction :: payload.map QueuedWord.word) := by
  have ha : (if q.attention = true then 1024 else 0) = if q.records = [] then 0 else 1024 := by
    unfold NoticeQueue.attention
    cases q.records <;> rfl
  rw [returnWords, returnHeader, ha, natWord]

/-- The return frame of a management frame: kind 2, every other field of the echo 0 (R137). -/
theorem returnWords_management (q : NoticeQueue) (payload : List QueuedWord) :
    returnWords .management q.attention payload =
      sealFrame (BitVec.ofNat 16
          (2 * 16384 + (if q.records = [] then 0 else 1024) + payload.length * 64 + transferMarks payload)
        :: 0 :: 0 :: payload.map QueuedWord.word) := by
  rw [returnWords_eq]
  simp only [Echo.management, Lane.toNat, OutStatus.code, Nat.zero_mul, Nat.add_zero, Bool.false_eq_true, if_false]

/-- The return frame of a discarded frame: kind 0, with the link-error flag (R137, R139). -/
theorem returnWords_discarded {q : NoticeQueue} (h : q.records ≠ []) (payload : List QueuedWord) :
    returnWords .discarded q.attention payload =
      sealFrame (BitVec.ofNat 16 (1024 + 512 + payload.length * 64 + transferMarks payload)
        :: 0 :: 0 :: payload.map QueuedWord.word) := by
  rw [returnWords_eq, if_neg h]
  simp only [Echo.discarded, Lane.toNat, OutStatus.code, Nat.zero_mul, Nat.zero_add, if_true]

/-- A return frame is sent, and the reception of the frame that it answers ends. -/
theorem State.sendReturn_hold (v : State) (e : Echo) {frame : List Word}
    (h : returnWords e v.notices.attention (v.responses.take 4) = frame) :
    (v.sendReturn e).hold [] =
      { v with
        responses := v.responses.drop 4
        link := { v.link with receiving := [] }
        ports := { v.ports with upstream := v.ports.upstream ++ [frame], upstreamBegun := true } } := by
  subst h
  rfl

/-! ## A discarded frame (R133) -/

theorem State.downstream_discarded {words : List Word} {cause : DiscardCause} (h : receive words = .discarded cause)
    (slots : EngineSlots) : s.downstream words slots = ((s.hold words).discardFrame cause).hold [] := by
  rw [State.downstream, h]

/-- Settles O51: the discarded frame's count, notice and return frame, and each cause by the checks in their order. -/
theorem discardedFrame : Obligations.DiscardedFrame := by
  intro words s
  refine ⟨fun cause h => ?_, ?_, (receive_undefinedKind_iff words).trans and_assoc, ?_⟩
  · have hnotice : (s.notices.add .linkCheck none cause.detail).records ≠ [] := NoticeQueue.add_ne_nil _ _ _ _
    refine ⟨s.notices.add .linkCheck none cause.detail, by cases cause <;> rfl, hnotice, ?_⟩
    exact congrArg Host.Outcome.next ((State.downstream_discarded s h .none).trans
      (State.sendReturn_hold _ _ (returnWords_discarded hnotice _)))
  · rw [receive_badCheck_iff, Checked, not_and_or, Nat.not_le]
  · intro header n c
    rw [receive_malformed_iff, Checked, and_assoc]
    simp only [ManagementFormed, not_and_or, Nat.not_le]
    rfl

end Sys2Proof.Machine
end

section
/-! SUPPORT. The header and the trailer of a block (R171, R172, R173). -/

namespace Sys2Proof.Machine

variable {s : State} {n : SetNo}

theorem execBlockHeaderAppend_eq (ha : s.transfer.state = .active) (hm : s.transfer.mode ≠ .copy)
    (hc : s.transfer.current = some n) (hf : s.fits) (hp : s.transfer.phase = .header) :
    execBlockHeaderAppend s = .next (s.appendHeader n) := by
  obtain ⟨-, hheader, -, -⟩ := State.due_block ha hm
  have hdue : s.due = some (.header n) := by
    rw [hheader hp, if_pos (s.admitsTransferWord_iff.mpr hf), hc, Option.map_some]
  rw [execBlockHeaderAppend, hdue]

theorem execBlockTrailerAppend_eq (ha : s.transfer.state = .active) (hm : s.transfer.mode ≠ .copy)
    (hc : s.transfer.current = some n) (hf : s.fits) (hp : s.transfer.phase = .trailer) :
    execBlockTrailerAppend s = .next (s.appendTrailer n) := by
  obtain ⟨-, -, -, htrailer⟩ := State.due_block ha hm
  have hdue : s.due = some (.trailer n) := by
    rw [htrailer hp, if_pos (s.admitsTransferWord_iff.mpr hf), hc, Option.map_some]
  rw [execBlockTrailerAppend, hdue]

/-- The last trailer of a DUMP or a SWEEP ends the transfer COMPLETE; a SWEEP has released its set before (R172,
R173). -/
theorem State.appendTrailer_eq_endTransfer (hm : s.transfer.mode ≠ .copy)
    (he : s.transfer.mode = .dump ∨ s.transfer.remaining = 0) (n : SetNo) :
    ∃ records : Vector SetRecord 48,
      s.appendTrailer n =
          State.endTransfer
            { s with
              bank := { s.bank with records := records }
              responses := s.responses ++ [⟨.transfer, transferTrailer n s.transfer.setBadWords⟩] }
            .complete
        ∧ ∀ m : SetNo, { records[m.val] with hold := .none } = { s.record m with hold := .none } := by
  cases hmode : s.transfer.mode with
  | copy => exact absurd hmode hm
  | dump => exact ⟨s.bank.records, by rw [State.appendTrailer, hmode]; rfl, fun _ => rfl⟩
  | sweep =>
    have hr : s.transfer.remaining = 0 := he.resolve_left (by rw [hmode]; decide)
    refine ⟨s.bank.records.set n.val { s.record n with hold := .none }, ?_, fun m => ?_⟩
    · rw [State.appendTrailer, hmode]
      exact if_pos hr
    · rw [Vector.getElem_set]
      split
      · obtain rfl : n = m := Fin.ext ‹_›
        rfl
      · rfl

theorem State.appendTrailer_ended (hm : s.transfer.mode ≠ .copy)
    (he : s.transfer.mode = .dump ∨ s.transfer.remaining = 0) (n : SetNo) :
    s.appendTrailer n =
        { s with
          bank := { s.bank with records := (s.appendTrailer n).bank.records }
          responses := s.responses ++ [⟨.transfer, transferTrailer n s.transfer.setBadWords⟩]
          notices := s.notices.add .transferDone none 0
          transfer := { s.transfer with state := .done, outcome := some .complete } }
      ∧ ∀ m : SetNo, (s.appendTrailer n).record m = { s.record m with hold := .none } := by
  obtain ⟨records, happend, hrecords⟩ := State.appendTrailer_eq_endTransfer hm he n
  rw [happend, State.endTransfer_eq]
  · exact ⟨rfl, fun m => (State.releaseHolds_record _ m).trans (hrecords m)⟩
  · exact .inl hm

/-- The trailer of a SWEEP with words left releases the set and goes on to the next one (R173). -/
theorem State.appendTrailer_goes_on (hm : s.transfer.mode = .sweep) (hr : s.transfer.remaining ≠ 0) (n : SetNo) :
    s.appendTrailer n =
      ((s.enqueue .transfer [transferTrailer n s.transfer.setBadWords]).onRecord n
        fun r => { r with hold := .none }).sweepNext n := by
  rw [State.appendTrailer, hm]
  exact if_neg hr

/-- Settles O33: header and trailer are due in their phases while there is room, and the trailer by its mode. -/
theorem blockHeaderAndTrailer : Obligations.BlockHeaderAndTrailer := by
  intro n s ha hm hc hwords hlength count ended
  have hf : s.fits := ⟨hwords, hlength⟩
  refine ⟨fun hp => (execBlockHeaderAppend_eq ha hm hc hf hp).trans rfl, fun hp he => ?_, fun hp hs hr => ?_⟩
  · exact ⟨_, execBlockTrailerAppend_eq ha hm hc hf hp, State.appendTrailer_ended hm he n⟩
  · rw [show exec .blockTrailerAppend s = _ from execBlockTrailerAppend_eq ha hm hc hf hp,
      State.appendTrailer_goes_on hs hr]
    rfl

end Sys2Proof.Machine
end

section
/-! SUPPORT. The Command Decoder and all that it reaches neither read nor change the queue of waiting commands, the Link
Interface and the outgoing ports (R136, R144): each operation commutes with a change of these three. -/

namespace Sys2Proof.Machine

/-- What surrounds the decoder: the commands that wait, the Link Interface and the outgoing ports. -/
structure Surroundings where
  pending : List Instr
  link : Link
  ports : Ports

/-- The state in other surroundings. -/
def State.amid (s : State) (o : Surroundings) : State :=
  { s with pending := o.pending, link := o.link, ports := o.ports }

/-- A state's own surroundings. -/
def State.surroundings (s : State) : Surroundings := ⟨s.pending, s.link, s.ports⟩

variable (s : State) (o : Surroundings) (l : Lane) (n : SetNo)

theorem State.amid_surroundings : s.amid s.surroundings = s := rfl

@[simp] theorem State.amid_pending : (s.amid o).pending = o.pending := (rfl)
@[simp] theorem State.amid_link : (s.amid o).link = o.link := (rfl)
@[simp] theorem State.amid_ports : (s.amid o).ports = o.ports := (rfl)
@[simp] theorem State.amid_cond : (s.amid o).cond = s.cond := (rfl)
@[simp] theorem State.amid_lane0 : (s.amid o).lane0 = s.lane0 := (rfl)
@[simp] theorem State.amid_lane1 : (s.amid o).lane1 = s.lane1 := (rfl)
@[simp] theorem State.amid_bank : (s.amid o).bank = s.bank := (rfl)
@[simp] theorem State.amid_decoder : (s.amid o).decoder = s.decoder := (rfl)
@[simp] theorem State.amid_responses : (s.amid o).responses = s.responses := (rfl)
@[simp] theorem State.amid_transfer : (s.amid o).transfer = s.transfer := (rfl)
@[simp] theorem State.amid_notices : (s.amid o).notices = s.notices := (rfl)
@[simp] theorem State.amid_counters : (s.amid o).counters = s.counters := (rfl)
@[simp] theorem State.amid_lane : (s.amid o).lane l = s.lane l := by cases l <;> rfl
@[simp] theorem State.amid_record : (s.amid o).record n = s.record n := (rfl)
@[simp] theorem State.amid_cell (w : Nat) : (s.amid o).cell n w = s.cell n w := (rfl)

/-! ## Updates -/

@[simp] theorem State.setLane_amid (x : LaneState) : (s.amid o).setLane l x = (s.setLane l x).amid o := (rfl)
@[simp] theorem State.onSelection_amid (f : Selection → Selection) :
    (s.amid o).onSelection l f = (s.onSelection l f).amid o := by simp [State.onSelection]
@[simp] theorem State.onFilter_amid (f : Filter → Filter) : (s.amid o).onFilter l f = (s.onFilter l f).amid o := by
  simp [State.onFilter]
@[simp] theorem State.onAdapt_amid (f : Adaptation → Adaptation) :
    (s.amid o).onAdapt l f = (s.onAdapt l f).amid o := by simp [State.onAdapt]
@[simp] theorem State.onCampaign_amid (f : Campaign → Campaign) :
    (s.amid o).onCampaign l f = (s.onCampaign l f).amid o := by simp [State.onCampaign]
@[simp] theorem State.onControl_amid (f : Control → Control) :
    (s.amid o).onControl l f = (s.onControl l f).amid o := by simp [State.onControl]
@[simp] theorem State.onRecord_amid (f : SetRecord → SetRecord) :
    (s.amid o).onRecord n f = (s.onRecord n f).amid o := (rfl)
@[simp] theorem State.setSetState_amid (st : SetState) :
    (s.amid o).setSetState n st = (s.setSetState n st).amid o := (rfl)
@[simp] theorem State.writeWord_amid (w : Nat) (v : Word) :
    (s.amid o).writeWord n w v = (s.writeWord n w v).amid o := (rfl)
@[simp] theorem State.writeWords_amid (w : Nat) (vs : List Word) :
    (s.amid o).writeWords n w vs = (s.writeWords n w vs).amid o := by
  induction vs generalizing s w with
  | nil => rfl
  | cons v vs ih => simp [State.writeWords, ih]
@[simp] theorem State.notify_amid (kind : NoticeKind) (lane : Option Lane) (d : Nat) :
    (s.amid o).notify kind lane d = (s.notify kind lane d).amid o := (rfl)
@[simp] theorem State.releaseHolds_amid : (s.amid o).releaseHolds = s.releaseHolds.amid o := (rfl)
@[simp] theorem State.enqueue_amid (src : Source) (ws : List Word) :
    (s.amid o).enqueue src ws = (s.enqueue src ws).amid o := (rfl)
@[simp] theorem State.respond_amid (code : BitVec 6) (r : Reply) :
    (s.amid o).respond code r = (s.respond code r).amid o := (rfl)
@[simp] theorem State.setPointer_amid (p : Pointer) : (s.amid o).setPointer p = (s.setPointer p).amid o := (rfl)
@[simp] theorem State.clearCommand_amid : (s.amid o).clearCommand = s.clearCommand.amid o := (rfl)
@[simp] theorem State.holdCommand_amid (p : PendingCommand) :
    (s.amid o).holdCommand p = (s.holdCommand p).amid o := (rfl)
@[simp] theorem State.turnAway_amid : (s.amid o).turnAway = s.turnAway.amid o := (rfl)

/-! ## The bank and its transfers -/

@[simp] theorem State.clampSet_amid : (s.amid o).clampSet n = (s.clampSet n).amid o := by simp [State.clampSet]

@[simp] theorem State.completeCopy_amid : (s.amid o).completeCopy n = (s.completeCopy n).amid o := by
  simp [State.completeCopy]

@[simp] theorem State.finishCopy_amid (r : TransferOutcome) : (s.amid o).finishCopy r = (s.finishCopy r).amid o := by
  simp only [State.finishCopy, State.amid_transfer]
  split
  · simp
  · rfl

@[simp] theorem State.endTransfer_amid (r : TransferOutcome) :
    (s.amid o).endTransfer r = (s.endTransfer r).amid o := by
  simp only [State.endTransfer, State.releaseHolds_amid, State.finishCopy_amid]
  rfl

@[simp] theorem State.dropCurrent_amid : (s.amid o).dropCurrent l = (s.dropCurrent l).amid o := by
  simp [State.dropCurrent]

@[simp] theorem State.dropCurrentIf_amid : (s.amid o).dropCurrentIf n l = (s.dropCurrentIf n l).amid o := by
  simp only [State.dropCurrentIf, State.amid_lane, State.dropCurrent_amid]
  split <;> rfl

@[simp] theorem State.sourceQuarantined_amid : (s.amid o).sourceQuarantined n = (s.sourceQuarantined n).amid o := by
  simp only [State.sourceQuarantined, State.amid_transfer, State.endTransfer_amid]
  split_ifs <;> rfl

@[simp] theorem State.sourceReady_amid : (s.amid o).sourceReady n = (s.sourceReady n).amid o := by
  simp only [State.sourceReady, State.amid_transfer]
  split <;> rfl

@[simp] theorem State.quarantine_amid : (s.amid o).quarantine n = (s.quarantine n).amid o := by simp [State.quarantine]

@[simp] theorem State.doubleError_amid : (s.amid o).doubleError n = (s.doubleError n).amid o := by
  simp only [State.doubleError, State.amid_record]
  split
  · rfl
  · rfl
  · exact State.quarantine_amid
      { s with counters := { s.counters with storageError := raised s.counters.storageError 1 } } o n

@[simp] theorem State.readWord_amid (w : Nat) :
    (s.amid o).readWord n w = ((s.readWord n w).1.amid o, (s.readWord n w).2) := by
  simp only [State.readWord, State.amid_cell, State.doubleError_amid]
  split <;> rfl

@[simp] theorem State.readAll_amid (ws : List Nat) :
    (s.amid o).readAll n ws = ((s.readAll n ws).1.amid o, (s.readAll n ws).2) := by
  induction ws generalizing s with
  | nil => rfl
  | cons w ws ih => simp [State.readAll, ih]

/-! ## Lanes -/

@[simp] theorem State.releaseCurrent_amid : (s.amid o).releaseCurrent l = (s.releaseCurrent l).amid o := by
  simp only [State.releaseCurrent, State.amid_lane, State.amid_record, State.setSetState_amid]
  split
  · split <;> exact State.dropCurrent_amid _ o l
  · exact State.dropCurrent_amid _ o l

@[simp] theorem State.cancelWindow_amid : (s.amid o).cancelWindow l = (s.cancelWindow l).amid o := by
  simp only [State.cancelWindow, State.amid_lane, State.onAdapt_amid, State.notify_amid]
  split <;> rfl

@[simp] theorem State.abortCampaign_amid (d : Nat) : (s.amid o).abortCampaign l d = (s.abortCampaign l d).amid o := by
  simp only [State.abortCampaign, State.amid_lane, State.onCampaign_amid, State.notify_amid]
  split <;> rfl

@[simp] theorem State.leaveRunning_amid (d : Nat) (m : LaneMode) :
    (s.amid o).leaveRunning l d m = (s.leaveRunning l d m).amid o := by simp [State.leaveRunning]

@[simp] theorem State.armLane_amid (m : LaneMode) : (s.amid o).armLane l m = (s.armLane l m).amid o := by
  simp [State.armLane]

@[simp] theorem State.moveLane_amid (m : LaneMode) : (s.amid o).moveLane l m = (s.moveLane l m).amid o := by
  simp only [State.moveLane, State.amid_lane, State.leaveRunning_amid, State.onControl_amid]
  split <;> rfl

/-! ## Commands (R160) -/

/-- An operation with a result of its own is blind to the surroundings: it leaves them, and neither the rest of the
state nor the result depends on them. -/
def Blind {α : Type} (f : State → State × α) : Prop :=
  ∀ (s : State) (o : Surroundings), f (s.amid o) = ((f s).1.amid o, (f s).2)

theorem Blind.surroundings {α : Type} {f : State → State × α} (h : Blind f) (s : State) :
    (f s).1.surroundings = s.surroundings := by
  have hs := congrArg Prod.fst (h s s.surroundings)
  rw [State.amid_surroundings] at hs
  rw [hs]
  rfl

theorem State.pointCommand_blind (imm : BitVec 9) (addr : Word) : Blind (·.pointCommand imm addr) := by
  intro s o
  simp only [State.pointCommand, State.amid_decoder, State.setPointer_amid]
  split_ifs <;> rfl

theorem State.readBank_blind (k : Nat) : Blind (·.readBank k) := by
  intro s o
  simp only [State.readBank, State.amid_decoder, State.readAll_amid]
  split <;> rfl

theorem State.item_amid (r : Region) (a : Nat) : (s.amid o).item r l a = s.item r l a := by
  cases r <;> cases l <;> rfl

theorem State.readItems_blind (k : Nat) : Blind (·.readItems k) := by
  intro s o
  simp only [State.readItems, State.amid_decoder, State.item_amid]

theorem State.advanceRead_amid (k : Nat) : (s.amid o).advanceRead k = (s.advanceRead k).amid o := by
  simp only [State.advanceRead, State.amid_decoder, State.setPointer_amid]
  split <;> rfl

theorem State.readCommand_blind (imm : BitVec 9) : Blind (·.readCommand imm) := by
  intro s o
  have hcount : (s.amid o).readCount imm.toNat = s.readCount imm.toNat := rfl
  simp only [State.readCommand, State.amid_decoder, hcount, State.readBank_blind _ s o, State.readItems_blind _ s o]
  split_ifs
  · rfl
  · rw [State.advanceRead_amid]
  · rw [State.advanceRead_amid]

theorem State.patchOpen_blind : Blind State.patchOpen := by
  intro s o
  simp only [State.patchOpen, State.amid_decoder]
  split <;> rfl

theorem State.patchClose_blind : Blind State.patchClose := by
  intro s o
  simp only [State.patchClose, State.amid_decoder]
  split <;> rfl

theorem State.commitLoading_blind : Blind (·.commitLoading n) := by
  intro s o
  simp only [State.commitLoading, State.readAll_amid]
  generalize s.readAll n allWords = r
  obtain ⟨u, found⟩ := r
  simp only [State.clampSet_amid, State.onRecord_amid, State.sourceReady_amid]
  split <;> rfl

theorem State.commitSet_blind (imm : BitVec 9) : Blind (·.commitSet imm) := by
  intro s o
  simp only [State.commitSet, State.commitKnown, State.amid_record, State.commitLoading_blind _ s o]
  split
  · rfl
  · split
    · split <;> rfl
    all_goals rfl

theorem State.freeSet_blind (imm : BitVec 9) : Blind (·.freeSet imm) := by
  intro s o
  simp only [State.freeSet, State.zeroSet, State.amid_record, State.writeWords_amid, State.onRecord_amid]
  split
  · rfl
  · split <;> rfl

theorem State.unfreezeSet_blind (imm : BitVec 9) : Blind (·.unfreezeSet imm) := by
  intro s o
  simp only [State.unfreezeSet, State.amid_record, State.onRecord_amid]
  split
  · rfl
  · split <;> rfl

theorem State.laneEnable_blind : Blind (·.laneEnable l) := by
  intro s o
  simp only [State.laneEnable, State.amid_lane, State.armLane_amid]
  split <;> rfl

theorem State.laneStart_blind : Blind (·.laneStart l) := by
  intro s o
  simp only [State.laneStart, State.amid_lane, State.amid_cond, State.armLane_amid]
  split_ifs <;> rfl

theorem State.laneStop_blind : Blind (·.laneStop l) := by
  intro s o
  simp only [State.laneStop, State.amid_lane, State.moveLane_amid]
  split <;> rfl

theorem State.laneOff_blind : Blind (·.laneOff l) := by
  intro s o
  simp only [State.laneOff, State.moveLane_amid]

theorem State.adaptWindow_blind (length : Word) : Blind (·.adaptWindow l length) := by
  intro s o
  simp only [State.adaptWindow, State.amid_lane, State.onAdapt_amid]
  split_ifs <;> rfl

theorem State.probeStart_blind (length amplitude : Word) : Blind (·.probeStart l length amplitude) := by
  intro s o
  simp only [State.probeStart, State.amid_lane, State.onCampaign_amid]
  split_ifs <;> rfl

theorem State.probeStop_blind : Blind (·.probeStop l) := by
  intro s o
  simp only [State.probeStop, State.amid_lane, State.abortCampaign_amid]
  split <;> rfl

theorem State.applyBusy_amid : (s.amid o).applyBusy n = (s.applyBusy n).amid o := by
  simp only [State.applyBusy, State.amid_record, State.amid_transfer, State.endTransfer_amid]
  split_ifs <;> rfl

theorem State.startCopy_blind (a : TransferArgs) (source dest : SetNo) : Blind (·.startCopy a source dest) := by
  intro s o
  simp only [State.startCopy, State.amid_record]
  split
  · rfl
  · exact congrArg (·, Reply.bare .ok) (State.applyBusy_amid
      ((State.holdSource { s with transfer := Transfer.begin a .copy source Config.setWords (some dest) }
        source).holdDestination dest) o source)

theorem State.startDump_blind (a : TransferArgs) (source : SetNo) (count : Nat) :
    Blind (·.startDump a source count) := by
  intro s o
  simp only [State.startDump, State.amid_record]
  split
  · rfl
  · exact congrArg (·, Reply.bare .ok) (State.applyBusy_amid
      (State.holdSource { s with transfer := Transfer.begin a .dump source count none } source) o source)

theorem State.transferStart_blind (first second : Word) : Blind (·.transferStart first second) := by
  intro s o
  simp only [State.transferStart, State.amid_transfer, State.startCopy_blind _ _ _ s o, State.startDump_blind _ _ _ s o]
  split
  · rfl
  · split
    · rfl
    · split <;> rfl

theorem State.transferAbort_blind : Blind State.transferAbort := by
  intro s o
  simp only [State.transferAbort, State.amid_transfer, State.endTransfer_amid]
  split <;> rfl

theorem State.fetchNotices_blind (imm : BitVec 9) (room : Nat) : Blind (·.fetchNotices imm room) := by
  intro s o
  simp only [State.fetchNotices, State.amid_notices]
  split <;> rfl

/-- No command sees or changes the surroundings. -/
theorem State.runCommand_blind (f : CommandFields) (args : List Word) (room : Nat) :
    Blind (·.runCommand f args room) := by
  intro s o
  unfold State.runCommand
  split
  · rfl
  · exact State.pointCommand_blind _ _ s o
  · exact State.readCommand_blind _ s o
  · exact State.patchOpen_blind s o
  · exact State.patchClose_blind s o
  · exact State.commitSet_blind _ s o
  · exact State.freeSet_blind _ s o
  · exact State.unfreezeSet_blind _ s o
  · exact State.laneEnable_blind _ s o
  · exact State.laneStart_blind _ s o
  · exact State.laneStop_blind _ s o
  · exact State.laneOff_blind _ s o
  · exact State.adaptWindow_blind _ _ s o
  · exact State.probeStart_blind _ _ _ s o
  · exact State.probeStop_blind _ s o
  · exact State.transferStart_blind _ _ s o
  · exact State.transferAbort_blind s o
  · rfl
  · exact State.fetchNotices_blind _ _ s o
  all_goals rfl

theorem State.execCommand_amid (f : CommandFields) (args : List Word) (following : Nat) (hasData : Bool) :
    (s.amid o).execCommand f args following hasData = (s.execCommand f args following hasData).amid o := by
  have hroom : (s.amid o).roomAvailable following hasData = s.roomAvailable following hasData := rfl
  have hneed : (s.amid o).dataNeed f = s.dataNeed f := rfl
  simp only [State.execCommand, hroom, hneed, State.runCommand_blind _ _ _ s o, State.respond_amid]
  split <;> rfl

theorem State.takeWord_blind (w : Word) (following : Nat) (hasData : Bool) :
    Blind (·.takeWord w following hasData) := by
  intro s o
  simp only [State.takeWord, State.amid_decoder, State.clearCommand_amid, State.holdCommand_amid,
    State.execCommand_amid]
  split
  · split <;> rfl
  · split <;> rfl

/-! ## Data words (R151) -/

theorem State.writeBankWord_blind (w : Nat) (v : Word) : Blind (·.writeBankWord n w v) := by
  intro s o
  simp only [State.writeBankWord, State.amid_record, State.writeWord_amid, State.onRecord_amid]
  split_ifs <;> rfl

theorem State.rename_amid (old new : Option SetNo) : (s.amid o).rename l old new = (s.rename l old new).amid o := by
  have hnamed : ∀ (u : State) (m : Option SetNo) (f : SetRecord → SetRecord),
      (u.amid o).onNamed m f = (u.onNamed m f).amid o := fun u m f => by cases m <;> rfl
  simp only [State.rename, hnamed]
  split <;> rfl

theorem State.writeMap_blind (a : Nat) (v : Word) : Blind (·.writeMap l a v) := by
  intro s o
  have hconflicts : ∀ m, (s.amid o).conflicts l m = s.conflicts l m := fun _ => rfl
  simp only [State.writeMap, State.mapEntry, State.amid_lane, hconflicts, State.rename_amid, State.onSelection_amid]
  split
  · rfl
  · split <;> rfl

theorem State.writeFallback_blind (v : Word) : Blind (·.writeFallback l v) := by
  intro s o
  have hconflicts : ∀ m, (s.amid o).conflicts l m = s.conflicts l m := fun _ => rfl
  simp only [State.writeFallback, State.amid_lane, hconflicts, State.rename_amid, State.onSelection_amid]
  split
  · rfl
  · split <;> rfl

theorem State.storeNumeric_amid (p : LaneParam) (j : Nat) :
    (s.amid o).storeNumeric l p j = (s.storeNumeric l p j).amid o := by cases p <;> simp [State.storeNumeric]

theorem State.writeLaneParam_blind (p : LaneParam) (v : Word) : Blind (·.writeLaneParam l p v) := by
  intro s o
  simp only [State.writeLaneParam, State.storeLaneParam, State.amid_lane, State.onControl_amid, State.onAdapt_amid,
    State.storeNumeric_amid]
  split
  · rfl
  · split
    · split <;> rfl
    · split <;> rfl
    · rfl

theorem State.writeCond_blind (p : CondParam) (v : Word) : Blind (·.writeCond p v) := by
  intro s o
  simp only [State.writeCond, State.amid_lane0, State.amid_lane1, State.amid_cond]
  split <;> rfl

theorem State.writeItem_blind (p : Pointer) (v : Word) : Blind (·.writeItem p v) := by
  intro s o
  simp only [State.writeItem, State.writeBankWord_blind _ _ _ s o, State.writeMap_blind _ _ _ s o,
    State.writeFallback_blind _ _ s o, State.writeLaneParam_blind _ _ _ s o, State.writeCond_blind _ _ s o]
  split
  · split <;> rfl
  · rfl
  · split
    · rfl
    · split <;> rfl
  · split <;> rfl
  · rfl

theorem State.offer_blind (v : Word) : Blind (·.offer v) := by
  intro s o
  simp only [State.offer, State.amid_decoder, State.setPointer_amid, State.writeItem_blind _ _ s o]
  split_ifs <;> rfl

theorem State.offerAll_blind (t : Tally) (vs : List Word) : Blind (·.offerAll t vs) := by
  induction vs generalizing t with
  | nil => exact fun _ _ => rfl
  | cons v vs ih =>
    intro s o
    simp only [State.offerAll, State.offer_blind v s o]
    exact ih _ _ o

theorem State.report_amid (t : Tally) : (s.amid o).report t = (s.report t).amid o := by
  simp only [State.report, State.enqueue_amid]
  split <;> rfl

/-! ## A management frame (R144) -/

theorem State.takeWords_blind (hasData : Bool) (ws : List Word) : Blind (·.takeWords hasData ws) := by
  induction ws with
  | nil => exact fun _ _ => rfl
  | cons w ws ih =>
    intro s o
    simp only [State.takeWords, State.takeWord_blind _ _ _ s o]
    obtain ⟨u, done⟩ := s.takeWord w ws.length hasData
    cases done
    · exact ih u o
    · rfl

/-- A management frame is handled alike in all surroundings, and leaves them alone. -/
theorem State.manage_amid (commands data : List Word) :
    (s.amid o).manage commands data = (s.manage commands data).amid o := by
  have hroom : (s.amid o).freeRoom = s.freeRoom := rfl
  have hdata : ∀ u : State, (u.amid o).takeData data = (u.takeData data).amid o := fun u => by
    simp only [State.takeData, State.offerAll_blind _ _ u o, State.report_amid]
  simp only [State.manage, hroom, State.takeWords_blind _ _ s o, State.turnAway_amid]
  split
  · rfl
  · obtain ⟨u, done⟩ := s.takeWords (!data.isEmpty) commands
    cases done
    · exact hdata u
    · rfl

/-- A management frame leaves the queue of waiting commands, the Link Interface and the ports alone. -/
theorem State.manage_surroundings (commands data : List Word) :
    (s.manage commands data).surroundings = s.surroundings := by
  have h := s.manage_amid s.surroundings commands data
  rw [State.amid_surroundings] at h
  rw [h]
  rfl

end Sys2Proof.Machine
end

section
/-! SUPPORT. A management frame at the Link Interface, its return frame and the transfer marks (R136, R137, R142, R145,
R156). -/

namespace Sys2Proof.Machine

variable (s : State)

/-- Place m of the marks is the source of word m (R142, R156). -/
theorem transferMarks_testBit (payload : List QueuedWord) (m : Nat) :
    (transferMarks payload).testBit m = true ↔ ∃ w, payload[m]? = some w ∧ w.source = .transfer := by
  induction payload generalizing m with
  | nil => simp [transferMarks]
  | cons w payload ih =>
    cases m with
    | zero =>
      rw [transferMarks, Nat.testBit_zero]
      split <;> simp [*]
    | succ m =>
      have hdiv : transferMarks (w :: payload) / 2 = transferMarks payload := by
        rw [transferMarks]
        split <;> omega
      rw [Nat.testBit_succ, hdiv, ih, List.getElem?_cons_succ]

/-- The decoder turns a frame away when its header need exceeds the free room (R145). -/
theorem State.manage_turned_away {commands data : List Word}
    (h : 32 - s.responses.length < commands.length + (if data = [] then 0 else 1)) :
    s.manage commands data = s.turnAway :=
  if_pos (by simpa only [State.freeRoom, Config.responseRoom, headerNeed, List.isEmpty_iff] using h)

theorem State.manage_gate (commands data : List Word) :
    (if 32 - s.responses.length < commands.length + (if data = [] then 0 else 1) then s.turnAway
      else s.manage commands data) = s.manage commands data :=
  ite_eq_right_iff.mpr fun h => (s.manage_turned_away h).symm

theorem State.manage_pending (commands data : List Word) : (s.manage commands data).pending = s.pending :=
  congrArg Surroundings.pending (s.manage_surroundings commands data)

/-- A management frame is handled by the decoder, then answered by its return frame; no other port or link state
changes (R136, R137). -/
theorem State.downstream_management {words commands data : List Word} (h : receive words = .management commands data)
    (slots : EngineSlots) :
    s.downstream words slots =
      { s.manage commands data with
        responses := (s.manage commands data).responses.drop 4
        link := { s.link with receiving := [] }
        ports :=
          { s.ports with
            upstream := s.ports.upstream ++
              [returnWords .management (s.manage commands data).notices.attention
                ((s.manage commands data).responses.take 4)]
            upstreamBegun := true } } := by
  have hheld : (s.hold words).manage commands data =
      (s.manage commands data).amid ⟨s.pending, { s.link with receiving := words }, s.ports⟩ :=
    s.manage_amid ⟨s.pending, { s.link with receiving := words }, s.ports⟩ commands data
  rw [State.downstream, h]
  dsimp only
  rw [State.managementFrame, hheld, State.sendReturn_hold _ _ rfl, s.manage_pending]
  rfl

/-- Settles O25: the marks by the words of the payload, and the frame by the decoder's part and the Link Interface's. -/
theorem managementFrame : Obligations.ManagementFrame := by
  refine ⟨transferMarks_testBit, fun words commands data s h => ?_⟩
  intro u
  have hu : s.manage commands data = u := (s.manage_gate commands data).symm
  refine ⟨_, rfl, ?_⟩
  rw [s.downstream_management h, returnWords_management, hu]

end Sys2Proof.Machine
end

section
/-! SUPPORT. A step takes the command at the front of the queue (R130, R144), and every command completes. -/

namespace Sys2Proof.Machine

/-- Settles O1: `step` by the two forms of the queue. -/
theorem stepRunsTheFrontCommand : Obligations.StepRunsTheFrontCommand :=
  ⟨fun _ _ _ h => by rw [step, h]; rfl, fun _ h => by rw [step, h]⟩

/-- An outcome that is a next state with the given queue of waiting commands. -/
def Completes (queue : List Instr) (o : Host.Outcome State Fault Refusal) : Prop :=
  ∃ t, o = .next t ∧ t.pending = queue

variable {s : State} {queue : List Instr}

theorem Completes.next {t : State} (h : t.pending = queue) : Completes queue (.next t) := ⟨t, rfl, h⟩

/-- A row that is its event where the event is due, and nothing elsewhere (log entries 2 and 3). -/
theorem Completes.due {c : Prop} [Decidable c] {t : State} (h : t.pending = s.pending) :
    Completes s.pending (if c then .next t else .next s) := by
  split
  · exact .next h
  · exact .next rfl

theorem Completes.engine {o : Host.Outcome State Fault Refusal} (h : o = .next s.engineMove ∨ o = .next s) :
    Completes s.pending o := by
  obtain rfl | rfl := h
  · exact .next s.engineMove_outside.1
  · exact .next rfl

/-- A row of one data word at its owner keeps the queue as its owner does. -/
theorem State.manageWrite_pending {f : State → State × WriteOutcome} (h : Blind f) (s : State) :
    (s.manageWrite (f s)).pending = s.pending := by
  have hf : (f s).1.pending = s.pending := congrArg Surroundings.pending (h.surroundings s)
  unfold State.manageWrite State.report
  split_ifs
  · rfl
  · exact hf
  · exact hf

theorem State.downstream_pending (s : State) (words : List Word) (slots : EngineSlots) :
    (s.downstream words slots).pending = s.pending := by
  rw [State.downstream, State.hold_pending]
  split
  · rw [State.servoFrame]
    exact (State.lanePath_outside _ _ _).1.trans (s.hold words).countFrame_outside.1
  · exact (s.hold words).manage_pending _ _
  · rfl

theorem execSensorFrame_completes (s : State) (words : List Word) : Completes s.pending (execSensorFrame words s) := by
  unfold execSensorFrame
  split
  · rename_i f _
    exact .next (by rw [State.takeSensor_eq])
  · exact .next rfl

theorem execDivergenceRollback_completes (s : State) (l : Lane) :
    Completes s.pending (execDivergenceRollback l s) := by
  unfold execDivergenceRollback
  split
  · exact .due (s.raiseDivergence_outside l _).1
  · exact .next rfl

theorem exec_completes (c : Instr) (s : State) : Completes s.pending (exec c s) := by
  cases c with
  | powerOnReset cut => exact .next rfl
  | sensorFrame words => exact execSensorFrame_completes s words
  | servoFrame words slots => exact .next (s.downstream_pending words slots)
  | discardedFrame words | managementFrame words => exact .next (s.downstream_pending words .none)
  | referenceLost l => exact .due (s.examineFresh_outside l).1
  | primingComplete l => exact .due (((s.pushSample l).completePriming_outside l).1.trans (s.pushSample_outside l).1)
  | campaignDone l => exact .due (s.countProbeStep_outside l).1
  | divergenceRollback l => exact execDivergenceRollback_completes s l
  | windowClose l => exact .due (s.countWindow_outside l).1
  | laneFault l => exact .due (s.faultLane_outside l).1
  | argumentExpired => exact .due (by rw [State.ageCommand_eq])
  | transferTimeout => exact .due (by rw [State.countWait_eq])
  | bankDataWord n w v => exact .next (State.manageWrite_pending (State.writeBankWord_blind n w.val v) s)
  | mapEntryWrite l a v => exact .next (State.manageWrite_pending (State.writeMap_blind l a.val v) s)
  | fallbackWrite l v => exact .next (State.manageWrite_pending (State.writeFallback_blind l v) s)
  | laneParameterWrite l p v => exact .next (State.manageWrite_pending (State.writeLaneParam_blind l p v) s)
  | condParameterWrite p v => exact .next (State.manageWrite_pending (State.writeCond_blind p v) s)
  | wordMovement => exact .engine (execWordMovement_cases s)
  | blockHeaderAppend => exact .engine (execBlockHeaderAppend_cases s)
  | blockTrailerAppend => exact .engine (execBlockTrailerAppend_cases s)
  | sweepExamine => exact .engine (execSweepExamine_cases s)
  | wordDisturbed n w place second => exact .next rfl
  | _ => exact .next (s.manage_pending _ _)

/-- Settles O2: each row is a next state that keeps the queue. -/
theorem everyCommandCompletes : Obligations.EveryCommandCompletes := exec_completes

end Sys2Proof.Machine
end

section
/-! SUPPORT. The bounds of the Response Queue, the Notice Queue and the counters (R156, R158, R178, R179, R182), and what
the shared operations and the stages of a servo frame do to them: a stage queues notices and raises counters, and the
engine alone appends transfer words. -/

namespace Sys2Proof.Machine

/-! ## The Notice Queue (R178, R179) -/

theorem Notice.matches_iff (r : Notice) (kind : NoticeKind) (lane : Option Lane) (detail : Nat) :
    r.matches kind lane detail = true ↔ r.kind = kind ∧ r.lane = lane ∧ r.detail = detail := by
  simp [Notice.matches, and_assoc]

/-- Two records of different kind, lane or detail. -/
def Notice.Differs (a b : Notice) : Prop := ¬(a.kind = b.kind ∧ a.lane = b.lane ∧ a.detail = b.detail)

/-- A notice that reaches a sound queue leaves it sound. -/
theorem NoticeQueue.add_sound {q : NoticeQueue} (h : q.sound) (kind : NoticeKind) (lane : Option Lane) (detail : Nat) :
    (q.add kind lane detail).sound := by
  obtain ⟨hlen, hlost, hrep, hpw⟩ := h
  have hpw : q.records.Pairwise Notice.Differs := hpw
  unfold NoticeQueue.add
  split_ifs with hany hroom
  · refine ⟨by simpa using hlen, hlost, ?_, ?_⟩
    · intro r hr
      obtain ⟨r0, hr0, rfl⟩ := List.mem_map.mp hr
      have hb := hrep r0 hr0
      split
      · simp only [Notice.merged, Config.repeatMax]; omega
      · exact hb
    · refine List.pairwise_map.mpr (hpw.imp fun {a b} hab => ?_)
      split <;> split <;> exact hab
  · refine ⟨?_, hlost, ?_, ?_⟩
    · simp only [Config.noticeRoom] at hroom
      simpa using hroom
    · intro r hr
      rcases List.mem_append.mp hr with hr | hr
      · exact hrep r hr
      · obtain rfl := List.mem_singleton.mp hr
        exact ⟨Nat.le_refl 1, (by decide : 1 ≤ 255)⟩
    · refine List.pairwise_append.mpr ⟨hpw, List.pairwise_singleton _ _, fun a ha b hb => ?_⟩
      obtain rfl := List.mem_singleton.mp hb
      exact fun hab => hany (List.any_eq_true.mpr ⟨a, ha, (a.matches_iff kind lane detail).mpr hab⟩)
  · exact ⟨hlen, Nat.min_le_left _ _, hrep, hpw⟩

/-- A sound queue whose oldest records have left, and whose lost count is 0 (R180). -/
theorem NoticeQueue.drop_sound {q : NoticeQueue} (h : q.sound) (k : Nat) :
    NoticeQueue.sound { records := q.records.drop k, lost := 0 } := by
  obtain ⟨hlen, -, hrep, hpw⟩ := h
  exact ⟨by simp only [List.length_drop]; omega, Nat.zero_le _, fun r hr => hrep r (List.mem_of_mem_drop hr),
    hpw.sublist (List.drop_sublist _ _)⟩

theorem NoticeQueue.empty_sound : NoticeQueue.empty.sound := ⟨by decide, by decide, nofun, .nil⟩

/-! ## The counters (R182) -/

/-- The six part-wide counters in COUNTERS order. -/
def PartCounters.list (c : PartCounters) : List Nat :=
  [c.sensorGap, c.sensorClip, c.storageCorrection, c.storageError, c.linkCheck, c.turnedAway]

/-- Each counter of a group is at most 65535. -/
def CountersWithin (counters : List Nat) : Prop := ∀ c ∈ counters, c ≤ 65535

@[simp] theorem countersWithin_nil : CountersWithin [] := nofun
@[simp] theorem countersWithin_cons {c : Nat} {cs : List Nat} :
    CountersWithin (c :: cs) ↔ c ≤ 65535 ∧ CountersWithin cs := List.forall_mem_cons

@[simp] theorem raised_le (c k : Nat) : raised c k ≤ 65535 := Nat.min_le_left _ _

theorem State.countersBounded_iff (s : State) :
    s.countersBounded ↔ CountersWithin s.counters.list ∧ ∀ k : Lane, CountersWithin (s.lane k).counters.list := by
  have hlist : s.counterList = s.counters.list ++ s.lane0.counters.list ++ s.lane1.counters.list := rfl
  simp only [State.countersBounded, CountersWithin, hlist, List.mem_append]
  constructor
  · intro h
    refine ⟨fun c hc => h c (.inl (.inl hc)), fun k c hc => ?_⟩
    cases k
    · exact h c (.inl (.inr hc))
    · exact h c (.inr hc)
  · rintro ⟨hp, hl⟩ c ((hc | hc) | hc)
    · exact hp c hc
    · exact hl .zero c hc
    · exact hl .one c hc

theorem PartCounters.zero_within : CountersWithin PartCounters.zero.list := by
  simp [PartCounters.list, PartCounters.zero]

theorem LaneCounters.zero_within : CountersWithin LaneCounters.zero.list := by
  simp [LaneCounters.list, LaneCounters.zero]

/-! ## The bounds of a state -/

/-- The queues and the counters are within their bounds, and `reserve` more words fit in the Response Queue: the
headers that the frame under way still needs (R145, R157). -/
structure State.Bounded (s : State) (reserve : Nat) : Prop where
  room : s.responses.length + reserve ≤ 32
  transfer : s.transferWords ≤ 24
  notices : s.notices.sound
  part : CountersWithin s.counters.list
  lanes : ∀ k : Lane, CountersWithin (s.lane k).counters.list

theorem State.bounded_iff (s : State) :
    s.Bounded 0 ↔ s.responsesBounded ∧ s.notices.sound ∧ s.countersBounded := by
  rw [State.countersBounded_iff]
  exact ⟨fun h => ⟨⟨h.room, h.transfer⟩, h.notices, h.part, h.lanes⟩,
    fun ⟨⟨hr, ht⟩, hn, hp, hl⟩ => ⟨hr, ht, hn, hp, hl⟩⟩

section
variable {s t : State} {l : Lane} {n : SetNo} {r : Nat}

theorem State.Bounded.mono {r' : Nat} (h : s.Bounded r) (hr : r' ≤ r) : s.Bounded r' :=
  { h with room := (Nat.add_le_add_left hr _).trans h.room }

/-- An operation that leaves both queues and every counter alone. -/
theorem State.Bounded.of_same (h : s.Bounded r) (hr : t.responses = s.responses) (hn : t.notices = s.notices)
    (hc : t.counters = s.counters) (hl : ∀ k : Lane, (t.lane k).counters = (s.lane k).counters) : t.Bounded r where
  room := hr ▸ h.room
  transfer := by rw [State.transferWords, hr]; exact h.transfer
  notices := hn ▸ h.notices
  part := hc ▸ h.part
  lanes k := hl k ▸ h.lanes k

/-- An operation that leaves both queues and every lane alone, and the part-wide counters within their bound. -/
theorem State.Bounded.of_part (h : s.Bounded r) {c : PartCounters} (hc : CountersWithin c.list) :
    State.Bounded { s with counters := c } r where
  room := h.room
  transfer := h.transfer
  notices := h.notices
  part := hc
  lanes k := by rw [State.withCounters_lane]; exact h.lanes k

theorem State.Bounded.notify (h : s.Bounded r) {kind : NoticeKind} {lane : Option Lane} {detail : Nat} :
    (s.notify kind lane detail).Bounded r where
  room := h.room
  transfer := h.transfer
  notices := NoticeQueue.add_sound h.notices kind lane detail
  part := h.part
  lanes k := by rw [State.notify_lane]; exact h.lanes k

theorem State.Bounded.onCounters (h : s.Bounded r) {f : LaneCounters → LaneCounters}
    (hf : CountersWithin (s.lane l).counters.list → CountersWithin (f (s.lane l).counters).list) :
    (s.onCounters l f).Bounded r where
  room := h.room
  transfer := h.transfer
  notices := h.notices
  part := h.part
  lanes k := by
    rcases Lane.eq_or_other k l with rfl | rfl
    · rw [State.onCounters_lane]; exact hf (h.lanes k)
    · rw [State.onCounters_other]; exact h.lanes _

theorem State.Bounded.onReference (h : s.Bounded r) {f : Reference → Reference} : (s.onReference l f).Bounded r :=
  h.of_same rfl rfl rfl (by simp)
theorem State.Bounded.onSelection (h : s.Bounded r) {f : Selection → Selection} : (s.onSelection l f).Bounded r :=
  h.of_same rfl rfl rfl (by simp)
theorem State.Bounded.onFilter (h : s.Bounded r) {f : Filter → Filter} : (s.onFilter l f).Bounded r :=
  h.of_same rfl rfl rfl (by simp)
theorem State.Bounded.onAdapt (h : s.Bounded r) {f : Adaptation → Adaptation} : (s.onAdapt l f).Bounded r :=
  h.of_same rfl rfl rfl (by simp)
theorem State.Bounded.onCampaign (h : s.Bounded r) {f : Campaign → Campaign} : (s.onCampaign l f).Bounded r :=
  h.of_same rfl rfl rfl (by simp)
theorem State.Bounded.onControl (h : s.Bounded r) {f : Control → Control} : (s.onControl l f).Bounded r :=
  h.of_same rfl rfl rfl (by simp)
theorem State.Bounded.withBank (h : s.Bounded r) {b : Bank} : State.Bounded { s with bank := b } r :=
  h.of_same rfl rfl rfl (by simp)
theorem State.Bounded.withTransfer (h : s.Bounded r) {x : Transfer} : State.Bounded { s with transfer := x } r :=
  h.of_same rfl rfl rfl (by simp)
theorem State.Bounded.withDecoder (h : s.Bounded r) {d : Decoder} : State.Bounded { s with decoder := d } r :=
  h.of_same rfl rfl rfl (by simp)
theorem State.Bounded.withCond (h : s.Bounded r) {c : Conditioner} : State.Bounded { s with cond := c } r :=
  h.of_same rfl rfl rfl (by simp)
theorem State.Bounded.writeWords (h : s.Bounded r) {w : Nat} {vs : List Word} : (s.writeWords n w vs).Bounded r :=
  h.of_same (by simp) (by simp) (by simp) (by simp)

/-! ## Sets and transfers (R35, R36, R168, R174) -/

theorem State.Bounded.endTransfer (h : s.Bounded r) {o : TransferOutcome} : (s.endTransfer o).Bounded r := by
  have hf : (s.releaseHolds.finishCopy o).Bounded r := h.of_same (by simp) (by simp) (by simp) (by simp)
  exact hf.withTransfer.notify

theorem State.Bounded.dropCurrentIf (h : s.Bounded r) : (s.dropCurrentIf n l).Bounded r :=
  h.of_same (by simp) (by simp) (by simp) (by simp)

theorem State.Bounded.sourceQuarantined (h : s.Bounded r) : (s.sourceQuarantined n).Bounded r := by
  unfold State.sourceQuarantined
  split_ifs
  · exact h.endTransfer
  · exact h.withTransfer
  · exact h

theorem State.Bounded.quarantine (h : s.Bounded r) : (s.quarantine n).Bounded r := by
  have hq : (s.setSetState n .quarantined).Bounded r := h.withBank
  exact hq.notify.dropCurrentIf.dropCurrentIf.sourceQuarantined

theorem State.Bounded.correctWord (h : s.Bounded r) {w : Nat} {v : Word} : (s.correctWord n w v).Bounded r := by
  have hp := h.part
  have hw : (s.writeWord n w v).Bounded r := h.withBank
  refine (hw.of_part ?_).notify
  simp_all [PartCounters.list]

theorem State.Bounded.doubleError (h : s.Bounded r) : (s.doubleError n).Bounded r := by
  have hp := h.part
  have h1 : State.Bounded
      { s with counters := { s.counters with storageError := raised s.counters.storageError 1 } } r :=
    h.of_part (by simp_all [PartCounters.list])
  unfold State.doubleError
  split
  · exact h1
  · exact h1.notify
  · exact h1.quarantine

theorem State.Bounded.readWord (h : s.Bounded r) (w : Nat) : (s.readWord n w).1.Bounded r := by
  unfold State.readWord
  split
  · exact h
  · exact h.correctWord
  · exact h.doubleError

theorem State.Bounded.readUntilDouble (h : s.Bounded r) (ws : List Nat) : (s.readUntilDouble n ws).1.Bounded r :=
  s.readUntilDouble_induction n (P := (·.Bounded r)) (fun _ w hu => hu.readWord w) h ws

theorem State.Bounded.readAll (h : s.Bounded r) (ws : List Nat) : (s.readAll n ws).1.Bounded r :=
  s.readAll_induction n (P := (·.Bounded r)) (fun _ w hu => hu.readWord w) h ws

/-! ## A lane's departure from RUNNING (R113) -/

theorem State.Bounded.releaseCurrent (h : s.Bounded r) : (s.releaseCurrent l).Bounded r :=
  h.of_same (by simp) (by simp) (by simp) (by simp [State.releaseCurrent_lane])

theorem State.Bounded.cancelWindow (h : s.Bounded r) : (s.cancelWindow l).Bounded r := by
  unfold State.cancelWindow
  split
  · exact h.onAdapt.notify
  · exact h

theorem State.Bounded.abortCampaign (h : s.Bounded r) {d : Nat} : (s.abortCampaign l d).Bounded r := by
  unfold State.abortCampaign
  split
  · exact h.onCampaign.notify
  · exact h

theorem State.Bounded.leaveRunning (h : s.Bounded r) {d : Nat} {m : LaneMode} : (s.leaveRunning l d m).Bounded r :=
  h.releaseCurrent.onFilter.cancelWindow.abortCampaign.onControl

end

end Sys2Proof.Machine
end

section
/-! SUPPORT. The stages of a servo frame and the engine's movements keep the queues and the counters within their bounds
(R158, R182). -/

namespace Sys2Proof.Machine

variable {s : State} {l : Lane} {n : SetNo} {r : Nat}

/-! ## The Lane Controller and the Reference Conditioner -/

theorem State.Bounded.slipLane (h : s.Bounded r) {d : Nat} : (s.slipLane l d).Bounded r := by
  have hc := h.onCounters (l := l) (f := fun c => { c with wedgeSlip := raised c.wedgeSlip 1 })
    (by simp +contextual [LaneCounters.list])
  simp only [State.slipLane]
  split
  · exact hc.onControl.notify.leaveRunning
  · exact hc.onControl.notify

theorem State.Bounded.judgeWedge (h : s.Bounded r) {w : Word} : (s.judgeWedge l w).1.Bounded r := by
  simp only [State.judgeWedge]
  split
  · exact h
  · unfold State.applyVerdict
    split <;> dsimp only
    · exact h.onControl
    · exact h.onControl.onCounters (by simp +contextual [LaneCounters.list])
    · exact h.onControl.slipLane

theorem State.Bounded.examineFresh (h : s.Bounded r) : (s.examineFresh l).Bounded r := by
  simp only [State.examineFresh]
  split_ifs
  · exact h.onReference.notify.onReference
  · exact h.onReference.onReference
  · exact h.onReference.notify
  · exact h.onReference

theorem State.Bounded.pushSample (h : s.Bounded r) : (s.pushSample l).Bounded r := by
  unfold State.pushSample
  exact h.onReference.onControl

theorem State.Bounded.pushSamples (h : s.Bounded r) (j : Nat) : (s.pushSamples l j).Bounded r := by
  induction j generalizing s with
  | zero => exact h
  | succ j ih => exact ih h.pushSample

theorem State.Bounded.completePriming (h : s.Bounded r) : (s.completePriming l).Bounded r := by
  unfold State.completePriming
  split
  · exact h.onControl
  · exact h

theorem State.Bounded.feedLane (h : s.Bounded r) {v : Verdict} : (s.feedLane l v).Bounded r := by
  have hfed : ∀ {u : State}, u.Bounded r → ((u.pushSamples l (v.gapCount + 1)).completePriming l).Bounded r :=
    fun hu => (hu.pushSamples _).completePriming
  have hgap : ((s.examineFresh l).raiseSettle l Config.settleShort).Bounded r := h.examineFresh.onReference
  simp only [State.feedLane]
  split_ifs
  · exact hfed hgap
  · exact hgap
  · exact hfed h.examineFresh
  · exact h.examineFresh

theorem State.Bounded.conditionFrame (h : s.Bounded r) {v : Verdict} {input : Word} :
    (s.conditionFrame l v input).Bounded r := by
  unfold State.conditionFrame
  split
  · exact h.onReference
  · exact h.feedLane.onReference

/-! ## The Set Selector and the Cancellation Filter -/

theorem State.Bounded.captureShadow (h : s.Bounded r) : (s.captureShadow l n).Bounded r := by
  have h1 := h.readUntilDouble (n := n) tapWords
  unfold State.captureShadow
  split <;> rename_i e <;> rw [e] at h1
  · exact h1.onAdapt
  · exact h1

theorem State.Bounded.retireCurrent (h : s.Bounded r) : (s.retireCurrent l).Bounded r := by
  unfold State.retireCurrent
  split
  · split
    · exact h.withBank
    · exact h
  · exact h

theorem State.Bounded.selectFrame (h : s.Bounded r) {f : ServoFields} : (s.selectFrame f).1.Bounded r := by
  have hb : (s.applyBand f.lane f.writeActive).Bounded r := by
    unfold State.applyBand
    split
    · exact h
    · exact h.onSelection
  simp only [State.selectFrame]
  split
  · unfold State.select
    split
    · exact hb.releaseCurrent
    · split <;> dsimp only
      · exact hb.onSelection
      · exact State.Bounded.captureShadow (State.Bounded.onFilter (State.Bounded.onSelection
          (State.Bounded.withBank hb.retireCurrent)))
  · exact hb

theorem State.Bounded.applyTaps (h : s.Bounded r) {tr ts : Nat} {os cl : Word} {taps : List Word} :
    (s.applyTaps l tr ts os cl taps).1.Bounded r := by
  simp only [State.applyTaps, State.freshFrame]
  refine h.onFilter.onCounters ?_
  split <;> simp +contextual [LaneCounters.list]

theorem State.Bounded.computeCorrection (h : s.Bounded r) : (s.computeCorrection l n).1.Bounded r := by
  have h1 := h.readUntilDouble (n := n) [0, 1, 2, 3]
  unfold State.computeCorrection
  split
  · rename_i s1 tr ts os cl e
    rw [e] at h1
    have h2 := h1.readUntilDouble (n := n) (usedTapWords (tapCount 32 tr) (tapCount 8 ts))
    split <;> rename_i e2 <;> rw [e2] at h2
    · exact h2.applyTaps
    · exact h2
  · rename_i e
    rw [e] at h1
    exact h1

theorem State.Bounded.decideFrame (h : s.Bounded r) {f : ServoFields} {found : Option (SetNo × Route)} :
    (s.decideFrame f found).1.Bounded r := by
  have hb : (s.bypassFrame f.lane).1.Bounded r := by
    simp only [State.bypassFrame]
    exact h.onCounters (by simp +contextual [LaneCounters.list])
  have hh : (s.heldFrame f.lane).1.Bounded r := by
    simp only [State.heldFrame]
    exact h.onCounters (by simp +contextual [LaneCounters.list])
  simp only [State.decideFrame]
  split_ifs
  · exact hb
  · exact h
  · exact hb
  · split
    · exact hb
    · exact hb
    · exact hh
    · exact h.computeCorrection

/-! ## The Probe Unit, the output command and the Adaptation Unit -/

theorem State.Bounded.countProbeStep (h : s.Bounded r) : (s.countProbeStep l).Bounded r := by
  simp only [State.countProbeStep]
  split
  · exact h.onCampaign.notify
  · exact h.onCampaign

theorem State.Bounded.probeFrame (h : s.Bounded r) {f : ServoFields} : (s.probeFrame f).Bounded r := by
  unfold State.probeFrame
  split
  · exact h.onCampaign.countProbeStep
  · exact h

theorem State.Bounded.formOutput (h : s.Bounded r) {sum : Int} : (s.formOutput l sum).Bounded r := by
  have hs : (if saturated sum then
      s.onCounters l fun c => { c with commandSaturation := raised c.commandSaturation 1 } else s).Bounded r := by
    split
    · exact h.onCounters (by simp +contextual [LaneCounters.list])
    · exact h
  simp only [State.formOutput]
  split
  · exact hs.onFilter
  · exact hs

theorem State.Bounded.raiseDivergence (h : s.Bounded r) : (s.raiseDivergence l n).Bounded r := by
  unfold State.raiseDivergence
  split
  · exact State.Bounded.notify (State.Bounded.onAdapt (State.Bounded.withBank h.writeWords))
  · exact h.onAdapt

theorem State.Bounded.countDivergence (h : s.Bounded r) {e : Int} {dl : Word} :
    (s.countDivergence l n e dl).Bounded r := by
  unfold State.countDivergence
  split
  · exact h.raiseDivergence
  · exact h.onAdapt

theorem State.Bounded.countWindow (h : s.Bounded r) : (s.countWindow l).Bounded r := by
  simp only [State.countWindow]
  split
  · split
    · exact h.onAdapt.notify
    · exact h.onAdapt
  · exact h

theorem State.Bounded.adaptTaps (h : s.Bounded r) {tr ts : Nat} {e : Int} {hd : AdaptHeader} {taps : List Word} :
    (s.adaptTaps l n tr ts e hd taps).Bounded r := by
  refine State.Bounded.countWindow (State.Bounded.countDivergence (State.Bounded.onCounters h.writeWords.writeWords ?_))
  simp +contextual [LaneCounters.list]

theorem State.Bounded.adaptSet (h : s.Bounded r) {tr ts : Nat} {e : Int} : (s.adaptSet l n tr ts e).Bounded r := by
  have h1 := h.readWord (n := n) 4
  unfold State.adaptSet
  split <;> rename_i e1 <;> rw [e1] at h1
  · exact h1
  · split
    · exact h1
    · have h2 := h1.readUntilDouble (n := n) [5, 6, 7, 8, 9]
      split <;> rename_i e2 <;> rw [e2] at h2
      · have h3 := h2.readUntilDouble (n := n) (usedTapWords tr ts)
        split <;> rename_i e3 <;> rw [e3] at h3
        · exact h3.adaptTaps
        · exact h3
      · exact h2

theorem State.Bounded.adaptFrame (h : s.Bounded r) {f : ServoFields} {found : Option (SetNo × Route)} {d : Decision}
    {probed : Bool} : (s.adaptFrame f found d probed).Bounded r := by
  unfold State.adaptFrame
  split
  · split
    · exact h.adaptSet
    · exact h
  · exact h

theorem State.Bounded.faultLane (h : s.Bounded r) : (s.faultLane l).Bounded r := by
  refine (State.Bounded.notify (h.onCounters ?_)).leaveRunning
  simp +contextual [LaneCounters.list]

theorem State.Bounded.checkFault (h : s.Bounded r) : (s.checkFault l).Bounded r := by
  unfold State.checkFault
  split
  · exact h.faultLane
  · exact h

/-! ## The Response Queue (R156, R158) -/

/-- Words of commands join the tail where there is room for them. -/
theorem State.Bounded.enqueue_command {ws : List Word} (h : s.Bounded (ws.length + r)) :
    (s.enqueue .command ws).Bounded r where
  room := by
    have := h.room
    simp only [State.enqueue_responses, List.length_append, List.length_map]
    omega
  transfer := by
    have hnone : (ws.map (QueuedWord.mk .command)).filter (fun q => q.source == .transfer) = [] :=
      List.filter_eq_nil_iff.mpr (by simp)
    rw [State.transferWords, State.enqueue_responses, List.filter_append, hnone, List.append_nil]
    exact h.transfer
  notices := h.notices
  part := h.part
  lanes k := by rw [State.enqueue_lane]; exact h.lanes k

/-- A transfer word joins the tail where the queue admits one. -/
theorem State.Bounded.enqueue_transfer (h : s.Bounded 0) (hf : s.fits) {w : Word} :
    (s.enqueue .transfer [w]).Bounded 0 where
  room := by
    have := hf.2
    simp only [State.enqueue_responses, List.length_append, List.length_map, List.length_singleton]
    omega
  transfer := by
    have := hf.1
    simp only [State.transferWords, State.enqueue_responses, List.filter_append, List.length_append] at this ⊢
    exact this
  notices := h.notices
  part := h.part
  lanes k := by rw [State.enqueue_lane]; exact h.lanes k

/-- Words that leave the head of the queue in a return frame (R138). -/
theorem State.Bounded.sendReturn (h : s.Bounded r) {e : Echo} : (s.sendReturn e).Bounded r where
  room := by
    have := h.room
    simp only [State.sendReturn_responses, List.length_drop]
    omega
  transfer := by
    have hsub : ((s.responses.drop 4).filter fun q => q.source == .transfer).length ≤ s.transferWords :=
      ((List.drop_sublist 4 s.responses).filter _).length_le
    exact hsub.trans h.transfer
  notices := h.notices
  part := h.part
  lanes k := by rw [State.sendReturn_lane]; exact h.lanes k

/-! ## The engine's movements (R169 to R173) -/

theorem State.Bounded.advanceWord (h : s.Bounded r) : s.advanceWord.Bounded r := by
  simp only [State.advanceWord]
  split <;> split
  · exact h.withTransfer.endTransfer
  · exact h.withTransfer
  · exact h.withTransfer
  · exact h.withTransfer
  · exact h.withTransfer
  · exact h.withTransfer

/-- A delivery is a word of a COPY's destination, or a transfer word that the queue admits (R169). -/
theorem State.Bounded.deliver (h : s.Bounded 0) (hf : s.transfer.mode ≠ .copy → s.fits) {v : Word} :
    (s.deliver v).Bounded 0 := by
  unfold State.deliver
  split
  · split
    · exact h.withBank
    · exact h
  · exact h.enqueue_transfer (hf (by simp [*]))
  · exact h.enqueue_transfer (hf (by simp [*]))

/-- A checked read that the engine makes leaves it as much room as it had. -/
theorem State.fits_of_responses {t : State} (h : t.responses = s.responses) : t.fits ↔ s.fits := by
  simp only [State.fits, State.transferWords, h]

theorem State.Bounded.moveWord (h : s.Bounded 0) (ha : s.transfer.state = .active)
    (hf : s.transfer.mode ≠ .copy → s.fits) : (s.moveWord n).Bounded 0 := by
  have h1 : State.Bounded { s with transfer := { s.transfer with remaining := s.transfer.remaining - 1 } } 0 :=
    h.withTransfer
  have h2 := h1.readWord (n := n) s.transfer.word
  have ht := State.readWord_transfer
    (s := { s with transfer := { s.transfer with remaining := s.transfer.remaining - 1 } }) n
    (by simp [ha]) s.transfer.word
  obtain ⟨-, -, -, ho, -⟩ := State.readWord_outside
    { s with transfer := { s.transfer with remaining := s.transfer.remaining - 1 } } n s.transfer.word
  simp only [State.moveWord]
  split <;> rename_i e <;> rw [e] at h2 ht ho <;> dsimp only at h2 ht ho
  · refine (h2.deliver fun hm => ?_).advanceWord
    exact (State.fits_of_responses ho).mpr (hf (by simpa [ht] using hm))
  · split
    · refine (State.Bounded.deliver h2.withTransfer fun hm => ?_).advanceWord
      exact (State.fits_of_responses ho).mpr (hf (by simpa [ht] using hm))
    · exact h2.endTransfer

theorem State.Bounded.appendTrailer (h : s.Bounded 0) (hf : s.fits) : (s.appendTrailer n).Bounded 0 := by
  have h1 := h.enqueue_transfer hf (w := transferTrailer n s.transfer.setBadWords)
  simp only [State.appendTrailer]
  split
  · split
    · exact State.Bounded.endTransfer (State.Bounded.withBank h1)
    · exact State.Bounded.withTransfer (State.Bounded.withBank h1)
  · exact h1.endTransfer
  · exact h1

theorem State.Bounded.examineSet (h : s.Bounded r) {cur : Option SetNo} : (s.examineSet cur).Bounded r := by
  unfold State.examineSet
  split
  · exact h.endTransfer
  · split
    · exact h.withTransfer
    · exact h.withTransfer
    · exact (State.Bounded.withBank h).withTransfer

/-- A movement that appends a word is due only while the Response Queue admits one (R158, R171). -/
theorem State.Bounded.engineMove (h : s.Bounded 0) : s.engineMove.Bounded 0 := by
  unfold State.engineMove
  split
  · rename_i m e
    have hn := State.needs_of_due e
    cases m with
    | word n =>
      obtain ⟨-, ⟨ha, hm⟩ | ⟨⟨ha, -⟩, hf⟩⟩ := hn
      · exact h.moveWord ha fun hc => absurd hm hc
      · exact h.moveWord ha fun _ => hf
    | header n =>
      obtain ⟨-, -, hf⟩ := hn
      exact (h.enqueue_transfer hf).withTransfer
    | trailer n =>
      obtain ⟨-, -, hf⟩ := hn
      exact h.appendTrailer hf
    | examine cur => exact h.examineSet
  · exact h

theorem State.Bounded.engineMoves (h : s.Bounded 0) {j : Nat} : (s.engineMoves j).Bounded 0 :=
  s.engineMoves_induction (P := (·.Bounded 0)) (fun _ hu => hu.engineMove) h j

/-! ## The lane path of a servo frame (R134) -/

theorem State.Bounded.sendDrive (h : s.Bounded r) {st : OutStatus} {wedge output : Word} :
    (s.sendDrive l st wedge output).Bounded r :=
  h.of_same rfl rfl rfl (by simp)

theorem State.Bounded.actOn (h : s.Bounded 0) {f : ServoFields} {slots : EngineSlots}
    {found : Option (SetNo × Route)} {d : Decision} : (s.actOn f slots found d).Bounded 0 := by
  exact State.Bounded.checkFault (State.Bounded.sendDrive
    h.engineMoves.probeFrame.formOutput.engineMoves.adaptFrame.engineMoves)

theorem State.Bounded.lanePath (h : s.Bounded 0) {f : ServoFields} {slots : EngineSlots} :
    (s.lanePath f slots).1.Bounded 0 := by
  have hc : (s.conditioned f slots).Bounded 0 := h.judgeWedge.engineMoves.conditionFrame.engineMoves
  rw [State.lanePath_eq]
  exact hc.selectFrame.engineMoves.decideFrame.actOn

end Sys2Proof.Machine
end

section
/-! SUPPORT. A command's answer fits the room it is given (R157), so a management frame fills the Response Queue with no
more than its header need and the free room allow (R145, R156). -/

namespace Sys2Proof.Machine

variable {s : State} {l : Lane} {n : SetNo} {r : Nat}

/-! ## What the commands do to the queues and the counters (R160) -/

theorem State.Bounded.readCommand (h : s.Bounded r) {imm : BitVec 9} : (s.readCommand imm).1.Bounded r := by
  have adv : ∀ {u : State} {k : Nat}, u.Bounded r → (u.advanceRead k).Bounded r := by
    intro u k hu
    unfold State.advanceRead
    split
    · exact hu
    · exact hu.withDecoder
  simp only [State.readCommand]
  split_ifs
  · exact h
  · refine adv ?_
    unfold State.readBank
    split
    · exact h.readAll _
    · exact h
  · exact adv h

theorem State.Bounded.commitLoading (h : s.Bounded r) : (s.commitLoading n).1.Bounded r := by
  have h1 := h.readAll (n := n) allWords
  unfold State.commitLoading
  generalize s.readAll n allWords = read at h1 ⊢
  obtain ⟨s1, found⟩ := read
  dsimp only
  split
  · exact h1
  · exact h1.of_same (by simp) (by simp) (by simp) (by simp)

theorem State.Bounded.commitSet (h : s.Bounded r) {imm : BitVec 9} : (s.commitSet imm).1.Bounded r := by
  unfold State.commitSet State.commitKnown
  split
  · exact h
  · split
    · split
      · exact h
      · exact h.commitLoading
    all_goals exact h

theorem State.Bounded.freeSet (h : s.Bounded r) {imm : BitVec 9} : (s.freeSet imm).1.Bounded r := by
  unfold State.freeSet
  split
  · exact h
  · split <;> dsimp only
    · exact h
    · exact State.Bounded.withBank h.writeWords

theorem State.Bounded.unfreezeSet (h : s.Bounded r) {imm : BitVec 9} : (s.unfreezeSet imm).1.Bounded r := by
  unfold State.unfreezeSet
  split
  · exact h
  · split
    · exact h.withBank
    · exact h

theorem State.Bounded.moveLane (h : s.Bounded r) {m : LaneMode} : (s.moveLane l m).Bounded r := by
  unfold State.moveLane
  split
  · exact h.leaveRunning
  · exact h.onControl

theorem State.Bounded.applyBusy (h : s.Bounded r) : (s.applyBusy n).Bounded r := by
  unfold State.applyBusy
  split_ifs
  · exact h.withTransfer
  · exact h.endTransfer
  · exact h

theorem State.Bounded.transferStart (h : s.Bounded r) {first second : Word} :
    (s.transferStart first second).1.Bounded r := by
  simp only [State.transferStart]
  split
  · exact h
  · split
    · exact h
    · split
      · simp only [State.startCopy]
        split
        · exact h
        · exact State.Bounded.applyBusy (State.Bounded.withBank (State.Bounded.withBank h.withTransfer))
      · simp only [State.startDump]
        split
        · exact h
        · exact State.Bounded.applyBusy (State.Bounded.withBank h.withTransfer)
      · exact h.withTransfer

theorem State.Bounded.fetchNotices (h : s.Bounded r) {imm : BitVec 9} {room : Nat} :
    (s.fetchNotices imm room).1.Bounded r := by
  simp only [State.fetchNotices]
  split
  · exact h
  · exact
      { room := h.room
        transfer := h.transfer
        notices := NoticeQueue.drop_sound h.notices _
        part := h.part
        lanes := fun k => by rw [State.withNotices_lane]; exact h.lanes k }

theorem State.Bounded.clearCounters (h : s.Bounded r) : s.clearCounters.Bounded r :=
  State.Bounded.onCounters (State.Bounded.onCounters (h.of_part PartCounters.zero_within)
    fun _ => LaneCounters.zero_within) fun _ => LaneCounters.zero_within

/-- A reset leaves both queues empty and every counter 0 (R163, R179, R182). -/
theorem State.bounded_of_cleared (hr : r ≤ 32) (hq : s.responses = []) (hn : s.notices = NoticeQueue.empty)
    (hc : s.counters = PartCounters.zero) (hl : ∀ k : Lane, (s.lane k).counters = LaneCounters.zero) : s.Bounded r where
  room := by rw [hq, List.length_nil]; omega
  transfer := by rw [State.transferWords, hq]; exact Nat.zero_le _
  notices := hn ▸ NoticeQueue.empty_sound
  part := hc ▸ PartCounters.zero_within
  lanes k := hl k ▸ LaneCounters.zero_within

theorem State.Bounded.partReset (h : s.Bounded r) : s.partReset.Bounded r :=
  State.bounded_of_cleared (by have := h.room; omega) rfl rfl rfl fun k => by rw [State.partReset_lane]; rfl

/-- Every command keeps the bounds, and leaves the room there was: it answers only afterwards. -/
theorem State.Bounded.runCommand (h : s.Bounded r) (f : CommandFields) (args : List Word) (room : Nat) :
    (s.runCommand f args room).1.Bounded r := by
  unfold State.runCommand
  split
  · exact h
  · unfold State.pointCommand
    split_ifs
    · exact h
    · exact h
    · exact h.withDecoder
    · exact h
  · exact h.readCommand
  · unfold State.patchOpen
    split
    · exact h.withDecoder
    · exact h
  · unfold State.patchClose
    split
    · exact h.withDecoder
    · exact h
  · exact h.commitSet
  · exact h.freeSet
  · exact h.unfreezeSet
  · unfold State.laneEnable
    split <;> dsimp only
    · exact h.onControl
    · exact h
  · unfold State.laneStart
    split_ifs <;> dsimp only
    · exact h
    · exact h
    · exact h.onControl
  · unfold State.laneStop
    split
    · exact h.moveLane
    · exact h
  · exact h.moveLane
  · unfold State.adaptWindow
    split_ifs <;> dsimp only
    · exact h
    · exact h
    · exact h
    · exact h.onAdapt
  · unfold State.probeStart
    split_ifs <;> dsimp only
    · exact h
    · exact h
    · exact h
    · exact h.onCampaign
  · unfold State.probeStop
    split
    · exact h.abortCampaign
    · exact h
  · exact h.transferStart
  · unfold State.transferAbort
    split
    · exact h.endTransfer
    · exact h
  · exact h
  · exact h.fetchNotices
  · exact h
  · exact h.clearCounters
  · exact h.partReset
  · exact h

/-! ## The words of an answer (R157) -/

theorem State.readAll_length (s : State) (n : SetNo) (ws : List Nat) : (s.readAll n ws).2.length = ws.length := by
  induction ws generalizing s with
  | nil => rfl
  | cons w ws ih => simp [State.readAll, ih]

theorem State.readCommand_words (s : State) (imm : BitVec 9) :
    (s.readCommand imm).2.words.length ≤
      if imm.toNat = 0 ∨ 16 < imm.toNat then 0 else s.readCount imm.toNat := by
  simp only [State.readCommand]
  split_ifs
  · exact Nat.le_refl 0
  · unfold State.readBank
    split
    · simp [State.readAll_length]
    · exact Nat.zero_le _
  · simp [State.readItems]

theorem Notice.words_length (r : Notice) : r.words.length = 2 := rfl

theorem State.fetchNotices_words (s : State) (imm : BitVec 9) {room : Nat}
    (h : (if imm.toNat = 0 ∨ 8 < imm.toNat then 0 else 1) ≤ room) : (s.fetchNotices imm room).2.words.length ≤ room := by
  simp only [State.fetchNotices]
  split at h
  · rw [if_pos ‹_›]; exact Nat.zero_le _
  · rw [if_neg ‹_›]
    simp only [fetchCount, List.length_cons, List.length_flatMap, Notice.words_length, List.map_const', List.sum_replicate,
      List.length_take, smul_eq_mul]
    omega

@[simp] theorem Reply.bare_words (x : Result) : (Reply.bare x).words = [] := rfl

theorem State.commitSet_words (s : State) (imm : BitVec 9) : (s.commitSet imm).2.words = [] := by
  have hload : ∀ n : SetNo, (s.commitLoading n).2.words = [] := by
    intro n
    simp only [State.commitLoading]
    split <;> rfl
  unfold State.commitSet State.commitKnown
  split
  · rfl
  · split
    · split
      · rfl
      · exact hload _
    all_goals rfl

theorem State.transferStart_words (s : State) (first second : Word) : (s.transferStart first second).2.words = [] := by
  simp only [State.transferStart]
  split
  · rfl
  · split
    · rfl
    · split
      · simp only [State.startCopy]; split <;> rfl
      · simp only [State.startDump]; split <;> rfl
      · rfl

theorem State.probeStart_words (s : State) (l : Lane) (length amplitude : Word) :
    (s.probeStart l length amplitude).2.words.length ≤ 1 := by
  unfold State.probeStart
  split_ifs <;> simp

/-- An answer that is served fits the room it was given: no command answers more words than its need but FETCH NOTICES,
which fits its notices in the room (R157, R160, R162). -/
theorem State.runCommand_words (s : State) (f : CommandFields) (args : List Word) {room : Nat}
    (h : s.dataNeed f ≤ room) : (s.runCommand f args room).2.words.length ≤ room := by
  have hread := s.readCommand_words f.imm
  have hprobe := s.probeStart_words f.lane (args.getD 0 0) (args.getD 1 0)
  have hfetch := s.fetchNotices_words f.imm (room := room)
  have bare : ∀ {r : Reply}, r.words = [] → r.words.length ≤ room := fun hr => by simp [hr]
  unfold State.dataNeed at h
  unfold State.runCommand
  split <;> rename_i hcode <;> simp only [hcode] at h
  · exact bare rfl
  · refine bare ?_; unfold State.pointCommand; split_ifs <;> rfl
  · exact hread.trans h
  · refine bare ?_; unfold State.patchOpen; split <;> rfl
  · refine bare ?_; unfold State.patchClose; split <;> rfl
  · exact bare (s.commitSet_words _)
  · refine bare ?_; unfold State.freeSet; split <;> (try split) <;> rfl
  · refine bare ?_; unfold State.unfreezeSet; split <;> (try split) <;> rfl
  · refine bare ?_; unfold State.laneEnable; split <;> rfl
  · refine bare ?_; unfold State.laneStart; split_ifs <;> rfl
  · refine bare ?_; unfold State.laneStop; split <;> rfl
  · exact bare rfl
  · refine bare ?_; unfold State.adaptWindow; split_ifs <;> rfl
  · exact hprobe.trans h
  · refine bare ?_; unfold State.probeStop; split <;> rfl
  · exact bare (s.transferStart_words _ _)
  · refine bare ?_; unfold State.transferAbort; split <;> rfl
  · exact h
  · exact hfetch h
  · exact h
  · exact bare rfl
  · exact bare rfl
  · exact bare rfl

/-! ## A management frame (R144, R145) -/

/-- A command takes the header that the frame's need counted for it, and no more than its own room of data words: what
the frame still needs is left (R157, R159). -/
theorem State.Bounded.execCommand {following : Nat} {hasData : Bool}
    (h : s.Bounded (1 + following + if hasData then 1 else 0)) (f : CommandFields) (args : List Word) :
    (s.execCommand f args following hasData).Bounded (following + if hasData then 1 else 0) := by
  have hanswered : ∀ {u : State} {p : Reply}, p.words.length ≤ s.roomAvailable following hasData →
      u.Bounded (s.roomAvailable following hasData + (1 + following + if hasData then 1 else 0)) →
        (u.respond f.code p).Bounded (following + if hasData then 1 else 0) := by
    intro u p hp hu
    refine State.Bounded.enqueue_command (hu.mono ?_)
    simp only [List.length_cons]
    omega
  have hroom : s.Bounded (s.roomAvailable following hasData + (1 + following + if hasData then 1 else 0)) := by
    refine { h with room := ?_ }
    have := h.room
    simp only [State.roomAvailable, State.freeRoom, Config.responseRoom]
    omega
  simp only [State.execCommand]
  split
  · exact hanswered (Nat.zero_le _) hroom
  · exact hanswered (s.runCommand_words f args (Nat.le_of_not_lt ‹_›)) (hroom.runCommand f args _)

theorem State.Bounded.takeWord {following : Nat} {hasData : Bool}
    (h : s.Bounded (1 + following + if hasData then 1 else 0)) (w : Word) :
    (s.takeWord w following hasData).1.Bounded (following + if hasData then 1 else 0) := by
  have hleft : s.Bounded (following + if hasData then 1 else 0) := h.mono (by omega)
  simp only [State.takeWord]
  split
  · split
    · exact State.Bounded.execCommand h.withDecoder _ _
    · exact hleft.withDecoder
  · split
    · exact h.execCommand _ _
    · exact State.Bounded.withDecoder hleft.withDecoder

theorem State.Bounded.takeWords {hasData : Bool} (ws : List Word)
    (h : s.Bounded (ws.length + if hasData then 1 else 0)) :
    (s.takeWords hasData ws).1.Bounded (if hasData then 1 else 0) := by
  induction ws generalizing s with
  | nil => exact h.mono (Nat.le_add_left _ _)
  | cons w ws ih =>
    have h1 := State.Bounded.takeWord (following := ws.length) (hasData := hasData)
      (h.mono (by simp only [List.length_cons]; omega)) w
    unfold State.takeWords
    split <;> rename_i e <;> rw [e] at h1
    · exact h1.mono (Nat.le_add_left _ _)
    · exact ih h1

/-! ## Data words (R151, R152) -/

theorem State.Bounded.rename (h : s.Bounded r) {old new : Option SetNo} : (s.rename l old new).Bounded r := by
  obtain ⟨records, e⟩ := State.rename_eq (s := s) (l := l) old new
  rw [e]
  exact h.withBank

theorem State.Bounded.writeBankWord (h : s.Bounded r) {w : Nat} {v : Word} : (s.writeBankWord n w v).1.Bounded r := by
  unfold State.writeBankWord
  split_ifs
  · exact h
  · exact h
  · exact h.of_same rfl rfl rfl (by simp)

theorem State.Bounded.writeMap (h : s.Bounded r) {a : Nat} {v : Word} : (s.writeMap l a v).1.Bounded r := by
  unfold State.writeMap
  split
  · exact h
  · split <;> dsimp only
    · exact h
    · exact h.rename.onSelection

theorem State.Bounded.writeFallback (h : s.Bounded r) {v : Word} : (s.writeFallback l v).1.Bounded r := by
  unfold State.writeFallback
  split
  · exact h
  · split <;> dsimp only
    · exact h
    · exact h.rename.onSelection

theorem State.Bounded.storeNumeric (h : s.Bounded r) (p : LaneParam) {j : Nat} : (s.storeNumeric l p j).Bounded r := by
  cases p <;> simp only [State.storeNumeric]
  case alignment | wedgesPerRev | staleLimit | holdLength => exact h.onControl
  case pesGate => exact h.onAdapt
  case seekFeedForward | adaptMode => exact h

theorem State.Bounded.writeLaneParam (h : s.Bounded r) {p : LaneParam} {v : Word} :
    (s.writeLaneParam l p v).1.Bounded r := by
  unfold State.writeLaneParam State.storeLaneParam
  split
  · exact h
  · split
    · split <;> dsimp only
      · exact h.onControl
      · exact h
    · split <;> dsimp only
      · exact h.onAdapt
      · exact h
    · exact h.storeNumeric _

theorem State.Bounded.writeCond (h : s.Bounded r) {p : CondParam} {v : Word} : (s.writeCond p v).1.Bounded r := by
  unfold State.writeCond
  split
  · exact h
  · exact h.withCond

theorem State.Bounded.offer (h : s.Bounded r) (v : Word) : (s.offer v).1.Bounded r := by
  have hitem : ∀ p : Pointer, (s.writeItem p v).1.Bounded r := by
    intro p
    unfold State.writeItem
    split
    · split
      · exact h.writeBankWord
      · exact h
    · exact h.writeMap
    · split
      · exact h.writeFallback
      · split
        · exact h.writeLaneParam
        · exact h
    · split
      · exact h.writeCond
      · exact h
    · exact h
  simp only [State.offer]
  split_ifs
  · exact h
  · exact h
  · exact h.withDecoder
  · exact (hitem _).withDecoder

theorem State.Bounded.offerAll (h : s.Bounded r) (t : Tally) (ws : List Word) : (s.offerAll t ws).1.Bounded r := by
  induction ws generalizing s t with
  | nil => exact h
  | cons w ws ih => exact ih (h.offer w) _

theorem State.Bounded.report (h : s.Bounded 1) (t : Tally) : (s.report t).Bounded 0 := by
  unfold State.report
  split
  · exact h.mono (Nat.zero_le _)
  · exact State.Bounded.enqueue_command h

theorem State.Bounded.turnAway (h : s.Bounded r) : s.turnAway.Bounded r := by
  have hp := h.part
  exact h.of_part (by simp_all [PartCounters.list])

/-- A management frame is turned away, or its header need fits and is all that it takes beside the room (R144, R145). -/
theorem State.Bounded.manage (h : s.Bounded 0) (commands data : List Word) : (s.manage commands data).Bounded 0 := by
  unfold State.manage
  split
  · exact h.turnAway
  · rename_i hgate
    have hneed : s.Bounded (commands.length + if !data.isEmpty then 1 else 0) := by
      refine { h with room := ?_ }
      have := h.room
      simp only [State.freeRoom, Config.responseRoom, headerNeed] at hgate
      cases hd : data.isEmpty <;> simp [hd] at hgate ⊢ <;> omega
    have h1 := hneed.takeWords commands
    split <;> rename_i e <;> rw [e] at h1
    · exact h1.mono (Nat.zero_le _)
    · cases data with
      | nil => rw [State.takeData_nil]; exact h1
      | cons v vs => exact (State.Bounded.offerAll h1 _ _).report _

theorem State.Bounded.manageWrite (h : s.Bounded 0) {p : State × WriteOutcome} (hp : ∀ j, s.Bounded j → p.1.Bounded j) :
    (s.manageWrite p).Bounded 0 := by
  unfold State.manageWrite
  split
  · exact h.turnAway
  · rename_i hgate
    simp only [State.freeRoom, Config.responseRoom] at hgate
    have hroom : s.Bounded 1 := { h with room := by omega }
    exact (hp 1 hroom).report _

/-! ## Sensor frames and downstream frames (R1, R130) -/

theorem State.Bounded.raiseSettleBoth (h : s.Bounded r) {j : Nat} : (s.raiseSettleBoth j).Bounded r := by
  simp only [State.raiseSettleBoth, State.raiseSettle]
  exact h.onReference.onReference

theorem State.Bounded.takeSensor (h : s.Bounded r) {f : SensorFields} : (s.takeSensor f).Bounded r := by
  have hseq : ∀ {u : State}, u.Bounded r → (u.checkSequence f.seq).Bounded r := by
    intro u hu
    have hp := hu.part
    have hgap : State.Bounded
        { u with counters := { u.counters with sensorGap := raised u.counters.sensorGap 1 } } r :=
      hu.of_part (by simp_all [PartCounters.list])
    simp only [State.checkSequence]
    split
    · exact hu.withCond
    · exact hgap.notify.raiseSettleBoth.withCond
  have hclip : ∀ {u : State}, u.Bounded r → (u.checkClip f.channel1 f.channel2).Bounded r := by
    intro u hu
    have hp := hu.part
    have hraised : State.Bounded
        { u with counters := { u.counters with sensorClip := raised u.counters.sensorClip 1 } } r :=
      hu.of_part (by simp_all [PartCounters.list])
    unfold State.checkClip
    split
    · exact hu
    · exact hraised.notify.raiseSettleBoth
  have haux : ∀ {u : State}, u.Bounded r → (u.examineAux f).Bounded r := by
    intro u hu
    unfold State.examineAux
    split
    · exact hu.withCond
    · exact hu
  simp only [State.takeSensor, State.takeSample, State.setFresh]
  exact (haux (hclip (hseq h)).withCond).onReference.onReference

theorem State.Bounded.hold (h : s.Bounded r) {words : List Word} : (s.hold words).Bounded r :=
  h.of_same rfl rfl rfl (by simp)

theorem State.Bounded.ageCommand (h : s.Bounded r) : s.ageCommand.Bounded r := by
  unfold State.ageCommand
  split
  · exact h
  · split
    · exact State.Bounded.notify h.withDecoder
    · exact h.withDecoder

theorem State.Bounded.countWait (h : s.Bounded r) : s.countWait.Bounded r := by
  simp only [State.countWait]
  split_ifs
  · exact h.withTransfer.endTransfer
  · exact h.withTransfer
  · exact h

theorem State.Bounded.servoFrame (h : s.Bounded 0) {f : ServoFields} {slots : EngineSlots} :
    (s.servoFrame f slots).Bounded 0 := by
  have hcount : s.countFrame.Bounded 0 := by
    refine State.Bounded.countWait (State.Bounded.ageCommand ?_)
    exact h.of_same rfl rfl rfl fun k => by cases k <;> rfl
  exact hcount.lanePath.sendReturn

theorem State.Bounded.discardFrame (h : s.Bounded r) {cause : DiscardCause} : (s.discardFrame cause).Bounded r := by
  have hp := h.part
  exact State.Bounded.sendReturn (State.Bounded.notify (h.of_part (by simp_all [PartCounters.list])))

theorem State.Bounded.downstream (h : s.Bounded 0) (words : List Word) (slots : EngineSlots) :
    (s.downstream words slots).Bounded 0 := by
  refine State.Bounded.hold ?_
  split
  · exact h.hold.servoFrame
  · exact (h.hold.manage _ _).sendReturn
  · exact h.hold.discardFrame

/-! ## Every command (R144) -/

/-- An outcome's next state, if there is one, has its queues and counters within their bounds. -/
def OutcomeBounded (o : Host.Outcome State Fault Refusal) : Prop := ∀ t : State, o = .next t → t.Bounded 0

theorem OutcomeBounded.next {t : State} (h : t.Bounded 0) : OutcomeBounded (.next t) := by rintro _ ⟨⟩; exact h

/-- A row that is its event where the event is due, and nothing elsewhere (log entries 2 and 3). -/
theorem OutcomeBounded.due (h : s.Bounded 0) {c : Prop} [Decidable c] {t : State} (ht : t.Bounded 0) :
    OutcomeBounded (if c then .next t else .next s) := by
  split
  · exact .next ht
  · exact .next h

theorem OutcomeBounded.engine (h : s.Bounded 0) {o : Host.Outcome State Fault Refusal}
    (ho : o = .next s.engineMove ∨ o = .next s) : OutcomeBounded o := by
  obtain rfl | rfl := ho
  · exact .next h.engineMove
  · exact .next h

theorem exec_bounded (h : s.Bounded 0) (c : Instr) : OutcomeBounded (exec c s) := by
  cases c with
  | powerOnReset cut =>
    exact .next (State.bounded_of_cleared (Nat.zero_le _) rfl rfl rfl fun k => by rw [State.powerOn_lane]; rfl)
  | sensorFrame words =>
    show OutcomeBounded (execSensorFrame words s)
    unfold execSensorFrame
    split
    · exact .next h.takeSensor
    · exact .next h
  | servoFrame words slots => exact .next (h.downstream words slots)
  | discardedFrame words | managementFrame words => exact .next (h.downstream words .none)
  | referenceLost l => exact .due h h.examineFresh
  | primingComplete l => exact .due h h.pushSample.completePriming
  | campaignDone l => exact .due h h.countProbeStep
  | divergenceRollback l =>
    show OutcomeBounded (execDivergenceRollback l s)
    unfold execDivergenceRollback
    split
    · exact .due h h.raiseDivergence
    · exact .next h
  | windowClose l => exact .due h h.countWindow
  | laneFault l => exact .due h h.faultLane
  | argumentExpired => exact .due h h.ageCommand
  | transferTimeout => exact .due h h.countWait
  | bankDataWord n w v => exact .next (h.manageWrite fun _ hj => hj.writeBankWord)
  | mapEntryWrite l a v => exact .next (h.manageWrite fun _ hj => hj.writeMap)
  | fallbackWrite l v => exact .next (h.manageWrite fun _ hj => hj.writeFallback)
  | laneParameterWrite l p v => exact .next (h.manageWrite fun _ hj => hj.writeLaneParam)
  | condParameterWrite p v => exact .next (h.manageWrite fun _ hj => hj.writeCond)
  | wordMovement => exact .engine h (execWordMovement_cases s)
  | blockHeaderAppend => exact .engine h (execBlockHeaderAppend_cases s)
  | blockTrailerAppend => exact .engine h (execBlockTrailerAppend_cases s)
  | sweepExamine => exact .engine h (execSweepExamine_cases s)
  | wordDisturbed n w place second => exact .next h.withBank
  | _ => exact .next (h.manage _ _)

/-- Settles O56: every shared operation keeps the bounds, a management frame by its header need and each command's
room, the engine by the room it needs for a transfer word. -/
theorem queuesAndCountersStayBounded : Obligations.QueuesAndCountersStayBounded := by
  intro s t hr hn hc e
  have h : s.Bounded 0 := s.bounded_iff.mpr ⟨hr, hn, hc⟩
  refine t.bounded_iff.mp ?_
  rw [step] at e
  split at e
  · exact OutcomeBounded.next h t e
  · rename_i c rest _
    have hq : (s.withPending rest).Bounded 0 := h.of_same rfl rfl rfl (by simp)
    exact exec_bounded hq c t e

end Sys2Proof.Machine
end

section
/-! SUPPORT. The commands of the decoder itself (R150, R155, R161, R162), and a data word at the pointer (R151). -/

namespace Sys2Proof.Machine

variable {s : State}

/-! ## NOP and undefined codes (R161) -/

theorem argCount_undefined {code : BitVec 6} (h : 22 ≤ code.toNat) : argCount code = 0 := by
  unfold argCount
  split <;> omega

theorem State.dataNeed_undefined {f : CommandFields} (h : 22 ≤ f.code.toNat) : s.dataNeed f = 0 := by
  unfold State.dataNeed
  split <;> omega

theorem State.runCommand_undefined {f : CommandFields} (h : 22 ≤ f.code.toNat) (args : List Word) (room : Nat) :
    s.runCommand f args room = (s, .bare .unknown) := by
  unfold State.runCommand
  split
  all_goals try omega
  rfl

/-- Settles O6: both rows are commands of no argument and no data word, and a word of 0 spells NOP. -/
theorem nopAndUndefinedCodesChangeNothing : Obligations.NopAndUndefinedCodesChangeNothing := by
  intro s h
  have hnop : s.command 0 .zero 0 [] = s.answered 0 0 [] :=
    (State.command_bare_answered h 0 0 rfl rfl (t := s) (r := .bare .ok) rfl).trans rfl
  have hzero : s.manage [0] [] = s.command 0 .zero 0 [] := rfl
  refine ⟨⟨congrArg Host.Outcome.next hnop, hzero.trans hnop⟩, fun code l imm hcode => ?_⟩
  have hundefined := State.command_bare_answered (l := l) h code imm (argCount_undefined hcode)
    (State.dataNeed_undefined hcode) (State.runCommand_undefined hcode [] _)
  exact congrArg Host.Outcome.next hundefined

/-! ## PATCH OPEN and PATCH CLOSE (R155) -/

theorem execPatchOpen_eq (h : s.accepts 1) {t : State} {r : Reply} (hrun : s.patchOpen = (t, r)) :
    exec .patchOpen s = .next (t.answered 3 r.result.code r.words) :=
  congrArg Host.Outcome.next (State.command_bare_answered h 3#6 0 rfl rfl hrun)

theorem execPatchClose_eq (h : s.accepts 1) {t : State} {r : Reply} (hrun : s.patchClose = (t, r)) :
    exec .patchClose s = .next (t.answered 4 r.result.code r.words) :=
  congrArg Host.Outcome.next (State.command_bare_answered h 4#6 0 rfl rfl hrun)

theorem State.patchOpen_closed (h : s.decoder.origin = none) :
    s.patchOpen = ({ s with decoder := { s.decoder with origin := some s.decoder.pointer } }, .bare .ok) := by
  rw [State.patchOpen, h]
theorem State.patchOpen_open {p : Pointer} (h : s.decoder.origin = some p) : s.patchOpen = (s, .bare .state) := by
  rw [State.patchOpen, h]
theorem State.patchClose_closed (h : s.decoder.origin = none) : s.patchClose = (s, .bare .state) := by
  rw [State.patchClose, h]
theorem State.patchClose_open {p : Pointer} (h : s.decoder.origin = some p) :
    s.patchClose = ({ s with decoder := { s.decoder with pointer := p, origin := none } }, .bare .ok) := by
  rw [State.patchClose, h]

/-- Settles O18, by whether a patch window is open. -/
theorem patchWindow : Obligations.PatchWindow := by
  intro s h
  refine ⟨fun hclosed => ⟨?_, ?_⟩, fun p hopen => ⟨?_, ?_⟩⟩
  · exact (execPatchOpen_eq h (State.patchOpen_closed hclosed)).trans rfl
  · exact (execPatchClose_eq h (State.patchClose_closed hclosed)).trans rfl
  · exact (execPatchOpen_eq h (State.patchOpen_open hopen)).trans rfl
  · exact (execPatchClose_eq h (State.patchClose_open hopen)).trans rfl

/-! ## POINT (R150) -/

/-- POINT by itself, in a frame of its own. -/
theorem execPoint_eq (h : s.accepts 2) {imm : BitVec 9} {a : Word} {t : State} {r : Reply}
    (hrun : s.pointCommand imm a = (t, r)) : exec (.point imm a) s = .next (t.answered 1 r.result.code r.words) := by
  obtain ⟨hc, ha, hr⟩ := h
  refine congrArg Host.Outcome.next ((State.command_one .zero hc hr 1#6 rfl imm a).trans ?_)
  have hserved : s.runCommand ⟨1#6, .zero, imm⟩ [a] (s.roomAvailable 0 false) = (t, r) := hrun
  rw [State.clearCommand_of_none hc ha, State.execCommand_served _ _ _ _ _ (Nat.zero_le _), hserved, State.respond_eq]
  rfl

/-- An address of a region holds a word (R149, R150). -/
def Region.Holds (region : Region) (a : Nat) : Prop :=
  match region with
  | .bank => a / 64 ≤ 47 ∧ a % 64 ≤ 49
  | .map => a < 512
  | .lane => a < 8
  | .cond => a < 10
  | .results => a < 34
  | .counters => a < 26
  | .sets => a < 48
  | .lanes => a < 14

theorem Pointer.namesWord_iff (p : Pointer) : p.namesWord = true ↔ p.region.Holds p.addr := by
  have hnames : p.namesWord = true ↔ p.addr < p.stop ∧ (p.region ≠ .bank ∨ p.addr / 64 < 48) := by
    simp only [Pointer.namesWord, Bool.and_eq_true, Bool.or_eq_true, decide_eq_true_eq]
  rw [hnames]
  obtain ⟨region, lane, a⟩ := p
  cases region <;> simp [Pointer.stop, Region.Holds]
  case bank => omega

/-- The lane stands above the region code in the immediate (R150). -/
theorem pointTarget_eq {imm : BitVec 9} (h : imm.toNat ≤ 15) (a : Word) :
    pointTarget imm a =
      { region := Region.ofCode (imm.toNat % 8), lane := if imm.toNat < 8 then .zero else .one, addr := a.toNat } := by
  have hbit : imm.getLsbD 3 = decide (8 ≤ imm.toNat) := by
    rw [BitVec.getLsbD, Nat.testBit_eq_decide_div_mod_eq, decide_eq_decide]
    omega
  have hlane : Lane.ofBit (imm.getLsbD 3) = if imm.toNat < 8 then .zero else .one := by
    rw [hbit, Lane.ofBit]
    by_cases h8 : imm.toNat < 8 <;> simp [h8]
  rw [pointTarget, hlane]

/-- Settles O17: the three refusals in their order, then the pointer. -/
theorem point : Obligations.Point := by
  intro imm a s h target exists_
  have hexists : (pointTarget imm a).namesWord = true ↔ exists_ := Pointer.namesWord_iff _
  refine ⟨fun hopen => ?_, fun hclosed himm => ?_, fun hclosed himm hnot => ?_, fun hclosed himm hex => ?_, rfl⟩
  · have hstate : s.pointCommand imm a = (s, .bare .state) := if_pos (Option.isSome_iff_ne_none.mpr hopen)
    exact (execPoint_eq h hstate).trans rfl
  all_goals have hwindow : ¬s.decoder.origin.isSome = true := by simp [hclosed]
  · have hrange : s.pointCommand imm a = (s, .bare .range) := (if_neg hwindow).trans (if_pos himm)
    exact (execPoint_eq h hrange).trans rfl
  · have hrange : s.pointCommand imm a = (s, .bare .range) :=
      (if_neg hwindow).trans ((if_neg (Nat.not_lt.mpr himm)).trans (if_neg fun hnames => hnot (hexists.mp hnames)))
    exact (execPoint_eq h hrange).trans rfl
  · have hpoint : s.pointCommand imm a = (s.setPointer (pointTarget imm a), .bare .ok) :=
      (if_neg hwindow).trans ((if_neg (Nat.not_lt.mpr himm)).trans (if_pos (hexists.mpr hex)))
    rw [execPoint_eq h hpoint, pointTarget_eq himm]
    rfl

/-! ## FETCH NOTICES (R162, R180) -/

/-- FETCH NOTICES by itself, in a frame of its own. -/
theorem execFetchNotices_eq (h : s.accepts 1) (imm : BitVec 9) :
    exec (.fetchNotices imm) s = .next (s.execCommand ⟨18#6, .zero, imm⟩ [] 0 false) := by
  obtain ⟨hc, -, hr⟩ := h
  exact congrArg Host.Outcome.next (State.command_bare .zero hc hr 18#6 rfl imm)

theorem State.dataNeed_fetchNotices (s : State) (l : Lane) (imm : BitVec 9) :
    s.dataNeed ⟨18#6, l, imm⟩ = if imm.toNat = 0 ∨ 8 < imm.toNat then 0 else 1 := rfl

theorem State.runCommand_fetchNotices (s : State) (l : Lane) (imm : BitVec 9) (args : List Word) (room : Nat) :
    s.runCommand ⟨18#6, l, imm⟩ args room = s.fetchNotices imm room := rfl

theorem execFetchNotices_range (h : s.accepts 1) {imm : BitVec 9} (hi : imm.toNat = 0 ∨ 8 < imm.toNat) :
    exec (.fetchNotices imm) s = .next (s.answered 18 2 []) := by
  have hneed : s.dataNeed ⟨18#6, .zero, imm⟩ = 0 := (s.dataNeed_fetchNotices .zero imm).trans (if_pos hi)
  have hfetch : ∀ room, s.fetchNotices imm room = (s, .bare .range) := fun room => if_pos hi
  rw [execFetchNotices_eq h, State.execCommand_served _ _ _ _ _ (by rw [hneed]; exact Nat.zero_le _),
    State.runCommand_fetchNotices, hfetch, State.respond_eq]
  rfl

/-- The two words of a notice in the words of R143. -/
theorem Notice.words_eq (r : Notice) :
    r.words =
      [BitVec.ofNat 16 ((r.lane.map Lane.toNat).getD 255 * 256 + r.detail),
        BitVec.ofNat 16 (r.kind.code * 256 + r.repeats)] := by
  obtain ⟨kind, lane, detail, repeats⟩ := r
  cases lane <;> rfl

/-- Settles O23: the refusal, the room for the lost count, and the notices that fit whole behind it. -/
theorem fetchNotices : Obligations.FetchNotices := by
  intro imm s h k
  refine ⟨execFetchNotices_range h, fun h1 h8 hfull => ?_, fun h1 h8 hroom => ?_, rfl⟩
  all_goals
    have hi : ¬(imm.toNat = 0 ∨ 8 < imm.toNat) := by omega
    have hneed : s.dataNeed ⟨18#6, .zero, imm⟩ = 1 := (s.dataNeed_fetchNotices .zero imm).trans (if_neg hi)
    rw [execFetchNotices_eq h]
  · rw [State.execCommand_full _ _ _ _ _ (by rw [hneed, State.roomAvailable_alone]; omega), State.respond_eq]
    rfl
  · have hk : fetchCount imm.toNat s.notices.records.length (s.roomAvailable 0 false) = k := by
      rw [State.roomAvailable_alone]
      simp only [fetchCount, k]
      omega
    rw [State.execCommand_served _ _ _ _ _ (by rw [hneed, State.roomAvailable_alone]; omega),
      State.runCommand_fetchNotices, State.respond_eq]
    simp only [State.fetchNotices, if_neg hi, hk, funext Notice.words_eq]
    rfl

/-! ## A data word at the pointer (R151, R152) -/

/-- A frame of one data word, with room for its report (R144, R152). -/
theorem State.manage_data {v : Word} (hr : s.responses.length + 1 ≤ 32) :
    s.manage [] [v] = (s.offer v).1.report (Tally.count ⟨0, 0⟩ (s.offer v).2) := by
  unfold State.manage
  rw [if_neg (by simp [State.freeRoom, headerNeed]; omega)]
  rfl

theorem State.report_setPointer (p : Pointer) (t : Tally) : (s.setPointer p).report t = (s.report t).setPointer p := by
  unfold State.report
  split <;> rfl

/-- A frame of one refused data word. -/
theorem State.reported_of_refused (r : Result) : s.report (Tally.count ⟨0, 0⟩ (.refused r)) = s.reported 1 0 := by
  rw [State.report_refused, State.reported_refused]

theorem execDataWord_refused_in_place {v : Word} (hr : s.responses.length + 1 ≤ 32)
    (h : s.decoder.command ≠ none ∨ s.decoder.pointer.stop ≤ s.decoder.pointer.addr) :
    exec (.dataWord v) s = .next (s.reported 1 0) := by
  have hoffer : s.offer v = (s, .refused .state) := by
    by_cases hc : s.decoder.command = none
    · have hstop : s.decoder.pointer.stopped = true := decide_eq_true (h.resolve_left (not_not.mpr hc))
      simp [State.offer, hc, hstop]
    · simp [State.offer, Option.isSome_iff_ne_none.mpr hc]
  show Host.Outcome.next (s.manage [] [v]) = _
  rw [State.manage_data hr, hoffer, State.reported_of_refused]

/-- A word that the pointer's region does not refuse is its owner's, and the pointer moves on by one (R151). -/
theorem State.offer_owner {v : Word} (hc : s.decoder.command = none)
    (ha : s.decoder.pointer.addr < s.decoder.pointer.stop) (hro : s.decoder.pointer.region.readOnly = false) :
    s.offer v =
      ((s.writeItem s.decoder.pointer v).1.setPointer (s.decoder.pointer.forward 1),
        (s.writeItem s.decoder.pointer v).2) := by
  have hstop : s.decoder.pointer.stopped = false := decide_eq_false (Nat.not_le.mpr ha)
  simp [State.offer, hc, hstop, hro]

/-- A data word at the pointer is the owner's own row, and the pointer advanced. -/
theorem execDataWord_owner {v : Word} (hr : s.responses.length + 1 ≤ 32) (hc : s.decoder.command = none)
    (ha : s.decoder.pointer.addr < s.decoder.pointer.stop) (hro : s.decoder.pointer.region.readOnly = false)
    {w : State × WriteOutcome} (hw : s.writeItem s.decoder.pointer v = w) :
    exec (.dataWord v) s = .next ((s.manageWrite w).setPointer (s.decoder.pointer.forward 1)) := by
  show Host.Outcome.next (s.manage [] [v]) = _
  rw [State.manage_data hr, State.offer_owner hc ha hro, hw, State.manageWrite_eq hr, State.report_setPointer]

/-- A BANK address names the word of a set (R21). -/
theorem State.writeItem_bank {p : Pointer} {n : SetNo} {w : WordNo} {v : Word} (hp : p.region = .bank)
    (ha : p.addr = n.val * 64 + w.val) : s.writeItem p v = s.writeBankWord n w.val v := by
  have hset : setOfNat (p.addr / Config.setStride) = some n := by
    have hdiv : p.addr / Config.setStride = n.val := by simp only [Config.setStride]; omega
    rw [hdiv, setOfNat, dif_pos n.isLt]
  have hword : p.addr % Config.setStride = w.val := by simp only [Config.setStride]; omega
  rw [State.writeItem, hp]
  dsimp only
  rw [hset, hword]

/-- Settles O21, by the region of the pointer. -/
theorem dataWord : Obligations.DataWord := by
  intro v s hr p after
  refine ⟨execDataWord_refused_in_place hr, fun hc ha => ⟨fun hro => ?_, fun n w hp hpa => ?_, fun a hp hpa => ?_,
    fun hp hpa => ?_, fun q hp hpa => ?_, fun q hp hpa => ?_⟩⟩
  · have hoffer : s.offer v = (s.setPointer (p.forward 1), .refused .state) := by
      have hstop : s.decoder.pointer.stopped = false := decide_eq_false (Nat.not_le.mpr ha)
      have hread : s.decoder.pointer.region.readOnly = true := by
        obtain e | e | e | e := hro <;> exact congrArg Region.readOnly e
      simp [State.offer, hc, hstop, hread, p]
    show Host.Outcome.next (s.manage [] [v]) = _
    rw [State.manage_data hr, hoffer, State.report_setPointer, State.reported_of_refused]
    rfl
  all_goals
    have hwritable : s.decoder.pointer.region.readOnly = false := congrArg Region.readOnly hp
    refine ⟨_, rfl, execDataWord_owner hr hc ha hwritable ?_⟩
  · exact State.writeItem_bank hp hpa
  · rw [State.writeItem, hp, hpa]
  · rw [State.writeItem, hp]
    exact if_pos hpa
  · rw [State.writeItem, hp]
    have hne : p.addr ≠ 1 := fun e => by rw [e] at hpa; cases hpa
    exact (if_neg hne).trans (by rw [hpa])
  · rw [State.writeItem, hp]
    dsimp only
    rw [hpa]

end Sys2Proof.Machine
end

section
/-! SUPPORT. The command words and the data words of a management frame, one word at a time (R144, R147, R151, R152,
R157, R163): a frame is its first command word, then the frame of the rest. -/

namespace Sys2Proof.Machine

variable {s t : State} {w : Word} {commands data : List Word}

/-! ## A frame, word by word (R144, R145) -/

theorem headerNeed_eq (commands data : List Word) :
    headerNeed commands data = commands.length + (if data = [] then 0 else 1) := by
  cases data <;> rfl

theorem State.roomAvailable_frame (s : State) (following : Nat) (data : List Word) :
    s.roomAvailable following (!data.isEmpty) =
      32 - s.responses.length - (1 + following + if data = [] then 0 else 1) := by
  cases data <;> rfl

/-- A frame that is let in and executes no PART RESET: its command words, then its data words. -/
theorem State.manage_taken (hr : s.responses.length + (commands.length + if data = [] then 0 else 1) ≤ 32)
    (h : s.takeWords (!data.isEmpty) commands = (t, false)) : s.manage commands data = t.takeData data := by
  unfold State.manage
  rw [if_neg (by rw [headerNeed_eq, State.freeRoom, Config.responseRoom]; omega), h]

/-- A frame that is let in and executes a PART RESET ends there (R163). -/
theorem State.manage_reset (hr : s.responses.length + (commands.length + if data = [] then 0 else 1) ≤ 32)
    (h : s.takeWords (!data.isEmpty) commands = (t, true)) : s.manage commands data = t := by
  unfold State.manage
  rw [if_neg (by rw [headerNeed_eq, State.freeRoom, Config.responseRoom]; omega), h]

@[simp] theorem State.manage_nil : s.manage [] [] = s :=
  (if_neg (Nat.not_lt_zero _)).trans s.takeData_nil

theorem State.takeWords_cons {hasData : Bool} (h : s.takeWord w commands.length hasData = (t, false)) :
    s.takeWords hasData (w :: commands) = t.takeWords hasData commands := by
  rw [State.takeWords, h]

/-- After a command word that is no PART RESET comes the frame of the rest, if the word has left it its header need. -/
theorem State.manage_cons (hr : s.responses.length + (1 + commands.length + if data = [] then 0 else 1) ≤ 32)
    (h : s.takeWord w commands.length (!data.isEmpty) = (t, false))
    (ht : t.responses.length + (commands.length + if data = [] then 0 else 1) ≤ 32) :
    s.manage (w :: commands) data = t.manage commands data := by
  have hr' : s.responses.length + ((w :: commands).length + if data = [] then 0 else 1) ≤ 32 := by
    simp only [List.length_cons]; omega
  have hwords := State.takeWords_cons h
  rcases hrest : t.takeWords (!data.isEmpty) commands with ⟨u, reset⟩
  rw [hrest] at hwords
  cases reset with
  | true => rw [State.manage_reset hr' hwords, State.manage_reset ht hrest]
  | false => rw [State.manage_taken hr' hwords, State.manage_taken ht hrest]

/-! ## The Response Queue at a command (R157, R159) -/

theorem State.readCommand_responses (s : State) (imm : BitVec 9) :
    (s.readCommand imm).1.responses = s.responses := by
  have adv : ∀ (u : State) (k : Nat), (u.advanceRead k).responses = u.responses := by
    intro u k
    unfold State.advanceRead
    split <;> rfl
  simp only [State.readCommand]
  split_ifs
  · rfl
  · rw [adv]
    unfold State.readBank
    split
    · simp
    · rfl
  · rw [adv]; rfl

theorem State.commitSet_responses (s : State) (imm : BitVec 9) : (s.commitSet imm).1.responses = s.responses := by
  have hload : ∀ n : SetNo, (s.commitLoading n).1.responses = s.responses := by
    intro n
    obtain ⟨-, -, -, hread, -⟩ := s.readAll_outside n allWords
    unfold State.commitLoading
    generalize s.readAll n allWords = read at hread ⊢
    obtain ⟨s1, found⟩ := read
    dsimp only at hread ⊢
    split <;> simp [hread]
  unfold State.commitSet State.commitKnown
  split
  · rfl
  · split
    · split
      · rfl
      · exact hload _
    all_goals rfl

theorem State.transferStart_responses (s : State) (first second : Word) :
    (s.transferStart first second).1.responses = s.responses := by
  simp only [State.transferStart]
  split
  · rfl
  · split
    · rfl
    · split
      · simp only [State.startCopy]
        split <;> simp [State.holdSource, State.holdDestination]
      · simp only [State.startDump]
        split <;> simp [State.holdSource]
      · rfl

theorem State.moveLane_responses (s : State) (l : Lane) (m : LaneMode) : (s.moveLane l m).responses = s.responses := by
  unfold State.moveLane
  split <;> simp

/-- A command leaves the Response Queue to its answer, but for PART RESET, which empties it (R159, R163). -/
theorem State.runCommand_responses (s : State) {f : CommandFields} (hf : f.code.toNat ≠ 21) (args : List Word)
    (room : Nat) : (s.runCommand f args room).1.responses = s.responses := by
  unfold State.runCommand
  split
  · rfl
  · unfold State.pointCommand; split_ifs <;> rfl
  · exact s.readCommand_responses _
  · unfold State.patchOpen; split <;> rfl
  · unfold State.patchClose; split <;> rfl
  · exact s.commitSet_responses _
  · unfold State.freeSet; split <;> (try split) <;> simp [State.zeroSet]
  · unfold State.unfreezeSet; split <;> (try split) <;> rfl
  · unfold State.laneEnable; split <;> rfl
  · unfold State.laneStart; split_ifs <;> rfl
  · unfold State.laneStop
    split
    · exact s.moveLane_responses _ _
    · rfl
  · exact s.moveLane_responses _ _
  · unfold State.adaptWindow; split_ifs <;> rfl
  · unfold State.probeStart; split_ifs <;> rfl
  · unfold State.probeStop; split <;> simp
  · exact s.transferStart_responses _ _
  · unfold State.transferAbort; split <;> simp
  · rfl
  · simp only [State.fetchNotices]; split <;> rfl
  · rfl
  · rfl
  · exact absurd ‹_› hf
  · rfl

/-- A command that executes leaves its frame the header need of the rest. -/
theorem State.execCommand_room {f : CommandFields} (hf : f.code.toNat ≠ 21) (args : List Word)
    (hr : s.responses.length + (1 + commands.length + if data = [] then 0 else 1) ≤ 32) :
    (s.execCommand f args commands.length (!data.isEmpty)).responses.length +
      (commands.length + if data = [] then 0 else 1) ≤ 32 := by
  have hroom := s.roomAvailable_frame commands.length data
  simp only [State.execCommand]
  split
  · simp only [State.respond_responses, Reply.bare_words, List.length_append, List.length_map, List.length_singleton]
    omega
  · have hwords := s.runCommand_words f args (Nat.le_of_not_lt ‹_›)
    simp only [State.respond_responses, s.runCommand_responses hf, List.length_append, List.length_map, List.length_cons]
    omega

/-! ## Commands and their arguments (R147) -/

/-- A command that takes no argument executes at once, then the rest of the frame follows. -/
theorem State.manage_executes (hc : s.decoder.command = none) (ha : argCount (commandFields w).code = 0)
    (hf : (commandFields w).code.toNat ≠ 21)
    (hr : s.responses.length + (1 + commands.length + if data = [] then 0 else 1) ≤ 32) :
    s.manage (w :: commands) data =
      (s.execCommand (commandFields w) [] commands.length (!data.isEmpty)).manage commands data := by
  refine State.manage_cons hr ?_ (State.execCommand_room hf [] hr)
  have hreset : decide ((commandFields w).code = partResetCode) = false :=
    decide_eq_false fun e => hf (by rw [e]; rfl)
  simp only [State.takeWord, hc, ha, if_true, hreset]

/-- A command word that takes arguments is pending, and the rest of the frame follows. -/
theorem State.manage_starts (hc : s.decoder.command = none) (ha : 0 < argCount (commandFields w).code)
    (hr : s.responses.length + (1 + commands.length + if data = [] then 0 else 1) ≤ 32) :
    s.manage (w :: commands) data =
      (s.clearCommand.holdCommand { fields := commandFields w, args := [] }).manage commands data := by
  refine State.manage_cons hr ?_ (by simp only [State.holdCommand_responses, State.clearCommand_responses]; omega)
  simp only [State.takeWord, hc, if_neg (Nat.ne_of_gt ha)]

/-- An argument that is not the last is gathered, and the rest of the frame follows. -/
theorem State.manage_gathers {p : PendingCommand} (hc : s.decoder.command = some p)
    (ha : p.args.length + 2 ≤ argCount p.fields.code)
    (hr : s.responses.length + (1 + commands.length + if data = [] then 0 else 1) ≤ 32) :
    s.manage (w :: commands) data = (s.holdCommand { p with args := p.args ++ [w] }).manage commands data := by
  refine State.manage_cons hr ?_ (by simp only [State.holdCommand_responses]; omega)
  simp only [State.takeWord, hc, if_neg (Nat.not_le.mpr ha)]

/-- PART RESET takes no argument. -/
theorem code_ne_partReset {code : BitVec 6} (h : 0 < argCount code) : code.toNat ≠ 21 := by
  intro e
  rw [argCount, e] at h
  exact absurd h (by decide)

/-- The last argument executes its command, and the rest of the frame follows. -/
theorem State.manage_completes {p : PendingCommand} (hc : s.decoder.command = some p)
    (ha : p.args.length + 1 = argCount p.fields.code)
    (hr : s.responses.length + (1 + commands.length + if data = [] then 0 else 1) ≤ 32) :
    s.manage (w :: commands) data =
      (s.clearCommand.execCommand p.fields (p.args ++ [w]) commands.length (!data.isEmpty)).manage commands data := by
  refine State.manage_cons hr ?_ (State.execCommand_room (code_ne_partReset (by omega)) _ hr)
  simp only [State.takeWord, hc, if_pos ha.ge]

/-- A frame of the arguments that a pending command awaits executes it. -/
theorem State.manage_arguments {f : CommandFields} {given rest : List Word}
    (hc : s.decoder.command = some ⟨f, given⟩) (hrest : rest ≠ []) (ha : given.length + rest.length = argCount f.code)
    (hr : s.responses.length + rest.length ≤ 32) :
    s.manage rest [] = s.clearCommand.execCommand f (given ++ rest) 0 false := by
  induction rest generalizing s given with
  | nil => exact absurd rfl hrest
  | cons x rest ih =>
    simp only [List.length_cons] at ha hr
    have hroom : s.responses.length + (1 + rest.length + if ([] : List Word) = [] then 0 else 1) ≤ 32 := by
      simp only [if_true]; omega
    cases rest with
    | nil => rw [State.manage_completes hc ha hroom, State.manage_nil]; rfl
    | cons y rest =>
      have hgathers : given.length + 2 ≤ argCount f.code := by simp only [List.length_cons] at ha; omega
      rw [State.manage_gathers hc hgathers hroom, ih (given := given ++ [x]) rfl (List.cons_ne_nil _ _)]
      · rw [List.append_assoc]; rfl
      · simp only [List.length_append, List.length_singleton]; omega
      · rw [State.holdCommand_responses]; omega

/-- A frame of one command with all its arguments executes it. -/
theorem State.manage_whole {f : CommandFields} {args : List Word} (hc : s.decoder.command = none)
    (hw : commandFields w = f) (hargs : args ≠ []) (ha : args.length = argCount f.code)
    (hr : s.responses.length + (1 + args.length) ≤ 32) :
    s.manage (w :: args) [] = s.clearCommand.execCommand f args 0 false := by
  subst hw
  have hpos : 0 < argCount (commandFields w).code := ha ▸ List.length_pos_iff.mpr hargs
  rw [State.manage_starts hc hpos (by simp only [if_true]; omega),
    State.manage_arguments (given := []) rfl hargs (by rw [← ha]; exact Nat.zero_add _)
      (by simp only [State.holdCommand_responses, State.clearCommand_responses]; omega)]
  rfl

/-! ## PART RESET (R163) -/

/-- PART RESET's own frame is its answer behind the reset; the rest of its frame is lost. -/
theorem State.manage_partReset (hc : s.decoder.command = none)
    (hr : s.responses.length + (1 + commands.length + if data = [] then 0 else 1) ≤ 32) :
    s.manage (BitVec.ofNat 16 (21 * 1024) :: commands) data = s.partReset.respond partResetCode (.bare .ok) := by
  have hfields : commandFields (BitVec.ofNat 16 (21 * 1024)) = ⟨partResetCode, .zero, 0⟩ := by decide
  have hexec : s.execCommand ⟨partResetCode, .zero, 0⟩ [] commands.length (!data.isEmpty) =
      s.partReset.respond partResetCode (.bare .ok) := State.execCommand_served _ _ _ _ _ (Nat.zero_le _)
  have htake : s.takeWord (BitVec.ofNat 16 (21 * 1024)) commands.length (!data.isEmpty) =
      (s.partReset.respond partResetCode (.bare .ok), true) := by
    simp only [State.takeWord, hc, hfields, hexec]
    rfl
  refine State.manage_reset (by simp only [List.length_cons]; omega) ?_
  rw [State.takeWords, htake]

/-! ## A command without arguments in a frame (R157, R162) -/

/-- The data words a command without arguments would carry (R160). -/
theorem State.dataNeed_eq (s : State) {f : CommandFields} (ha : argCount f.code = 0) :
    s.dataNeed f =
      if f.code.toNat = 2 ∧ 1 ≤ f.imm.toNat ∧ f.imm.toNat ≤ 16 then
        min f.imm.toNat (s.decoder.pointer.stop - s.decoder.pointer.addr)
      else if f.code.toNat = 17 then 7
      else if f.code.toNat = 18 ∧ 1 ≤ f.imm.toNat ∧ f.imm.toNat ≤ 8 then 1
      else if f.code.toNat = 19 then 1 else 0 := by
  have hrange : (f.imm.toNat = 0 ∨ 16 < f.imm.toNat) ↔ ¬(1 ≤ f.imm.toNat ∧ f.imm.toNat ≤ 16) := by omega
  unfold State.dataNeed
  split <;> rename_i hcode
  · simp only [hcode, hrange, true_and, ite_not]
    rfl
  · rw [argCount, hcode] at ha
    exact absurd ha (by decide)
  · simp [hcode]
  · simp [hcode]
    split <;> split <;> omega
  · simp [hcode]
  · simp_all

/-- Only a FETCH NOTICES that is served looks at its room. -/
theorem State.runCommand_room (s : State) {f : CommandFields}
    (hf : ¬(f.code.toNat = 18 ∧ 1 ≤ f.imm.toNat ∧ f.imm.toNat ≤ 8)) (args : List Word) (room room' : Nat) :
    s.runCommand f args room = s.runCommand f args room' := by
  unfold State.runCommand
  split <;> rename_i hcode
  case h_19 =>
    have hi : f.imm.toNat = 0 ∨ 8 < f.imm.toNat := by omega
    exact (if_pos hi).trans (if_pos hi).symm
  all_goals rfl

/-! ## A command whose arguments are complete reads no word of the Response Queue -/

/-- The state with other words in the Response Queue. -/
def State.withResponses (s : State) (q : List QueuedWord) : State := { s with responses := q }

section
variable (s : State) (q : List QueuedWord) (l : Lane)
@[simp] theorem State.withResponses_decoder : (s.withResponses q).decoder = s.decoder := (rfl)
@[simp] theorem State.withResponses_transfer : (s.withResponses q).transfer = s.transfer := (rfl)
@[simp] theorem State.withResponses_responses : (s.withResponses q).responses = q := (rfl)
@[simp] theorem State.withResponses_lane : (s.withResponses q).lane l = s.lane l := by cases l <;> rfl
@[simp] theorem State.withResponses_record (n : SetNo) : (s.withResponses q).record n = s.record n := (rfl)
@[simp] theorem State.setLane_withResponses (x : LaneState) :
    (s.withResponses q).setLane l x = (s.setLane l x).withResponses q := (rfl)
end

/-- A command's rule that neither reads nor changes the Response Queue. -/
def QueueBlind (f : State → State × Reply) : Prop :=
  ∀ (s : State) (q : List QueuedWord), f (s.withResponses q) = ((f s).1.withResponses q, (f s).2)

theorem State.pointCommand_queueBlind (imm : BitVec 9) (addr : Word) : QueueBlind (·.pointCommand imm addr) := by
  intro s q
  simp only [State.pointCommand, State.withResponses_decoder]
  split_ifs <;> rfl

theorem State.adaptWindow_queueBlind (l : Lane) (length : Word) : QueueBlind (·.adaptWindow l length) := by
  intro s q
  simp only [State.adaptWindow, State.onAdapt, State.withResponses_lane, State.setLane_withResponses]
  split_ifs <;> rfl

theorem State.probeStart_queueBlind (l : Lane) (length amplitude : Word) :
    QueueBlind (·.probeStart l length amplitude) := by
  intro s q
  simp only [State.probeStart, State.onCampaign, State.withResponses_lane, State.setLane_withResponses]
  split_ifs <;> rfl

theorem State.applyBusy_withResponses (s : State) (q : List QueuedWord) (n : SetNo) :
    (s.withResponses q).applyBusy n = (s.applyBusy n).withResponses q := by
  simp only [State.applyBusy, State.withResponses_record, State.withResponses_transfer]
  split_ifs
  · rfl
  · rw [State.endTransfer_eq _ _ (.inr (by decide)), State.endTransfer_eq _ _ (.inr (by decide))]
    rfl
  · rfl

theorem State.transferStart_queueBlind (first second : Word) : QueueBlind (·.transferStart first second) := by
  intro s q
  have hbusy : ∀ (u : State) (n : SetNo),
      ((u.withResponses q).applyBusy n, Reply.bare .ok) = ((u.applyBusy n).withResponses q, Reply.bare .ok) :=
    fun u n => by rw [State.applyBusy_withResponses]
  simp only [State.transferStart, State.withResponses_transfer]
  split
  · rfl
  · split
    · rfl
    · split
      · simp only [State.startCopy, State.withResponses_record]
        split
        · rfl
        · exact hbusy (State.holdDestination (State.holdSource { s with transfer := _ } _) _) _
      · simp only [State.startDump, State.withResponses_record]
        split
        · rfl
        · exact hbusy (State.holdSource { s with transfer := _ } _) _
      · rfl

/-- The commands that take arguments are POINT, ADAPT WINDOW, PROBE START and TRANSFER START (R160). -/
theorem code_of_argCount {code : BitVec 6} (h : 0 < argCount code) :
    code.toNat = 1 ∨ code.toNat = 12 ∨ code.toNat = 13 ∨ code.toNat = 15 := by
  unfold argCount at h
  split at h <;> simp_all

theorem argCount_le (code : BitVec 6) : argCount code ≤ 2 := by
  unfold argCount
  split <;> decide

theorem State.runCommand_queueBlind {f : CommandFields} (hf : 0 < argCount f.code) (args : List Word) (room : Nat) :
    QueueBlind (·.runCommand f args room) := by
  intro s q
  rcases code_of_argCount hf with h | h | h | h <;> simp only [State.runCommand, h]
  · exact State.pointCommand_queueBlind _ _ s q
  · exact State.adaptWindow_queueBlind _ _ s q
  · exact State.probeStart_queueBlind _ _ _ s q
  · exact State.transferStart_queueBlind _ _ s q

/-- Of the commands that take arguments PROBE START alone answers with a data word (R160). -/
theorem State.dataNeed_of_argCount (s : State) {f : CommandFields} (hf : 0 < argCount f.code) :
    s.dataNeed f = if f.code.toNat = 13 then 1 else 0 := by
  rcases code_of_argCount hf with h | h | h | h <;> simp [State.dataNeed, h]

/-- The answer of a served command with arguments, behind any words of the Response Queue: the answer it gives in a
frame of its own on an empty queue, its words behind those. -/
theorem State.execCommand_answer {f : CommandFields} (hf : 0 < argCount f.code) (args : List Word)
    {following : Nat} {hasData : Bool} (hroom : s.dataNeed f ≤ s.roomAvailable following hasData) :
    s.execCommand f args following hasData =
      (let alone := (s.withResponses []).execCommand f args 0 false
       alone.withResponses (s.responses ++ alone.responses)) := by
  have hcode := code_ne_partReset hf
  have halone : (s.withResponses []).dataNeed f ≤ (s.withResponses []).roomAvailable 0 false := by
    rw [State.dataNeed_of_argCount _ hf]
    show _ ≤ 31
    split <;> decide
  have hblind := State.runCommand_queueBlind hf args ((s.withResponses []).roomAvailable 0 false) s []
  have hsame := s.runCommand_room (f := f) (by have := code_of_argCount hf; omega) args
    ((s.withResponses []).roomAvailable 0 false) (s.roomAvailable following hasData)
  have hqueue := s.runCommand_responses hcode args (s.roomAvailable following hasData)
  dsimp only at hblind
  rw [State.execCommand_served _ _ _ _ _ hroom, State.execCommand_served _ _ _ _ _ halone, hblind, hsame]
  dsimp only
  rw [← hqueue]
  rfl

end Sys2Proof.Machine
end

section
/-! SUPPORT. The data words of a frame and their report (R151, R152), and the frames of several words: the settlement of
CommandWordsOfFrames. -/

namespace Sys2Proof.Machine

variable {s : State} {w : Word} {commands data : List Word}

/-! ## Data words (R151, R152) -/

/-- The state after the first `i` data words of a frame have been offered. -/
def State.offered (s : State) (data : List Word) (i : Nat) : State :=
  (data.take i).foldl (fun (u : State) v => (u.offer v).1) s

/-- What becomes of data word `i` of a frame. -/
def State.outcomeAt (s : State) (data : List Word) (i : Nat) : WriteOutcome :=
  ((s.offered data i).offer (data.getD i 0)).2

/-- How many data words of a frame have an outcome of a kind. -/
def State.countOutcomes (s : State) (data : List Word) (p : WriteOutcome → Bool) : Nat :=
  ((List.range data.length).filter fun i => p (s.outcomeAt data i)).length

/-- The data word was refused, for whatever reason (R152). -/
def WriteOutcome.isRefused (o : WriteOutcome) : Bool :=
  match o with
  | .refused _ => true
  | _ => false

theorem State.countOutcomes_cons (s : State) (v : Word) (vs : List Word) (p : WriteOutcome → Bool) :
    s.countOutcomes (v :: vs) p = (if p (s.offer v).2 then 1 else 0) + (s.offer v).1.countOutcomes vs p := by
  have hfirst : s.outcomeAt (v :: vs) 0 = (s.offer v).2 := rfl
  have hrest : (fun i => p (s.outcomeAt (v :: vs) i)) ∘ Nat.succ = fun i => p ((s.offer v).1.outcomeAt vs i) := rfl
  rw [State.countOutcomes, List.length_cons, List.range_succ_eq_map, List.filter_cons, hfirst, List.filter_map, hrest]
  split
  · rw [List.length_cons, List.length_map, Nat.add_comm]; rfl
  · rw [List.length_map, Nat.zero_add]; rfl

theorem Tally.count_eq (t : Tally) (o : WriteOutcome) :
    t.count o =
      ⟨t.refused + (if o.isRefused then 1 else 0), t.clamped + (if decide (o = .clamped) then 1 else 0)⟩ := by
  cases o <;> rfl

/-- The data words of a frame are offered one after the other, and their outcomes counted. -/
theorem State.offerAll_eq (s : State) (t : Tally) (data : List Word) :
    s.offerAll t data =
      (s.offered data data.length,
        ⟨t.refused + s.countOutcomes data WriteOutcome.isRefused,
          t.clamped + s.countOutcomes data fun o => decide (o = .clamped)⟩) := by
  induction data generalizing s t with
  | nil => rfl
  | cons v vs ih =>
    rw [State.offerAll, ih, State.countOutcomes_cons, State.countOutcomes_cons, Tally.count_eq, Nat.add_assoc,
      Nat.add_assoc]
    rfl

/-- While a command is pending every data word is refused in place. -/
theorem State.offerAll_pending (hc : s.decoder.command ≠ none) (t : Tally) (data : List Word) :
    s.offerAll t data = (s, { t with refused := t.refused + data.length }) := by
  induction data generalizing t with
  | nil => rfl
  | cons v vs ih =>
    have hoffer : s.offer v = (s, .refused .state) := if_pos (Option.isSome_iff_ne_none.mpr hc)
    rw [State.offerAll, hoffer, Tally.count_refused, ih, List.length_cons, Nat.add_assoc, Nat.add_comm 1]

/-- The report of a tally in the words of `State.reported`. -/
theorem State.report_eq (s : State) (t : Tally) : s.report t = s.reported t.refused t.clamped := rfl

/-- A frame of data words alone (R144, R152). -/
theorem State.manage_data_words (hr : s.responses.length + 1 ≤ 32) (data : List Word) :
    s.manage [] data = s.takeData data := by
  refine State.manage_taken ?_ rfl
  simp only [List.length_nil]
  split <;> omega

theorem State.takeData_eq (s : State) (data : List Word) :
    s.takeData data =
      (s.offered data data.length).reported (s.countOutcomes data WriteOutcome.isRefused)
        (s.countOutcomes data fun o => decide (o = .clamped)) := by
  rw [State.takeData, State.offerAll_eq, State.report_eq, Nat.zero_add, Nat.zero_add]

theorem State.takeData_pending (hc : s.decoder.command ≠ none) (data : List Word) :
    s.takeData data = s.reported data.length 0 := by
  rw [State.takeData, State.offerAll_pending hc, State.report_eq, Nat.zero_add]

/-! ## A command of a frame of several words (R157, R162) -/

/-- A command whose data words would not fit beside the words that the frame still needs answers FULL. -/
theorem State.execCommand_full_eq {f : CommandFields} {args : List Word} {code : Nat} (hcode : f.code.toNat = code)
    (hfull : 32 < s.responses.length + (1 + commands.length + if data = [] then 0 else 1) + s.dataNeed f)
    (hr : s.responses.length + (1 + commands.length + if data = [] then 0 else 1) ≤ 32) :
    s.execCommand f args commands.length (!data.isEmpty) = s.answered code 3 [] := by
  rw [State.execCommand_full _ _ _ _ _ (by rw [State.roomAvailable_frame]; omega), State.respond_eq, hcode]
  rfl

/-- A command that looks at its need alone is served in a frame of several words as in one of its own. -/
theorem State.execCommand_alone {f : CommandFields} (hf : ¬(f.code.toNat = 18 ∧ 1 ≤ f.imm.toNat ∧ f.imm.toNat ≤ 8))
    (hr : s.responses.length + (1 + commands.length + if data = [] then 0 else 1) + s.dataNeed f ≤ 32) :
    s.execCommand f [] commands.length (!data.isEmpty) = s.execCommand f [] 0 false := by
  have hframe : s.dataNeed f ≤ s.roomAvailable commands.length (!data.isEmpty) := by
    rw [State.roomAvailable_frame]; omega
  have halone : s.dataNeed f ≤ s.roomAvailable 0 false := by
    rw [State.roomAvailable_alone]; omega
  rw [State.execCommand_served _ _ _ _ _ hframe, State.execCommand_served _ _ _ _ _ halone,
    s.runCommand_room hf [] (s.roomAvailable commands.length (!data.isEmpty)) (s.roomAvailable 0 false)]

/-- A FETCH NOTICES that is served fits its notices in what room the frame leaves it (R162). -/
theorem State.execCommand_fetchNotices {f : CommandFields} (hcode : f.code.toNat = 18) (h1 : 1 ≤ f.imm.toNat)
    (h8 : f.imm.toNat ≤ 8) {following : Nat} {hasData : Bool} (hroom : 1 ≤ s.roomAvailable following hasData) :
    let fetched := fetchCount f.imm.toNat s.notices.records.length (s.roomAvailable following hasData)
    s.execCommand f [] following hasData =
      State.answered { s with notices := { records := s.notices.records.drop fetched, lost := 0 } } 18 0
        (BitVec.ofNat 16 s.notices.lost :: (s.notices.records.take fetched).flatMap Notice.words) := by
  have hi : ¬(f.imm.toNat = 0 ∨ 8 < f.imm.toNat) := by omega
  have hneed : s.dataNeed f = 1 := by simp only [State.dataNeed, hcode, if_neg hi]
  have hrun : ∀ room, s.runCommand f [] room = s.fetchNotices f.imm room := fun room => by
    simp only [State.runCommand, hcode]
  rw [State.execCommand_served _ _ _ _ _ (hneed ▸ hroom), hrun, State.respond_eq, hcode]
  simp only [State.fetchNotices, if_neg hi]
  rfl

/-! ## The last argument of a pending command (R147, R157) -/

/-- A PROBE START whose data word would not fit is answered FULL and dropped. -/
theorem State.manage_completes_full {p : PendingCommand} (hc : s.decoder.command = some p)
    (ha : p.args.length + 1 = argCount p.fields.code) (h13 : p.fields.code.toNat = 13)
    (hr : s.responses.length + (1 + commands.length + if data = [] then 0 else 1) ≤ 32)
    (hfull : 32 < s.responses.length + (1 + commands.length + if data = [] then 0 else 1) + 1) :
    s.manage (w :: commands) data = (s.clearCommand.answered 13 3 []).manage commands data := by
  have hneed : s.clearCommand.dataNeed p.fields = 1 :=
    (State.dataNeed_of_argCount _ (by omega)).trans (if_pos h13)
  rw [State.manage_completes hc ha hr,
    State.execCommand_full_eq (s := s.clearCommand) h13 (by rw [hneed]; exact hfull) hr]

/-- Any other last argument has the effect and the answer of the whole command in a frame of its own, the answer queued
behind the words that stand in the Response Queue. -/
theorem State.manage_completes_served {p : PendingCommand} (hc : s.decoder.command = some p)
    (ha : p.args.length + 1 = argCount p.fields.code)
    (hr : s.responses.length + (1 + commands.length + if data = [] then 0 else 1) ≤ 32)
    (hfits : p.fields.code.toNat ≠ 13 ∨
      s.responses.length + (1 + commands.length + if data = [] then 0 else 1) + 1 ≤ 32)
    {first : Word} (hfirst : commandFields first = p.fields) :
    s.manage (w :: commands) data =
      (let alone := (s.clearCommand.withResponses []).manage (first :: (p.args ++ [w])) []
       (alone.withResponses (s.responses ++ alone.responses)).manage commands data) := by
  have hpos : 0 < argCount p.fields.code := by omega
  have hserved : s.clearCommand.dataNeed p.fields ≤ s.clearCommand.roomAvailable commands.length (!data.isEmpty) := by
    rw [State.dataNeed_of_argCount _ hpos, State.roomAvailable_frame, State.clearCommand_responses]
    split <;> omega
  have halone : (s.clearCommand.withResponses []).manage (first :: (p.args ++ [w])) [] =
      (s.clearCommand.withResponses []).execCommand p.fields (p.args ++ [w]) 0 false := by
    have hle := argCount_le p.fields.code
    refine State.manage_whole rfl hfirst (by simp) (by simpa using ha) ?_
    simp only [State.withResponses_responses, List.length_nil, List.length_append, List.length_singleton]
    omega
  rw [State.manage_completes hc ha hr, State.execCommand_answer hpos _ hserved, halone]
  rfl

/-- Settles O24: a frame is its first command word and then the rest, its data words are offered one after the other,
and a last argument's answer does not depend on the words queued before it. -/
theorem commandWordsOfFrames : Obligations.CommandWordsOfFrames := by
  refine ⟨fun w a b commands data s h => ?_, fun data s hr => ?_, fun w commands data s => ?_⟩
  · obtain ⟨hc, -, hr3⟩ := h
    intro taken
    have hroom : ∀ {rest : List Word}, rest.length ≤ 2 →
        s.responses.length + (1 + rest.length + if ([] : List Word) = [] then 0 else 1) ≤ 32 := by
      intro rest hrest; simp only [if_true]; omega
    have hstarts : ∀ {rest : List Word}, rest.length ≤ 2 → 0 < argCount (commandFields w).code →
        s.manage (w :: rest) [] = (taken []).manage rest [] :=
      fun hrest ha => State.manage_starts hc ha (hroom hrest)
    have hgathers : ∀ {rest : List Word}, rest.length ≤ 2 → argCount (commandFields w).code = 2 →
        (taken []).manage (a :: rest) [] = (taken [a]).manage rest [] :=
      fun hrest ha => State.manage_gathers (p := ⟨commandFields w, []⟩) rfl ha.ge (hroom hrest)
    refine ⟨fun ha => ?_, fun ha => ?_, fun hreset => ?_, ?_⟩
    · have hpos : 0 < argCount (commandFields w).code := by omega
      exact ⟨(hstarts (by decide) hpos).trans State.manage_nil, (hstarts (by simp : [a].length ≤ 2) hpos).symm⟩
    · have hpos : 0 < argCount (commandFields w).code := by omega
      have hone : (taken []).manage [a] [] = taken [a] := (hgathers (by decide) ha).trans State.manage_nil
      refine ⟨(hstarts (by simp : [a].length ≤ 2) hpos).trans hone, hone, ?_⟩
      rw [hstarts (by simp : [a, b].length ≤ 2) hpos, hgathers (by simp : [b].length ≤ 2) ha]
    · rw [State.manage_partReset hc (by split <;> omega), State.manage_partReset hc (hroom (by decide))]
    · intro reserve code n need fetched ha hcode hres
      have hneed : s.dataNeed (commandFields w) = need := s.dataNeed_eq ha
      rw [State.manage_executes hc ha hcode hres]
      refine ⟨fun hfull => ?_, fun hfits hfetch => ?_, fun hfits h18 h1 h8 => ?_⟩
      · rw [State.execCommand_full_eq rfl (by rw [hneed]; exact hfull) hres]
      · have halone : s.manage [w] [] = s.execCommand (commandFields w) [] 0 false := by
          rw [State.manage_executes hc ha hcode (hroom (by decide)), State.manage_nil]; rfl
        rw [State.execCommand_alone hfetch (by rw [hneed]; exact hfits), halone]
      · have hone : need = 1 := by simp [need, h18, h1, h8]
        have hserved : 1 ≤ s.roomAvailable commands.length (!data.isEmpty) := by
          rw [State.roomAvailable_frame]; omega
        refine ⟨_, ?_, rfl⟩
        rw [State.execCommand_fetchNotices h18 h1 h8 hserved, State.roomAvailable_frame]
        rfl
  · intro offered outcome count refused
    have hrefused : refused = WriteOutcome.isRefused := by
      funext o
      cases o <;> rfl
    have hframe := fun d => State.manage_data_words hr d
    refine ⟨fun _ => ?_, fun hc => ?_, fun v => ?_⟩
    · rw [hrefused, hframe, State.takeData_eq]; rfl
    · rw [hframe, State.takeData_pending hc]
    · rw [hrefused]
      refine congrArg Host.Outcome.next ((State.manage_data hr).trans ?_)
      rw [State.report_eq, Tally.count_eq, Nat.zero_add, Nat.zero_add]
      simp only [decide_eq_true_eq]
  · intro reserve idle hres
    refine ⟨fun hc ha => State.manage_starts hc ha hres, fun p hc => ⟨fun ha => State.manage_gathers hc ha hres,
      fun ha => ⟨fun h13 hfull => State.manage_completes_full hc ha h13 hres hfull,
        fun hfits first hfirst => ⟨_, rfl, State.manage_completes_served hc ha hres hfits hfirst⟩⟩⟩⟩

end Sys2Proof.Machine
end

section
/-! SUPPORT. TRANSFER START refused (R166): the fields of its first argument as numbers, and its checks in their
order. -/

namespace Sys2Proof.Machine

variable {s : State} {a b : Word}

/-- TRANSFER START by itself, in a frame of its own. -/
theorem execTransferStart_eq (h : s.accepts 3) {t : State} {r : Reply} (hrun : s.transferStart a b = (t, r)) :
    exec (.transferStart a b) s = .next (t.answered 15 r.result.code r.words) := by
  obtain ⟨hc, ha, hr⟩ := h
  have hserved : s.runCommand ⟨15#6, .zero, 0⟩ [a, b] (s.roomAvailable 0 false) = (t, r) := hrun
  refine congrArg Host.Outcome.next ((State.command_two .zero hc hr 15#6 rfl 0 a b).trans ?_)
  rw [State.clearCommand_of_none hc ha, State.execCommand_served _ _ _ _ _ (Nat.zero_le _), hserved, State.respond_eq]
  rfl

/-! ## The first argument (R142) -/

theorem transferArgs_source (a : Word) : (transferArgs a).source = setOfNat (a.toNat / 256 % 64) := by
  simp only [transferArgs, BitVec.extractLsb'_toNat, Nat.shiftRight_eq_div_pow, Nat.reducePow]

theorem modeField_eq_iff {k : Nat} (hk : k < 4) : a.extractLsb' 0 2 = BitVec.ofNat 2 k ↔ a.toNat % 4 = k := by
  rw [← BitVec.toNat_inj, BitVec.extractLsb'_toNat, BitVec.toNat_ofNat, Nat.shiftRight_zero, Nat.mod_eq_of_lt (a := k) hk]

/-- A mode field names a mode by its code (R142). -/
theorem transferArgs_mode_of_code {m : TransferMode} (h : a.toNat % 4 = m.code) : (transferArgs a).mode = some m := by
  have hfield : a.extractLsb' 0 2 = BitVec.ofNat 2 m.code := (modeField_eq_iff (by cases m <;> decide)).mpr h
  show transferModeOf (a.extractLsb' 0 2) = some m
  rw [hfield]
  cases m <;> rfl

theorem transferArgs_mode_three (h : a.toNat % 4 = 3) : (transferArgs a).mode = none := by
  show transferModeOf (a.extractLsb' 0 2) = none
  rw [(modeField_eq_iff (by decide)).mpr h]
  rfl

theorem setOfNat_eq_none_iff {k : Nat} : setOfNat k = none ↔ 47 < k := by
  simp only [setOfNat, dite_eq_right_iff, reduceCtorEq, imp_false]
  omega

/-! ## Check 1: RANGE -/

/-- The mode, the source and the destination or count that a TRANSFER START is refused for with RANGE (R166). -/
def TransferOutOfRange (mode source second : Nat) : Prop :=
  mode = 3 ∨ 47 < source ∨ mode = 0 ∧ 47 < second ∨ mode = 1 ∧ (second = 0 ∨ 50 < second) ∨ mode = 2 ∧ second = 0

section
variable {n : SetNo}

/-! ### The plan by the mode, with the source in range -/

theorem transferPlan_copy (hm : a.toNat % 4 = 0) (hn : a.toNat / 256 % 64 = n.val) :
    transferPlan (transferArgs a) b = (setOfNat b.toNat).map (.copy n) := by
  rw [transferPlan, transferArgs_mode_of_code (m := .copy) hm, transferArgs_source, hn, setOfNat_val]

theorem transferPlan_dump (hm : a.toNat % 4 = 1) (hn : a.toNat / 256 % 64 = n.val) :
    transferPlan (transferArgs a) b = if b.toNat = 0 ∨ 50 < b.toNat then none else some (.dump n b.toNat) := by
  rw [transferPlan, transferArgs_mode_of_code (m := .dump) hm, transferArgs_source, hn, setOfNat_val]

theorem transferPlan_sweep (hm : a.toNat % 4 = 2) (hn : a.toNat / 256 % 64 = n.val) :
    transferPlan (transferArgs a) b = if b.toNat = 0 then none else some (.sweep n b.toNat) := by
  rw [transferPlan, transferArgs_mode_of_code (m := .sweep) hm, transferArgs_source, hn, setOfNat_val]

end

theorem transferPlan_of_mode_three (h : a.toNat % 4 = 3) : transferPlan (transferArgs a) b = none := by
  rw [transferPlan, transferArgs_mode_three h]

/-- Without a source there is no plan, whatever the mode. -/
theorem transferPlan_of_no_source (h : 47 < a.toNat / 256 % 64) : transferPlan (transferArgs a) b = none := by
  rw [transferPlan, transferArgs_source, setOfNat_eq_none_iff.mpr h]
  cases (transferArgs a).mode with
  | none => rfl
  | some m => cases m <;> rfl

/-- Check 1 of R166 in full: there is a plan unless an argument is out of range. -/
theorem transferPlan_eq_none_iff :
    transferPlan (transferArgs a) b = none ↔ TransferOutOfRange (a.toNat % 4) (a.toNat / 256 % 64) b.toNat := by
  unfold TransferOutOfRange
  by_cases hs : 47 < a.toNat / 256 % 64
  · exact iff_of_true (transferPlan_of_no_source hs) (.inr (.inl hs))
  · obtain ⟨n, hn⟩ : ∃ n : SetNo, a.toNat / 256 % 64 = n.val := ⟨⟨_, Nat.lt_succ_of_le (Nat.le_of_not_lt hs)⟩, rfl⟩
    have hlt : a.toNat % 4 < 4 := Nat.mod_lt _ (by decide)
    obtain hm | hm | hm | hm : a.toNat % 4 = 0 ∨ a.toNat % 4 = 1 ∨ a.toNat % 4 = 2 ∨ a.toNat % 4 = 3 := by omega
    · rw [transferPlan_copy hm hn, Option.map_eq_none_iff, setOfNat_eq_none_iff]
      omega
    · rw [transferPlan_dump hm hn]
      simp only [ite_eq_left_iff, reduceCtorEq, imp_false, not_not]
      omega
    · rw [transferPlan_sweep hm hn]
      simp only [ite_eq_left_iff, reduceCtorEq, imp_false, not_not]
      omega
    · exact iff_of_true (transferPlan_of_mode_three hm) (.inl hm)

theorem State.transferStart_range (h : transferPlan (transferArgs a) b = none) :
    s.transferStart a b = (s, .bare .range) := by
  rw [State.transferStart, h]

/-! ## Check 2: BUSY -/

theorem Transfer.busy_iff {t : Transfer} : t.busy = true ↔ t.state = .active ∨ t.state = .waiting := by
  simp only [Transfer.busy, Bool.or_eq_true, decide_eq_true_eq]

theorem State.transferStart_busy (h : transferPlan (transferArgs a) b ≠ none) (hb : s.transfer.busy = true) :
    s.transferStart a b = (s, .bare .busy) := by
  obtain ⟨plan, hplan⟩ := Option.ne_none_iff_exists'.mp h
  rw [State.transferStart, hplan]
  exact if_pos hb

/-! ## Checks 3 and 4: STATE -/

theorem State.transferStart_copy_state {n d : SetNo} (h : transferPlan (transferArgs a) b = some (.copy n d))
    (hb : ¬s.transfer.busy = true)
    (hstate : (s.record n).state = .free ∨ (s.record n).state = .quarantined ∨ d = n ∨ (s.record d).state = .loading
      ∨ (s.record d).state = .live) :
    s.transferStart a b = (s, .bare .state) := by
  rw [State.transferStart, h]
  exact (if_neg hb).trans (if_pos hstate)

theorem State.transferStart_dump_state {n : SetNo} {count : Nat}
    (h : transferPlan (transferArgs a) b = some (.dump n count)) (hb : ¬s.transfer.busy = true)
    (hfree : (s.record n).state = .free) : s.transferStart a b = (s, .bare .state) := by
  rw [State.transferStart, h]
  exact (if_neg hb).trans (if_pos hfree)

/-- Settles O27: each check refuses with the state as it was, and leaves what follows to the next. -/
theorem transferStartRefused : Obligations.TransferStartRefused := by
  intro a b s h mode source range busy
  refine ⟨fun hrange => ?_, fun hrange hbusy => ?_, fun n d hm hn hd hbusy hstate => ?_,
    fun n hm hn h1 h50 hbusy hfree => ?_⟩
  · have hrun : s.transferStart a b = (s, .bare .range) :=
      State.transferStart_range (transferPlan_eq_none_iff.mpr hrange)
    exact (execTransferStart_eq h hrun).trans rfl
  · have hrun : s.transferStart a b = (s, .bare .busy) :=
      State.transferStart_busy (mt transferPlan_eq_none_iff.mp hrange) (Transfer.busy_iff.mpr hbusy)
    exact (execTransferStart_eq h hrun).trans rfl
  · have hplan : transferPlan (transferArgs a) b = some (.copy n d) := by
      rw [transferPlan_copy hm hn, hd, setOfNat_val, Option.map_some]
    have hrun := State.transferStart_copy_state hplan (mt Transfer.busy_iff.mp hbusy) hstate
    exact (execTransferStart_eq h hrun).trans rfl
  · have hplan : transferPlan (transferArgs a) b = some (.dump n b.toNat) :=
      (transferPlan_dump hm hn).trans (if_neg (by omega))
    have hrun := State.transferStart_dump_state hplan (mt Transfer.busy_iff.mp hbusy) hfree
    exact (execTransferStart_eq h hrun).trans rfl

end Sys2Proof.Machine
end

section
/-! SUPPORT. The examination of a SWEEP's current set (R173). -/

namespace Sys2Proof.Machine

variable {s : State} {n : SetNo}

/-- A SWEEP in phase EXAMINE examines its current set, whatever room the Response Queue has. -/
theorem execSweepExamine_eq (ha : s.transfer.state = .active) (hm : s.transfer.mode ≠ .copy)
    (hp : s.transfer.phase = .examine) : execSweepExamine s = .next (s.examineSet s.transfer.current) := by
  obtain ⟨hexamine, -, -, -⟩ := State.due_block ha hm
  rw [execSweepExamine, hexamine hp]

theorem State.examineSet_skips (h : (s.record n).state = .free ∨ (s.record n).state = .loading) :
    s.examineSet (some n) = s.sweepNext n := by
  rcases h with h | h <;> simp only [State.examineSet, h]

theorem State.examineSet_takes
    (h : (s.record n).state = .ready ∨ (s.record n).state = .live ∨ (s.record n).state = .quarantined) :
    s.examineSet (some n) =
      { (s.onRecord n fun r => { r with hold := .source }) with transfer := { s.transfer with phase := .header } } := by
  rcases h with h | h | h <;> simp only [State.examineSet, h] <;> rfl

/-- Past the last set the transfer ends END OF BANK, and its end releases every hold (R173, R174). -/
theorem State.examineSet_past_bank (hm : s.transfer.mode ≠ .copy) :
    s.examineSet none =
        { s with
          bank := { s.bank with records := (s.examineSet none).bank.records }
          notices := s.notices.add .transferDone none 5
          transfer := { s.transfer with state := .done, outcome := some .endOfBank } }
      ∧ ∀ m : SetNo, (s.examineSet none).record m = { s.record m with hold := .none } := by
  have hend : s.examineSet none = s.endTransfer .endOfBank := rfl
  rw [hend, State.endTransfer_eq _ _ (.inl hm)]
  exact ⟨rfl, fun m => State.releaseHolds_record s m⟩

/-- Settles O34: an examination is due in its phase without a test of room, and the current set's state decides. -/
theorem sweepExamine : Obligations.SweepExamine := by
  intro s ha hs hp
  have hexec : exec .sweepExamine s = .next (s.examineSet s.transfer.current) :=
    execSweepExamine_eq ha (by rw [hs]; decide) hp
  refine ⟨fun n hc => ⟨fun hstate => ?_, fun hstate => ?_⟩, fun hc => ?_⟩
  · have hphase : { s.transfer with current := nextSet n, word := 0, phase := .examine } =
        { s.transfer with current := nextSet n, word := 0 } := by rw [← hp]
    rw [hexec, hc, State.examineSet_skips hstate, State.sweepNext, hphase]
    rfl
  · rw [hexec, hc, State.examineSet_takes hstate]
  · rw [hexec, hc]
    exact ⟨_, rfl, State.examineSet_past_bank (by rw [hs]; decide)⟩

end Sys2Proof.Machine
end

section
/-! SUPPORT. The Notice Queue and the counters (chapter 11): where a notice goes (R178, R179), and the commands that
show or clear what the part has counted (R176, R181, R183). -/

namespace Sys2Proof.Machine

/-! ## A notice reaches the queue (R178, R179) -/

section
variable {q : NoticeQueue} {kind : NoticeKind} {lane : Option Lane} {detail : Nat}

/-- Records that do not equal the notice keep their place and their count in a merge. -/
theorem mergeInto_of_no_match {records : List Notice} (h : ∀ a ∈ records, ¬a.matches kind lane detail = true) :
    records.map (fun a => if a.matches kind lane detail then a.merged else a) = records :=
  (List.map_congr_left fun a ha => if_neg (h a ha)).trans (List.map_id' records)

/-- No two records of a sound queue are equal, so a record that equals the notice is the only one. -/
theorem not_matches_of_differs {a b : Notice} (h : a.Differs b) (hb : b.matches kind lane detail = true) :
    ¬a.matches kind lane detail = true := by
  rw [Notice.matches_iff] at hb ⊢
  rintro ⟨hk, hl, hd⟩
  obtain ⟨hbk, hbl, hbd⟩ := hb
  exact h ⟨hk.trans hbk.symm, hl.trans hbl.symm, hd.trans hbd.symm⟩

theorem Notice.Differs.symm {a b : Notice} (h : a.Differs b) : b.Differs a :=
  fun ⟨hk, hl, hd⟩ => h ⟨hk.symm, hl.symm, hd.symm⟩

theorem NoticeQueue.add_merged {before after : List Notice} {r : Notice} (hq : q.records.Pairwise Notice.Differs)
    (hs : q.records = before ++ r :: after) (hr : r.matches kind lane detail = true) :
    q.add kind lane detail = { q with records := before ++ r.merged :: after } := by
  have hany : q.records.any (·.matches kind lane detail) = true :=
    List.any_eq_true.mpr ⟨r, by rw [hs]; exact List.mem_append_cons_self, hr⟩
  rw [hs] at hq
  obtain ⟨-, hafter, hbefore⟩ := List.pairwise_append.mp hq
  have hb := mergeInto_of_no_match fun a ha =>
    not_matches_of_differs (hbefore a ha r List.mem_cons_self) hr
  have ha := mergeInto_of_no_match fun a ha =>
    not_matches_of_differs (List.rel_of_pairwise_cons hafter ha).symm hr
  rw [NoticeQueue.add, if_pos hany, hs, List.map_append, List.map_cons, if_pos hr, hb, ha]

theorem NoticeQueue.not_any_matches (h : ∀ r ∈ q.records, ¬(r.kind = kind ∧ r.lane = lane ∧ r.detail = detail)) :
    ¬q.records.any (·.matches kind lane detail) = true := by
  intro hany
  obtain ⟨r, hr, hm⟩ := List.any_eq_true.mp hany
  exact h r hr ((r.matches_iff kind lane detail).mp hm)

theorem NoticeQueue.add_appended (h : ∀ r ∈ q.records, ¬(r.kind = kind ∧ r.lane = lane ∧ r.detail = detail))
    (hroom : q.records.length < 16) :
    q.add kind lane detail = { q with records := q.records ++ [⟨kind, lane, detail, 1⟩] } := by
  rw [NoticeQueue.add, if_neg (NoticeQueue.not_any_matches h), if_pos hroom]

theorem NoticeQueue.add_lost (h : ∀ r ∈ q.records, ¬(r.kind = kind ∧ r.lane = lane ∧ r.detail = detail))
    (hfull : 16 ≤ q.records.length) : q.add kind lane detail = { q with lost := min 255 (q.lost + 1) } := by
  rw [NoticeQueue.add, if_neg (NoticeQueue.not_any_matches h), if_neg (Nat.not_lt.mpr hfull)]

end

/-- Settles O60: the merge needs that a sound queue holds no two equal records. -/
theorem noticesMergeAppendOrAreLost : Obligations.NoticesMergeAppendOrAreLost := by
  intro q kind lane detail hq same
  obtain ⟨-, -, -, hpw⟩ := hq
  refine ⟨fun before after r hs hr => ?_, fun hnone hroom => ?_, fun hnone hfull => ?_⟩
  · exact NoticeQueue.add_merged hpw hs ((r.matches_iff kind lane detail).mpr hr)
  · exact NoticeQueue.add_appended hnone hroom
  · exact NoticeQueue.add_lost hnone hfull.ge

/-! ## The attention summary (R181) -/

/-- The place of a source's flag among the five above the lost count (R181). -/
def PollSource.place : PollSource → Fin 5
  | .lane0 => 0
  | .lane1 => 1
  | .bank => 2
  | .transfer => 3
  | .link => 4

/-- The five flags of the summary, by place. -/
def NoticeQueue.flags (q : NoticeQueue) : Fin 5 → Bool :=
  ![q.pollFlag .lane0, q.pollFlag .lane1, q.pollFlag .bank, q.pollFlag .transfer, q.pollFlag .link]

theorem NoticeQueue.flags_place (q : NoticeQueue) (src : PollSource) : q.flags src.place = q.pollFlag src := by
  cases src <;> rfl

theorem flag_eq_mul (b : Bool) (k : Nat) : (if b = true then k else 0) = k * b.toNat := by cases b <;> simp

/-- The summary is the number of its flags above a byte of the lost count. -/
theorem NoticeQueue.summary_toNat {q : NoticeQueue} (h : q.lost ≤ 255) :
    q.summary.toNat = 2 ^ 8 * Nat.ofBits q.flags + q.lost := by
  have hsum : q.summary = natWord (2 ^ 8 * Nat.ofBits q.flags + q.lost) := by
    have hbits : Nat.ofBits q.flags =
        2 * (2 * (2 * (2 * (2 * 0 + (q.pollFlag .link).toNat) + (q.pollFlag .transfer).toNat) + (q.pollFlag .bank).toNat)
          + (q.pollFlag .lane1).toNat) + (q.pollFlag .lane0).toNat := by
      simp only [Nat.ofBits_succ, Nat.ofBits_zero]
      rfl
    simp only [NoticeQueue.summary, flag_eq_mul, hbits]
    exact congrArg natWord (by omega)
  have hlt : Nat.ofBits q.flags < 2 ^ 5 := Nat.ofBits_lt_two_pow _
  rw [hsum, natWord, BitVec.toNat_ofNat, Nat.mod_eq_of_lt (by omega)]

theorem NoticeQueue.summary_lost {q : NoticeQueue} (h : q.lost ≤ 255) : q.summary.toNat % 256 = q.lost := by
  rw [NoticeQueue.summary_toNat h]
  omega

theorem NoticeQueue.summary_lt {q : NoticeQueue} (h : q.lost ≤ 255) : q.summary.toNat < 8192 := by
  have hlt : Nat.ofBits q.flags < 2 ^ 5 := Nat.ofBits_lt_two_pow _
  rw [NoticeQueue.summary_toNat h]
  omega

/-- The summary shows each source's flag at its place, whatever the lost count. -/
theorem NoticeQueue.summary_flag {q : NoticeQueue} (h : q.lost ≤ 255) (src : PollSource) :
    q.summary.getLsbD (8 + src.place) = q.pollFlag src := by
  rw [BitVec.getLsbD, NoticeQueue.summary_toNat h, Nat.testBit_two_pow_mul_add _ (by omega),
    if_neg (by omega), Nat.add_sub_cancel_left, Nat.testBit_ofBits_lt _ _ src.place.isLt, Fin.eta,
    NoticeQueue.flags_place]

/-- A lane's flag stands for its own records, and for those of a lost or clipped sensor frame, which are of both. -/
theorem Notice.isFrom_lane0 (r : Notice) :
    r.isFrom .lane0 = true ↔ r.lane = some .zero ∨ r.kind = .sensorGap ∨ r.kind = .sensorClip := by
  unfold Notice.isFrom
  cases r.kind <;> simp

theorem Notice.isFrom_lane1 (r : Notice) :
    r.isFrom .lane1 = true ↔ r.lane = some .one ∨ r.kind = .sensorGap ∨ r.kind = .sensorClip := by
  unfold Notice.isFrom
  cases r.kind <;> simp

theorem Notice.isFrom_bank (r : Notice) :
    r.isFrom .bank = true ↔ r.kind = .setQuarantined ∨ r.kind = .storageCorrected := by
  unfold Notice.isFrom
  cases r.kind <;> simp

theorem Notice.isFrom_transfer (r : Notice) : r.isFrom .transfer = true ↔ r.kind = .transferDone := by
  unfold Notice.isFrom
  cases r.kind <;> simp

theorem Notice.isFrom_link (r : Notice) :
    r.isFrom .link = true ↔ r.kind = .linkCheck ∨ r.kind = .argumentExpired := by
  unfold Notice.isFrom
  cases r.kind <;> simp

/-- A place of the summary is set when a record of its source is queued. -/
theorem NoticeQueue.summary_flag_iff {q : NoticeQueue} (h : q.lost ≤ 255) (src : PollSource) {P : Notice → Prop}
    (hP : ∀ r : Notice, r.isFrom src = true ↔ P r) :
    q.summary.getLsbD (8 + src.place) = true ↔ ∃ r ∈ q.records, P r := by
  rw [NoticeQueue.summary_flag h, NoticeQueue.pollFlag, List.any_eq_true]
  exact exists_congr fun r => and_congr_right fun _ => hP r

/-! ## A command without arguments and the room for its data words (R157) -/

section
variable {s : State} {l : Lane}

theorem State.command_bare_full (h : s.accepts 1) (code : BitVec 6) (imm : BitVec 9) (ha : argCount code = 0)
    (hd : 31 < s.responses.length + s.dataNeed ⟨code, l, imm⟩) :
    s.command code l imm [] = s.answered code.toNat 3 [] := by
  obtain ⟨hc, -, hr⟩ := h
  have hroom : s.roomAvailable 0 false < s.dataNeed ⟨code, l, imm⟩ := by
    rw [State.roomAvailable_alone]
    omega
  rw [State.command_bare l hc hr code ha imm, State.execCommand_full _ _ _ _ _ hroom, State.respond_eq]
  rfl

theorem State.command_bare_served (h : s.accepts 1) (code : BitVec 6) (imm : BitVec 9) (ha : argCount code = 0)
    (hd : s.responses.length + s.dataNeed ⟨code, l, imm⟩ ≤ 31) {t : State} {r : Reply}
    (hrun : s.runCommand ⟨code, l, imm⟩ [] (s.roomAvailable 0 false) = (t, r)) :
    s.command code l imm [] = t.answered code.toNat r.result.code r.words := by
  obtain ⟨hc, -, hr⟩ := h
  have hroom : s.dataNeed ⟨code, l, imm⟩ ≤ s.roomAvailable 0 false := by
    rw [State.roomAvailable_alone]
    omega
  rw [State.command_bare l hc hr code ha imm, State.execCommand_served _ _ _ _ _ hroom, hrun, State.respond_eq]

end

/-! ## TRANSFER STATUS, POLL and COUNTERS CLEAR (R176, R181, R183) -/

section
variable {s : State}

theorem State.dataNeed_transferStatus (s : State) (l : Lane) (imm : BitVec 9) : s.dataNeed ⟨17#6, l, imm⟩ = 7 := rfl

theorem State.dataNeed_poll (s : State) (l : Lane) (imm : BitVec 9) : s.dataNeed ⟨19#6, l, imm⟩ = 1 := rfl

theorem execTransferStatus_full (h : s.accepts 1) (hroom : 24 < s.responses.length) :
    exec .transferStatus s = .next (s.answered 17 3 []) :=
  congrArg Host.Outcome.next
    (State.command_bare_full h 17#6 0 rfl (by rw [State.dataNeed_transferStatus]; omega))

theorem execTransferStatus_served (h : s.accepts 1) (hroom : s.responses.length ≤ 24) :
    exec .transferStatus s = .next (s.answered 17 0 s.transfer.recordWords) :=
  congrArg Host.Outcome.next
    (State.command_bare_served h 17#6 0 rfl (by rw [State.dataNeed_transferStatus]; omega) (t := s)
      (r := ⟨.ok, s.transfer.recordWords⟩) rfl)

/-- The transfer record in the words of R143, where a field of no outcome and one of no set read 255. -/
theorem Transfer.recordWords_eq (t : Transfer) :
    t.recordWords =
      [t.state.code, t.mode.code + (if t.skipBad then 4 else 0) + (if t.waitBusy then 8 else 0),
        (t.outcome.map TransferOutcome.code).getD 255, t.remaining, (t.current.map Fin.val).getD 255, t.word,
        t.badWords].map (BitVec.ofNat 16) := by
  have houtcome : (t.outcome.map TransferOutcome.code).getD 255 =
      match t.outcome with
      | some o => o.code
      | none => 255 := by cases t.outcome <;> rfl
  have hcurrent : (t.current.map Fin.val).getD 255 = setField t.current := by cases t.current <;> rfl
  rw [houtcome, hcurrent]
  rfl

theorem execPoll_full (h : s.accepts 1) (hroom : 30 < s.responses.length) :
    exec .poll s = .next (s.answered 19 3 []) :=
  congrArg Host.Outcome.next (State.command_bare_full h 19#6 0 rfl (by rw [State.dataNeed_poll]; omega))

theorem execPoll_served (h : s.accepts 1) (hroom : s.responses.length ≤ 30) :
    exec .poll s = .next (s.answered 19 0 [s.notices.summary]) :=
  congrArg Host.Outcome.next
    (State.command_bare_served h 19#6 0 rfl (by rw [State.dataNeed_poll]; omega) (t := s)
      (r := ⟨.ok, [s.notices.summary]⟩) rfl)

theorem execCountersClear_eq (h : s.accepts 1) :
    exec .countersClear s = .next (s.clearCounters.answered 20 0 []) :=
  congrArg Host.Outcome.next
    (State.command_bare_answered h 20#6 0 rfl rfl (t := s.clearCounters) (r := .bare .ok) rfl)

end

/-- Settles O22, command by command; of the summary, each place by the source whose flag it holds. -/
theorem statusPollAndClear : Obligations.StatusPollAndClear := by
  intro s h
  refine ⟨execTransferStatus_full h, fun hroom => ?_, execPoll_full h, fun hroom hlost => ?_, ?_, rfl, rfl, rfl⟩
  · rw [execTransferStatus_served h hroom, Transfer.recordWords_eq]
  · exact ⟨s.notices.summary, execPoll_served h hroom, NoticeQueue.summary_lost hlost, NoticeQueue.summary_lt hlost,
      NoticeQueue.summary_flag_iff hlost .lane0 Notice.isFrom_lane0,
      NoticeQueue.summary_flag_iff hlost .lane1 Notice.isFrom_lane1,
      NoticeQueue.summary_flag_iff hlost .bank Notice.isFrom_bank,
      NoticeQueue.summary_flag_iff hlost .transfer Notice.isFrom_transfer,
      NoticeQueue.summary_flag_iff hlost .link Notice.isFrom_link⟩
  · exact ⟨s.clearCounters.answered 20 0 [], execCountersClear_eq h, State.counterList_eq_zero rfl rfl rfl, rfl, rfl⟩

end Sys2Proof.Machine
end

section
/-! SUPPORT. What a step can do to the bank, to the transfer record and to a lane's service, said once: every step is a
chain of changes, each an operation of a block with the guard that its caller has checked. What every change keeps,
every step keeps. -/

namespace Sys2Proof.Machine

variable {s t u : State} {l k : Lane} {n : SetNo}

/-! ## The work of a lane that leaves its service as it is -/

/-- Nothing is left of a departure from RUNNING (R70, R88, R96, R113). -/
def LaneState.Departed (x : LaneState) : Prop :=
  x.filter.saturationRun = 0 ∧ x.adapt.window = 0 ∧ x.campaign.state ≠ .running

/-- From `x` to `y` a lane keeps its names, its current set with the route, its held correction, its shadow and its
divergence count; it does not leave RUNNING, and outside RUNNING no window, campaign or saturation run begins. -/
structure LaneState.Works (x y : LaneState) : Prop where
  map : y.selection.map = x.selection.map
  fallback : y.selection.fallback = x.selection.fallback
  current : y.selection.current = x.selection.current
  route : y.selection.route = x.selection.route
  held : y.filter.held = x.filter.held
  shadow : y.adapt.shadow = x.adapt.shadow
  divergence : y.adapt.divergence = x.adapt.divergence
  rest : y.control.mode ≠ .running → x.control.mode ≠ .running ∧ (x.Departed → y.Departed)

theorem LaneState.Works.refl (x : LaneState) : x.Works x := ⟨rfl, rfl, rfl, rfl, rfl, rfl, rfl, fun h => ⟨h, id⟩⟩

theorem LaneState.Works.trans {x y z : LaneState} (h1 : x.Works y) (h2 : y.Works z) : x.Works z :=
  ⟨h2.map.trans h1.map, h2.fallback.trans h1.fallback, h2.current.trans h1.current, h2.route.trans h1.route,
    h2.held.trans h1.held, h2.shadow.trans h1.shadow, h2.divergence.trans h1.divergence,
    fun h => ⟨(h1.rest (h2.rest h).1).1, fun hx => (h2.rest h).2 ((h1.rest (h2.rest h).1).2 hx)⟩⟩

/-- From `s` to `t` the bank and the transfer record stand, and the lanes have done no more than their own work. -/
structure State.Works (s t : State) : Prop where
  bank : t.bank = s.bank
  transfer : t.transfer = s.transfer
  lane : ∀ k, (s.lane k).Works (t.lane k)

theorem State.Works.refl (s : State) : s.Works s := ⟨rfl, rfl, fun _ => .refl _⟩

theorem State.Works.trans (h1 : s.Works t) (h2 : t.Works u) : s.Works u :=
  ⟨h2.bank.trans h1.bank, h2.transfer.trans h1.transfer, fun k => (h1.lane k).trans (h2.lane k)⟩

/-- What touches neither the bank nor the transfer record nor a lane. -/
theorem State.Works.beside (hb : t.bank = s.bank) (ht : t.transfer = s.transfer) (h0 : t.lane0 = s.lane0)
    (h1 : t.lane1 = s.lane1) : s.Works t :=
  ⟨hb, ht, fun k => by rw [State.lane_congr k h0 h1]; exact .refl _⟩

theorem State.Works.setLane {x : LaneState} (h : (s.lane l).Works x) : s.Works (s.setLane l x) :=
  ⟨rfl, rfl, fun k => by
    rw [State.setLane_lane_eq]
    split
    · rename_i e; rwa [e]
    · exact .refl _⟩

theorem State.Works.notify {kind : NoticeKind} {lane : Option Lane} {detail : Nat} : s.Works (s.notify kind lane detail) :=
  .beside rfl rfl rfl rfl

/-- The conditioner's part of a lane and the lane's counters are no part of its service. -/
theorem State.Works.onReference {f : Reference → Reference} : s.Works (s.onReference l f) :=
  .setLane ⟨rfl, rfl, rfl, rfl, rfl, rfl, rfl, fun h => ⟨h, id⟩⟩

theorem State.Works.onCounters {f : LaneCounters → LaneCounters} : s.Works (s.onCounters l f) :=
  .setLane ⟨rfl, rfl, rfl, rfl, rfl, rfl, rfl, fun h => ⟨h, id⟩⟩

/-- The Lane Controller's values are its own as long as the lane does not leave RUNNING. -/
theorem State.Works.onControl {f : Control → Control}
    (h : (f (s.lane l).control).mode ≠ .running → (s.lane l).control.mode ≠ .running) : s.Works (s.onControl l f) :=
  .setLane ⟨rfl, rfl, rfl, rfl, rfl, rfl, rfl, fun hm => ⟨h hm, id⟩⟩

theorem State.Works.onCampaign {f : Campaign → Campaign}
    (h : (f (s.lane l).campaign).state = .running →
      (s.lane l).campaign.state = .running ∨ (s.lane l).control.mode = .running) : s.Works (s.onCampaign l f) :=
  .setLane ⟨rfl, rfl, rfl, rfl, rfl, rfl, rfl, fun hm => ⟨hm, fun ⟨hrun, hwindow, hcampaign⟩ =>
    ⟨hrun, hwindow, fun hr => (h hr).elim hcampaign hm⟩⟩⟩

/-- The mode and the PES gate of adaptation, and the window, which opens in RUNNING alone (R84, R87). -/
theorem State.Works.onAdapt {f : Adaptation → Adaptation} (hs : (f (s.lane l).adapt).shadow = (s.lane l).adapt.shadow)
    (hd : (f (s.lane l).adapt).divergence = (s.lane l).adapt.divergence)
    (hw : (s.lane l).adapt.window = 0 → (s.lane l).control.mode ≠ .running → (f (s.lane l).adapt).window = 0) :
    s.Works (s.onAdapt l f) :=
  .setLane ⟨rfl, rfl, rfl, rfl, rfl, hs, hd, fun hm => ⟨hm, fun ⟨hrun, hwindow, hcampaign⟩ =>
    ⟨hrun, hw hwindow hm, hcampaign⟩⟩⟩

/-! ## The changes -/

/-- One change of a state, with the guard under which the part makes it. -/
inductive State.Change (s : State) : State → Prop
  /-- A lane's own work, and whatever touches neither the bank nor the transfer record nor a lane. -/
  | works {t : State} (h : s.Works t) : s.Change t
  /-- A lane lets its current set go (R27, R52). -/
  | release (l : Lane) : s.Change (s.releaseCurrent l)
  /-- A lane departs from RUNNING (R113). -/
  | depart (l : Lane) (detail : Nat) (next : LaneMode) : s.Change (s.leaveRunning l detail next)
  /-- The frame's set is the current one already, perhaps by another route (R49). -/
  | reroute (l : Lane) (r : Route) (hc : (s.lane l).selection.current ≠ none) (hr : r ≠ .none) :
    s.Change (s.onSelection l fun x => { x with route := r })
  /-- A READY set becomes LIVE and a RUNNING lane's current set (R49, R89). -/
  | enter (l : Lane) (n : SetNo) (r : Route) (hm : (s.lane l).control.mode = .running)
    (hc : (s.lane l).selection.current ≠ some n) (hn : (s.record n).state = .ready) (hr : r ≠ .none) :
    s.Change (((s.retireCurrent l).enterLive l n r).captureShadow l n)
  /-- A checked read of a word (R35, R36). -/
  | read (n : SetNo) (w : Nat) : s.Change (s.readWord n w).1
  /-- The correction from a lane's current set (R61 to R63). -/
  | correct (l : Lane) (n : SetNo) (hc : (s.lane l).selection.current = some n) : s.Change (s.computeCorrection l n).1
  /-- The adaptation of a lane's current set (R75 to R83). -/
  | adapt (l : Lane) (n : SetNo) (tr ts : Nat) (e : Int) (htr : tr ≤ 32) (hts : ts ≤ 8)
    (ha : s.setAdapts l n = true) : s.Change (s.adaptSet l n tr ts e)
  /-- The rise of a lane's divergence count (R91, R92). -/
  | diverge (l : Lane) (n : SetNo) (ha : s.setAdapts l n = true) : s.Change (s.raiseDivergence l n)
  /-- A data word for a set (R23). -/
  | data (n : SetNo) (w : Nat) (v : Word) (hw : w < 64) : s.Change (s.writeBankWord n w v).1
  /-- A data word for a map entry (R42). -/
  | entry (l : Lane) (a : Nat) (v : Word) : s.Change (s.writeMap l a v).1
  /-- A data word for a fallback setting (R43). -/
  | fallback (l : Lane) (v : Word) : s.Change (s.writeFallback l v).1
  /-- The commit of a LOADING set (R24). -/
  | commit (n : SetNo) (hn : (s.record n).state = .loading) (hh : (s.record n).hold ≠ .destination) :
    s.Change (s.commitLoading n).1
  /-- A set freed (R28). -/
  | zero (n : SetNo) (hn : (s.record n).state ≠ .live) (hh : (s.record n).hold = .none) : s.Change (s.zeroSet n)
  /-- A set unfrozen (R32). -/
  | unfreeze (n : SetNo) : s.Change (s.onRecord n fun r => { r with frozen := false })
  /-- TRANSFER START (R166, R167). -/
  | start (first second : Word) : s.Change (s.transferStart first second).1
  /-- TRANSFER ABORT of a transfer under way (R175). -/
  | abort (hb : s.transfer.busy = true) : s.Change (s.endTransfer .aborted)
  /-- The rise of the wait count (R168). -/
  | wait : s.Change s.countWait
  /-- A movement of the engine (R169 to R173). -/
  | move : s.Change s.engineMove
  /-- PART RESET (R163). -/
  | partReset : s.Change s.partReset
  /-- The power-on reset (R141). -/
  | powerOn (cut : CutShort) : s.Change (s.powerOn cut)
  /-- Stored places of a word flip (section 2.7). -/
  | disturb (n : SetNo) (w place : Nat) (second : Option Nat) : s.Change (s.disturb n w place second)

/-- A chain of changes. -/
abbrev State.Changes : State → State → Prop := Relation.ReflTransGen State.Change

theorem State.Change.chain (h : s.Change t) : s.Changes t := .single h

theorem State.Works.chain (h : s.Works t) : s.Changes t := .single (.works h)

/-- What every change keeps, a chain of changes keeps. -/
theorem State.Changes.keeps {P : State → Prop} (keep : ∀ {u v : State}, u.Change v → P u → P v) (h : s.Changes t)
    (hs : P s) : P t := by
  induction h with
  | refl => exact hs
  | tail _ h ih => exact keep h ih

/-! ## Reads and movements -/

theorem State.changes_readAll (s : State) (n : SetNo) (ws : List Nat) : s.Changes (s.readAll n ws).1 :=
  s.readAll_induction n (P := s.Changes) (fun _ w h => h.tail (.read n w)) .refl ws

theorem State.changes_engineMoves (s : State) (j : Nat) : s.Changes (s.engineMoves j) :=
  s.engineMoves_induction (P := s.Changes) (fun _ h => h.tail .move) .refl j

/-! ## The stages of a servo frame (R123, R134) -/

theorem State.changes_slipLane (s : State) (l : Lane) (d : Nat) : s.Changes (s.slipLane l d) := by
  have hw : s.Works (((s.onCounters l fun c => { c with wedgeSlip := raised c.wedgeSlip 1 }).onControl l
      fun c => { c with fill := 0 }).notify .wedgeSlip (some l) d) :=
    (State.Works.onCounters.trans (.onControl (by simp))).trans .notify
  simp only [State.slipLane]
  split
  · exact hw.chain.tail (.depart l 2 .priming)
  · exact hw.chain

theorem State.changes_applyVerdict (s : State) (l : Lane) (v : Verdict) : s.Changes (s.applyVerdict l v) := by
  unfold State.applyVerdict
  split
  · exact .refl
  · exact State.Works.onCounters.chain
  · exact s.changes_slipLane l _

theorem State.changes_judgeWedge (s : State) (l : Lane) (w : Word) : s.Changes (s.judgeWedge l w).1 := by
  simp only [State.judgeWedge]
  split
  · exact .refl
  · have hexpects : ∀ e : Control → Option Nat, s.Works (s.onControl l fun c => { c with expectation := e c }) := fun _ => .onControl id
    exact (hexpects fun c => nextExpectation c.wedgesPerRev w.toNat).chain.trans (State.changes_applyVerdict _ l _)

theorem State.works_examineFresh (s : State) (l : Lane) : s.Works (s.examineFresh l) := by
  simp only [State.examineFresh, State.raiseSettle]
  split <;> split
  · exact (State.Works.onReference.trans .notify).trans .onReference
  · exact State.Works.onReference.trans .onReference
  · exact State.Works.onReference.trans .notify
  · exact .onReference

theorem State.works_pushSample (s : State) (l : Lane) : s.Works (s.pushSample l) :=
  State.Works.trans (t := s.onReference l fun r => { r with ring := pushEntry r.ring s.cond.sample, settle := r.settle - 1 })
    .onReference (.onControl (f := fun c => { c with fill := min Config.fillFull (c.fill + 1) }) id)

theorem State.works_completePriming (s : State) (l : Lane) : s.Works (s.completePriming l) := by
  unfold State.completePriming
  split
  · exact .onControl fun h => absurd rfl h
  · exact .refl s

theorem State.works_pushSamples (s : State) (l : Lane) (j : Nat) : s.Works (s.pushSamples l j) := by
  induction j generalizing s with
  | zero => exact .refl s
  | succ j ih => exact (s.works_pushSample l).trans (ih _)

theorem State.works_feedLane (s : State) (l : Lane) (v : Verdict) : s.Works (s.feedLane l v) := by
  have hraised : s.Works (if 0 < v.gapCount then (s.examineFresh l).raiseSettle l Config.settleShort
      else s.examineFresh l) := by
    split
    · exact (s.works_examineFresh l).trans .onReference
    · exact s.works_examineFresh l
  have hfed : ∀ v' : State, s.Works v' → s.Works
      (if (v'.lane l).reference.status = .good then (v'.pushSamples l (v.gapCount + 1)).completePriming l else v') := by
    intro v' h
    split
    · exact (h.trans (v'.works_pushSamples _ _)).trans (State.works_completePriming _ _)
    · exact h
  exact hfed _ hraised

theorem State.works_conditionFrame (s : State) (l : Lane) (v : Verdict) (input : Word) :
    s.Works (s.conditionFrame l v input) := by
  unfold State.conditionFrame
  split
  · exact .onReference
  · exact (s.works_feedLane l v).trans .onReference

theorem State.works_applyBand (s : State) (l : Lane) (b : Bool) : s.Works (s.applyBand l b) := by
  unfold State.applyBand
  split
  · exact .refl s
  · exact .setLane ⟨rfl, rfl, rfl, rfl, rfl, rfl, rfl, fun h => ⟨h, id⟩⟩

/-- A resolution's route is PRIMARY or FALLBACK (R48). -/
theorem State.route_of_resolve {a : Nat} {p : SetNo × Route} (h : s.resolve l a = some p) : p.2 ≠ .none := by
  unfold State.resolve at h
  split at h
  · cases h; simp
  · split at h
    · cases h; simp
    · cases h

theorem State.changes_select {found : Option (SetNo × Route)} (hm : (s.lane l).control.mode = .running)
    (hu : ∀ p ∈ found, s.usable l p.1 = true ∧ p.2 ≠ .none) : s.Changes (s.select l found) := by
  unfold State.select
  split
  · exact (State.Change.release l).chain
  · rename_i n r
    obtain ⟨husable, hr⟩ := hu (n, r) rfl
    split
    · rename_i hc
      exact (State.Change.reroute l r (by rw [hc]; exact Option.some_ne_none n) hr).chain
    · rename_i hc
      have hready : (s.record n).state = .ready := by simpa [State.usable, hc] using husable
      exact (State.Change.enter l n r hm hc hready hr).chain

theorem State.changes_selectFrame (s : State) (f : ServoFields) : s.Changes (s.selectFrame f).1 := by
  have hb := s.works_applyBand f.lane f.writeActive
  simp only [State.selectFrame]
  split
  · rename_i hm
    exact hb.chain.trans (State.changes_select hm fun p hp =>
      ⟨State.usable_of_resolve hp, State.route_of_resolve hp⟩)
  · exact hb.chain

theorem State.works_bypassFrame (s : State) (l : Lane) : s.Works (s.bypassFrame l).1 :=
  .onCounters (f := fun c => { c with bypassFrame := raised c.bypassFrame 1 })

theorem State.works_heldFrame (s : State) (l : Lane) : s.Works (s.heldFrame l).1 :=
  .onCounters (f := fun c => { c with heldFrame := raised c.heldFrame 1 })

theorem State.changes_decideFrame (s : State) (f : ServoFields) (found : Option (SetNo × Route)) :
    s.Changes (s.decideFrame f found).1 := by
  simp only [State.decideFrame]
  split_ifs with _ hlost
  · exact (s.works_bypassFrame _).chain
  · exact .refl
  · exact (s.works_bypassFrame _).chain
  · split
    · exact (s.works_bypassFrame _).chain
    · exact (s.works_bypassFrame _).chain
    · exact (s.works_heldFrame _).chain
    · rename_i n r _
      have hc : (s.lane f.lane).selection.current = some n := by simpa using hlost
      exact (State.Change.correct f.lane n hc).chain

theorem tapCount_le (limit : Nat) (v : Word) : tapCount limit v ≤ limit := Nat.min_le_left _ _

/-- The filter reads no more taps than a set has (R62). -/
theorem State.computeCorrection_taps (s : State) (l : Lane) (n : SetNo) :
    (s.computeCorrection l n).2.refTaps ≤ 32 ∧ (s.computeCorrection l n).2.sibTaps ≤ 8 := by
  unfold State.computeCorrection
  split
  · split
    · exact ⟨tapCount_le _ _, tapCount_le _ _⟩
    · exact ⟨Nat.zero_le _, Nat.zero_le _⟩
  · exact ⟨Nat.zero_le _, Nat.zero_le _⟩

theorem State.decideFrame_taps (s : State) (f : ServoFields) (found : Option (SetNo × Route)) :
    (s.decideFrame f found).2.refTaps ≤ 32 ∧ (s.decideFrame f found).2.sibTaps ≤ 8 := by
  have hplain : ∀ (st : OutStatus) (y : Word), (Decision.plain st y).refTaps ≤ 32 ∧ (Decision.plain st y).sibTaps ≤ 8 :=
    fun _ _ => ⟨Nat.zero_le _, Nat.zero_le _⟩
  simp only [State.decideFrame]
  split_ifs
  · exact hplain _ _
  · exact hplain _ _
  · exact hplain _ _
  · split
    · exact hplain _ _
    · exact hplain _ _
    · exact hplain _ _
    · exact State.computeCorrection_taps _ _ _

theorem State.works_countProbeStep (s : State) (l : Lane) : s.Works (s.countProbeStep l) := by
  simp only [State.countProbeStep]
  split
  · exact (State.Works.onCampaign (by simp)).trans .notify
  · exact .onCampaign .inl

theorem State.works_probeFrame (s : State) (f : ServoFields) : s.Works (s.probeFrame f) := by
  unfold State.probeFrame
  split
  · exact (State.Works.onCampaign .inl).trans (State.works_countProbeStep _ _)
  · exact .refl s

theorem State.works_formOutput (s : State) (l : Lane) (sum : Int) : s.Works (s.formOutput l sum) := by
  have hcounted : s.Works (if saturated sum then
      s.onCounters l fun c => { c with commandSaturation := raised c.commandSaturation 1 } else s) := by
    split
    · exact .onCounters
    · exact .refl s
  simp only [State.formOutput]
  split
  · rename_i hm
    refine hcounted.trans (.setLane ⟨rfl, rfl, rfl, rfl, rfl, rfl, rfl, fun h => absurd ?_ h⟩)
    split <;> simpa using hm
  · exact hcounted

theorem State.changes_adaptFrame (s : State) (f : ServoFields) (found : Option (SetNo × Route)) {d : Decision}
    (hd : d.refTaps ≤ 32 ∧ d.sibTaps ≤ 8) (probed : Bool) : s.Changes (s.adaptFrame f found d probed) := by
  unfold State.adaptFrame
  split
  · split
    · rename_i ha
      exact (State.Change.adapt _ _ _ _ _ hd.1 hd.2 (Bool.and_eq_true_iff.mp ha).2).chain
    · exact .refl
  · exact .refl

theorem State.changes_faultLane (s : State) (l : Lane) : s.Changes (s.faultLane l) :=
  (State.Works.onCounters.trans .notify).chain.tail (.depart l 3 .fault)

theorem State.changes_checkFault (s : State) (l : Lane) : s.Changes (s.checkFault l) := by
  unfold State.checkFault
  split
  · exact s.changes_faultLane l
  · exact .refl

theorem State.changes_actOn (s : State) (f : ServoFields) (slots : EngineSlots) (found : Option (SetNo × Route))
    {d : Decision} (hd : d.refTaps ≤ 32 ∧ d.sibTaps ≤ 8) : s.Changes (s.actOn f slots found d) := by
  have hmoves : ∀ (u : State) (j : Nat), s.Changes u → s.Changes (u.engineMoves j) :=
    fun u j h => h.trans (u.changes_engineMoves j)
  have houtput : ∀ (u : State) (sum : Int), s.Changes u → s.Changes ((u.probeFrame f).formOutput f.lane sum) :=
    fun u sum h => h.trans ((u.works_probeFrame f).trans (State.works_formOutput _ _ sum)).chain
  have hadapt : ∀ (u : State) (probed : Bool), s.Changes u → s.Changes (u.adaptFrame f found d probed) :=
    fun u probed h => h.trans (u.changes_adaptFrame f found hd probed)
  have hdrive : ∀ (u : State) (output : Word), s.Changes u →
      s.Changes ((u.sendDrive f.lane d.status f.wedge output).checkFault f.lane) := fun u output h =>
    (h.tail (.works (.beside (t := u.sendDrive f.lane d.status f.wedge output) rfl rfl rfl rfl))).trans
      (State.changes_checkFault _ _)
  exact hdrive _ _ (hmoves _ _ (hadapt _ _ (hmoves _ _ (houtput _ _ (hmoves _ _ .refl)))))

theorem State.changes_lanePath (s : State) (f : ServoFields) (slots : EngineSlots) :
    s.Changes (s.lanePath f slots).1 := by
  have hconditioned : s.Changes (s.conditioned f slots) :=
    .trans (.trans (.trans (s.changes_judgeWedge _ _) (State.changes_engineMoves _ _))
      (State.works_conditionFrame _ _ _ _).chain) (State.changes_engineMoves _ _)
  have hselected : s.Changes (s.selected f slots).1 :=
    .trans (hconditioned.trans (State.changes_selectFrame _ _)) (State.changes_engineMoves _ _)
  rw [State.lanePath_eq]
  exact .trans (hselected.trans (State.changes_decideFrame _ _ _))
    (State.changes_actOn _ _ _ _ (State.decideFrame_taps _ _ _))

theorem State.works_ageCommand (s : State) : s.Works s.ageCommand := by
  rw [State.ageCommand_eq]
  exact .beside rfl rfl rfl rfl

theorem State.changes_countFrame (s : State) : s.Changes s.countFrame :=
  .tail (b := s.frameCounted.ageCommand)
    (State.Works.chain (.trans (t := s.frameCounted) (.beside rfl rfl rfl rfl) (State.works_ageCommand _))) .wait

theorem State.changes_servoFrame (s : State) (f : ServoFields) (slots : EngineSlots) :
    s.Changes (s.servoFrame f slots) :=
  .trans (s.changes_countFrame.trans (State.changes_lanePath _ f slots)) (State.Works.chain (.beside rfl rfl rfl rfl))

/-! ## The commands (R160) -/

theorem State.changes_readCommand (s : State) (imm : BitVec 9) : s.Changes (s.readCommand imm).1 := by
  have hread : ∀ j, s.Changes (s.readBank j).1 := by
    intro j
    unfold State.readBank
    split
    · exact State.changes_readAll _ _ _
    · exact .refl
  have hadvance : ∀ (v : State) (j : Nat), v.Works (v.advanceRead j) := by
    intro v j
    unfold State.advanceRead
    split
    · exact .refl v
    · exact .beside rfl rfl rfl rfl
  simp only [State.readCommand]
  split
  · exact .refl
  · refine .trans ?_ (hadvance _ _).chain
    split
    · exact hread _
    · exact .refl

theorem State.changes_commitSet (s : State) (imm : BitVec 9) : s.Changes (s.commitSet imm).1 := by
  unfold State.commitSet
  split
  · exact .refl
  · rename_i n _
    unfold State.commitKnown
    split
    · rename_i hl
      split
      · exact .refl
      · rename_i hh
        exact (State.Change.commit n hl hh).chain
    all_goals exact .refl

theorem State.changes_freeSet (s : State) (imm : BitVec 9) : s.Changes (s.freeSet imm).1 := by
  unfold State.freeSet
  split
  · exact .refl
  · rename_i n _
    split
    · exact .refl
    · rename_i h
      obtain ⟨hl, hh⟩ := not_or.mp h
      exact (State.Change.zero n hl (not_not.mp hh)).chain

theorem State.changes_unfreezeSet (s : State) (imm : BitVec 9) : s.Changes (s.unfreezeSet imm).1 := by
  unfold State.unfreezeSet
  split
  · exact .refl
  · split
    · exact (State.Change.unfreeze _).chain
    · exact .refl

theorem State.works_armLane (hm : (s.lane l).control.mode ≠ .running) (m : LaneMode) : s.Works (s.armLane l m) :=
  .onControl fun _ => hm

theorem State.changes_laneEnable (s : State) (l : Lane) : s.Changes (s.laneEnable l).1 := by
  unfold State.laneEnable
  split
  · rename_i hm
    exact (State.works_armLane (by rw [hm]; decide) _).chain
  · exact .refl

theorem State.changes_laneStart (s : State) (l : Lane) : s.Changes (s.laneStart l).1 := by
  unfold State.laneStart
  split
  · exact .refl
  · rename_i hm
    split
    · exact .refl
    · exact (State.works_armLane (by rw [not_not.mp hm]; decide) _).chain

theorem State.changes_moveLane (s : State) (l : Lane) (m : LaneMode) : s.Changes (s.moveLane l m) := by
  unfold State.moveLane
  split
  · exact (State.Change.depart l 1 m).chain
  · rename_i hm
    exact (State.Works.onControl fun _ => hm).chain

theorem State.changes_laneStop (s : State) (l : Lane) : s.Changes (s.laneStop l).1 := by
  unfold State.laneStop
  split
  · exact s.changes_moveLane l _
  · exact .refl

theorem State.works_adaptWindow (s : State) (l : Lane) (length : Word) : s.Works (s.adaptWindow l length).1 := by
  unfold State.adaptWindow
  split_ifs with _ hm
  · exact .refl s
  · exact .refl s
  · exact .refl s
  · exact .onAdapt (f := fun x => { x with window := length.toNat }) rfl rfl fun _ hr =>
      absurd (not_not.mp (not_or.mp hm).1) hr

theorem State.works_probeStart (s : State) (l : Lane) (length amplitude : Word) :
    s.Works (s.probeStart l length amplitude).1 := by
  unfold State.probeStart
  split_ifs with _ hm
  · exact .refl s
  · exact .refl s
  · exact .refl s
  · exact .onCampaign (f := fun _ => Campaign.started length.toNat (clampAmplitude amplitude)) fun _ =>
      .inr (not_not.mp hm)

theorem State.works_abortCampaign (s : State) (l : Lane) (d : Nat) : s.Works (s.abortCampaign l d) := by
  unfold State.abortCampaign
  split
  · exact (State.Works.onCampaign (by simp)).trans .notify
  · exact .refl s

theorem State.works_probeStop (s : State) (l : Lane) : s.Works (s.probeStop l).1 := by
  unfold State.probeStop
  split
  · exact s.works_abortCampaign l 0
  · exact .refl s

theorem State.changes_transferAbort (s : State) : s.Changes s.transferAbort.1 := by
  unfold State.transferAbort
  split
  · exact (State.Change.abort ‹_›).chain
  · exact .refl

/-- The commands of the decoder itself touch neither the bank nor the transfer record nor a lane (R150, R155, R162). -/
theorem State.works_pointCommand (s : State) (imm : BitVec 9) (addr : Word) : s.Works (s.pointCommand imm addr).1 := by
  unfold State.pointCommand
  split_ifs
  · exact .refl s
  · exact .refl s
  · exact .beside rfl rfl rfl rfl
  · exact .refl s

theorem State.works_patchOpen (s : State) : s.Works s.patchOpen.1 := by
  unfold State.patchOpen
  split
  · exact .beside rfl rfl rfl rfl
  · exact .refl s

theorem State.works_patchClose (s : State) : s.Works s.patchClose.1 := by
  unfold State.patchClose
  split
  · exact .beside rfl rfl rfl rfl
  · exact .refl s

theorem State.works_fetchNotices (s : State) (imm : BitVec 9) (room : Nat) : s.Works (s.fetchNotices imm room).1 := by
  unfold State.fetchNotices
  split
  · exact .refl s
  · exact .beside rfl rfl rfl rfl

theorem State.works_clearCounters (s : State) : s.Works s.clearCounters :=
  have hpart : s.Works { s with counters := PartCounters.zero } := .beside rfl rfl rfl rfl
  (hpart.trans (.onCounters (l := .zero) (f := fun _ => LaneCounters.zero))).trans
    (.onCounters (l := .one) (f := fun _ => LaneCounters.zero))

theorem State.changes_runCommand (s : State) (f : CommandFields) (args : List Word) (room : Nat) :
    s.Changes (s.runCommand f args room).1 := by
  unfold State.runCommand
  split
  · exact .refl
  · exact (s.works_pointCommand _ _).chain
  · exact s.changes_readCommand _
  · exact s.works_patchOpen.chain
  · exact s.works_patchClose.chain
  · exact s.changes_commitSet _
  · exact s.changes_freeSet _
  · exact s.changes_unfreezeSet _
  · exact s.changes_laneEnable _
  · exact s.changes_laneStart _
  · exact s.changes_laneStop _
  · exact s.changes_moveLane _ _
  · exact (s.works_adaptWindow _ _).chain
  · exact (s.works_probeStart _ _ _).chain
  · exact (s.works_probeStop _).chain
  · exact (State.Change.start _ _).chain
  · exact s.changes_transferAbort
  · exact .refl
  · exact (s.works_fetchNotices _ _).chain
  · exact .refl
  · exact s.works_clearCounters.chain
  · exact State.Change.partReset.chain
  · exact .refl

theorem State.works_respond (s : State) (code : BitVec 6) (r : Reply) : s.Works (s.respond code r) :=
  .beside rfl rfl rfl rfl

theorem State.changes_execCommand (s : State) (f : CommandFields) (args : List Word) (following : Nat)
    (hasData : Bool) : s.Changes (s.execCommand f args following hasData) := by
  simp only [State.execCommand]
  split
  · exact (s.works_respond _ _).chain
  · exact (s.changes_runCommand f args _).trans (State.works_respond _ _ _).chain

theorem State.changes_takeWord (s : State) (w : Word) (following : Nat) (hasData : Bool) :
    s.Changes (s.takeWord w following hasData).1 := by
  have hclear : s.Changes s.clearCommand := State.Works.chain (.beside rfl rfl rfl rfl)
  have hhold : ∀ (v : State) (p : PendingCommand), v.Changes (v.holdCommand p) :=
    fun _ _ => State.Works.chain (.beside rfl rfl rfl rfl)
  simp only [State.takeWord]
  split
  · split
    · exact hclear.trans (State.changes_execCommand _ _ _ _ _)
    · exact hhold _ _
  · split
    · exact State.changes_execCommand _ _ _ _ _
    · exact hclear.trans (hhold _ _)

/-! ## Data words (R151) -/

theorem State.works_writeLaneParam (s : State) (l : Lane) (p : LaneParam) (v : Word) :
    s.Works (s.writeLaneParam l p v).1 := by
  have hnumeric : ∀ j, s.Works (s.storeNumeric l p j) := by
    intro j
    unfold State.storeNumeric
    split
    · exact .onControl id
    · exact .onControl id
    · exact .onAdapt rfl rfl fun h _ => h
    · exact .onControl id
    · exact .onControl id
    · exact .refl s
    · exact .refl s
  unfold State.writeLaneParam
  split
  · exact .refl s
  · unfold State.storeLaneParam
    split
    · split
      · exact .onControl (f := fun c => { c with seekFeedForward := v.toNat == 1 }) id
      · exact .refl s
    · split
      · rename_i m _
        exact .onAdapt (f := fun x => { x with mode := m }) rfl rfl fun h _ => h
      · exact .refl s
    · exact hnumeric _

theorem State.works_writeCond (s : State) (p : CondParam) (v : Word) : s.Works (s.writeCond p v).1 := by
  unfold State.writeCond
  split
  · exact .refl s
  · exact .beside rfl rfl rfl rfl

theorem State.changes_writeItem (s : State) (p : Pointer) (v : Word) : s.Changes (s.writeItem p v).1 := by
  unfold State.writeItem
  split
  · split
    · exact (State.Change.data _ _ _ (Nat.mod_lt _ (by decide))).chain
    · exact .refl
  · exact (State.Change.entry _ _ _).chain
  · split
    · exact (State.Change.fallback _ _).chain
    · split
      · exact (s.works_writeLaneParam _ _ _).chain
      · exact .refl
  · split
    · exact (s.works_writeCond _ _).chain
    · exact .refl
  · exact .refl

theorem State.changes_offer (s : State) (v : Word) : s.Changes (s.offer v).1 := by
  have hpoint : ∀ (u : State) (p : Pointer), u.Changes (u.setPointer p) :=
    fun _ _ => State.Works.chain (.beside rfl rfl rfl rfl)
  simp only [State.offer]
  split_ifs
  · exact .refl
  · exact .refl
  · exact hpoint _ _
  · exact (s.changes_writeItem _ _).trans (hpoint _ _)

theorem State.works_report (s : State) (t : Tally) : s.Works (s.report t) := by
  unfold State.report
  split
  · exact .refl s
  · exact .beside rfl rfl rfl rfl

/-! ## Management frames (R144) -/

theorem State.works_turnAway (s : State) : s.Works s.turnAway := .beside rfl rfl rfl rfl

theorem State.changes_manage (s : State) (commands data : List Word) : s.Changes (s.manage commands data) :=
  State.manage_induction (P := s.Changes) (fun u w j b h => h.trans (u.changes_takeWord w j b))
    (fun u v h => h.trans (u.changes_offer v)) (fun u t h => h.trans (u.works_report t).chain)
    (fun u h => h.trans u.works_turnAway.chain) .refl commands data

theorem State.changes_manageWrite {r : State × WriteOutcome} (hr : s.Changes r.1) : s.Changes (s.manageWrite r) := by
  unfold State.manageWrite
  split
  · exact s.works_turnAway.chain
  · exact hr.trans (State.works_report _ _).chain

/-! ## Sensor frames (R1 to R6) -/

theorem State.works_raiseSettle (s : State) (l : Lane) (j : Nat) : s.Works (s.raiseSettle l j) := .onReference

theorem State.works_raiseSettleBoth (s : State) (j : Nat) : s.Works (s.raiseSettleBoth j) :=
  (s.works_raiseSettle .zero j).trans (State.works_raiseSettle _ .one j)

theorem State.works_takeSensor (s : State) (f : SensorFields) : s.Works (s.takeSensor f) := by
  have hreported : ∀ (v : State) (c : PartCounters) (kind : NoticeKind) (d : Nat),
      v.Works ((State.notify { v with counters := c } kind none d).raiseSettleBoth Config.settleLong) :=
    fun v c kind d => .trans (t := State.notify { v with counters := c } kind none d) (.beside rfl rfl rfl rfl)
      (State.works_raiseSettleBoth _ _)
  have hsequence : s.Works (s.checkSequence f.seq) := by
    simp only [State.checkSequence]
    split
    · exact .beside rfl rfl rfl rfl
    · exact .trans (hreported _ _ _ _) (.beside rfl rfl rfl rfl)
  have hclip : ∀ v : State, v.Works (v.checkClip f.channel1 f.channel2) := by
    intro v
    unfold State.checkClip
    split
    · exact .refl v
    · exact hreported _ _ _ _
  have hsample : ∀ v : State, v.Works (v.takeSample f.channel1 f.channel2) := fun _ => .beside rfl rfl rfl rfl
  have haux : ∀ v : State, v.Works (v.examineAux f) := by
    intro v
    unfold State.examineAux
    split
    · exact .beside rfl rfl rfl rfl
    · exact .refl v
  have hfresh : ∀ v : State, v.Works v.setFresh := fun v =>
    .trans .onReference (.onReference (s := v.onReference .zero fun x => { x with fresh := true }))
  exact (((hsequence.trans (hclip _)).trans (hsample _)).trans (haux _)).trans (hfresh _)

/-! ## Every command -/

theorem State.changes_downstream (s : State) (words : List Word) (slots : EngineSlots) :
    s.Changes (s.downstream words slots) := by
  have hhold : ∀ (u : State) (ws : List Word), u.Changes (u.hold ws) :=
    fun _ _ => State.Works.chain (.beside rfl rfl rfl rfl)
  unfold State.downstream
  refine .trans ?_ (hhold _ [])
  split
  · exact (hhold s words).trans (State.changes_servoFrame _ _ _)
  · exact ((hhold s words).trans (State.changes_manage _ _ _)).trans (State.Works.chain (.beside rfl rfl rfl rfl))
  · exact (hhold s words).trans (State.Works.chain (.beside rfl rfl rfl rfl))

theorem State.works_countWindow (s : State) (l : Lane) : s.Works (s.countWindow l) := by
  have hfalls : s.Works (s.onAdapt l fun x => { x with window := x.window - 1 }) :=
    .onAdapt rfl rfl fun h _ => Nat.sub_eq_zero_of_le (by omega)
  simp only [State.countWindow]
  split
  · split
    · exact hfalls.trans .notify
    · exact hfalls
  · exact .refl s

/-- An outcome's next state, if there is one, is reached from `s` by a chain of changes. -/
def State.ChangesTo (s : State) (o : Host.Outcome State Fault Refusal) : Prop := ∀ t : State, o = .next t → s.Changes t

theorem State.ChangesTo.next (h : s.Changes t) : s.ChangesTo (.next t) := by rintro _ ⟨⟩; exact h

/-- A row that is its event where the event is due, and nothing elsewhere (log entries 2 and 3). -/
theorem State.ChangesTo.due {c : Prop} [Decidable c] (h : c → s.Changes t) :
    s.ChangesTo (if c then .next t else .next s) := by
  split
  · exact .next (h ‹_›)
  · exact .next .refl

theorem State.ChangesTo.engine {o : Host.Outcome State Fault Refusal} (h : o = .next s.engineMove ∨ o = .next s) :
    s.ChangesTo o := by
  obtain rfl | rfl := h
  · exact .next State.Change.move.chain
  · exact .next .refl

theorem changesTo_execDivergenceRollback (s : State) (l : Lane) : s.ChangesTo (execDivergenceRollback l s) := by
  unfold execDivergenceRollback
  split
  · rename_i n _
    exact .due fun h => (State.Change.diverge l n ((s.rollbackAllowed_iff l n).mp h.1).2.2).chain
  · exact .next .refl

theorem changesTo_exec (s : State) (c : Instr) : s.ChangesTo (exec c s) := by
  cases c with
  | powerOnReset cut => exact .next (State.Change.powerOn cut).chain
  | sensorFrame words =>
    show s.ChangesTo (execSensorFrame words s)
    unfold execSensorFrame
    split
    · exact .next (s.works_takeSensor _).chain
    · exact .next .refl
  | servoFrame words slots => exact .next (s.changes_downstream words slots)
  | discardedFrame words | managementFrame words => exact .next (s.changes_downstream words .none)
  | referenceLost l => exact .due fun _ => (s.works_examineFresh l).chain
  | primingComplete l => exact .due fun _ => ((s.works_pushSample l).trans (State.works_completePriming _ l)).chain
  | campaignDone l => exact .due fun _ => (s.works_countProbeStep l).chain
  | divergenceRollback l => exact changesTo_execDivergenceRollback s l
  | windowClose l => exact .due fun _ => (s.works_countWindow l).chain
  | laneFault l => exact .due fun _ => s.changes_faultLane l
  | argumentExpired => exact .due fun _ => s.works_ageCommand.chain
  | transferTimeout => exact .due fun _ => State.Change.wait.chain
  | bankDataWord n w v =>
    exact .next (State.changes_manageWrite (State.Change.data n w v (Nat.lt_trans w.isLt (by decide))).chain)
  | mapEntryWrite l a v => exact .next (State.changes_manageWrite (State.Change.entry l a v).chain)
  | fallbackWrite l v => exact .next (State.changes_manageWrite (State.Change.fallback l v).chain)
  | laneParameterWrite l p v => exact .next (State.changes_manageWrite (s.works_writeLaneParam l p v).chain)
  | condParameterWrite p v => exact .next (State.changes_manageWrite (s.works_writeCond p v).chain)
  | wordMovement => exact .engine (execWordMovement_cases s)
  | blockHeaderAppend => exact .engine (execBlockHeaderAppend_cases s)
  | blockTrailerAppend => exact .engine (execBlockTrailerAppend_cases s)
  | sweepExamine => exact .engine (execSweepExamine_cases s)
  | wordDisturbed n w place second => exact .next (State.Change.disturb n w place second).chain
  | _ => exact .next (s.changes_manage _ _)

/-- Every step is a chain of changes. -/
theorem changes_of_step (h : step s = .next t) : s.Changes t := by
  rw [step] at h
  split at h
  · cases h; exact .refl
  · rename_i c rest _
    have hrest : s.Works (s.withPending rest) := .beside rfl rfl rfl rfl
    exact hrest.chain.trans (changesTo_exec (s.withPending rest) c t h)

end Sys2Proof.Machine
end

section
/-! SUPPORT. The names of the sets (R34, R42, R43): a write of a map entry or of a fallback setting moves one name and
the record of the set with it, and no other change touches a name, a reference count or an owner. -/

namespace Sys2Proof.Machine

variable {s t u : State} {l k : Lane} {n : SetNo}

/-! ## What leaves every name alone -/

/-- From `s` to `t` the names of the sets stand, their counts and their owners, and a canonical bank stays canonical. -/
structure State.KeepsNames (s t : State) : Prop where
  map : ∀ k, (t.lane k).selection.map = (s.lane k).selection.map
  fallback : ∀ k, (t.lane k).selection.fallback = (s.lane k).selection.fallback
  count : ∀ m, (t.record m).refCount = (s.record m).refCount
  owner : ∀ m, (t.record m).owner = (s.record m).owner
  wf : s.bankWf → t.bankWf

theorem State.KeepsNames.refl (s : State) : s.KeepsNames s :=
  ⟨fun _ => rfl, fun _ => rfl, fun _ => rfl, fun _ => rfl, id⟩

theorem State.KeepsNames.trans (h1 : s.KeepsNames t) (h2 : t.KeepsNames u) : s.KeepsNames u :=
  ⟨fun k => (h2.map k).trans (h1.map k), fun k => (h2.fallback k).trans (h1.fallback k),
    fun m => (h2.count m).trans (h1.count m), fun m => (h2.owner m).trans (h1.owner m), fun h => h2.wf (h1.wf h)⟩

/-- What leaves the bank alone and of each lane its names. -/
theorem State.KeepsNames.of_bank (hb : t.bank = s.bank)
    (hl : ∀ k, (t.lane k).selection.map = (s.lane k).selection.map
      ∧ (t.lane k).selection.fallback = (s.lane k).selection.fallback) : s.KeepsNames t :=
  ⟨fun k => (hl k).1, fun k => (hl k).2, fun m => by rw [State.record, hb]; rfl, fun m => by rw [State.record, hb]; rfl,
    fun h => by rw [State.bankWf, hb]; exact h⟩

/-- What leaves the bank and both lanes alone. -/
theorem State.KeepsNames.beside (hb : t.bank = s.bank) (h0 : t.lane0 = s.lane0) (h1 : t.lane1 = s.lane1) :
    s.KeepsNames t :=
  .of_bank hb fun k => by rw [State.lane_congr k h0 h1]; exact ⟨rfl, rfl⟩

theorem State.KeepsNames.setLane {x : LaneState} (hm : x.selection.map = (s.lane l).selection.map)
    (hf : x.selection.fallback = (s.lane l).selection.fallback) : s.KeepsNames (s.setLane l x) :=
  .of_bank rfl fun k => by
    rw [State.setLane_lane_eq]
    split
    · rename_i e; rw [e]; exact ⟨hm, hf⟩
    · exact ⟨rfl, rfl⟩

theorem State.KeepsNames.notify {kind : NoticeKind} {lane : Option Lane} {detail : Nat} :
    s.KeepsNames (s.notify kind lane detail) := .beside rfl rfl rfl

theorem State.KeepsNames.withTransfer {x : Transfer} : s.KeepsNames { s with transfer := x } := .beside rfl rfl rfl

theorem State.KeepsNames.onSelection {f : Selection → Selection} (hm : (f (s.lane l).selection).map = (s.lane l).selection.map)
    (hf : (f (s.lane l).selection).fallback = (s.lane l).selection.fallback) : s.KeepsNames (s.onSelection l f) :=
  .setLane hm hf
theorem State.KeepsNames.onCampaign {f : Campaign → Campaign} : s.KeepsNames (s.onCampaign l f) := .setLane rfl rfl
theorem State.KeepsNames.onControl {f : Control → Control} : s.KeepsNames (s.onControl l f) := .setLane rfl rfl
theorem State.KeepsNames.onFilter {f : Filter → Filter} : s.KeepsNames (s.onFilter l f) := .setLane rfl rfl
theorem State.KeepsNames.onAdapt {f : Adaptation → Adaptation} : s.KeepsNames (s.onAdapt l f) := .setLane rfl rfl
theorem State.KeepsNames.onCounters {f : LaneCounters → LaneCounters} : s.KeepsNames (s.onCounters l f) :=
  .setLane rfl rfl

/-- The records of sets may change in all but their counts and owners. -/
theorem State.KeepsNames.onRecord {f : SetRecord → SetRecord} (hc : (f (s.record n)).refCount = (s.record n).refCount)
    (ho : (f (s.record n)).owner = (s.record n).owner) : s.KeepsNames (s.onRecord n f) where
  map k := by simp
  fallback k := by simp
  count m := by
    rw [State.onRecord_record]
    split
    · rename_i e; rw [e, hc]
    · rfl
  owner m := by
    rw [State.onRecord_record]
    split
    · rename_i e; rw [e, ho]
    · rfl
  wf h := h

theorem State.KeepsNames.setSetState {st : SetState} : s.KeepsNames (s.setSetState n st) := .onRecord rfl rfl

theorem State.KeepsNames.putCell {w : Nat} {c : Cell} : s.KeepsNames (s.putCell n w c) where
  map k := by cases k <;> rfl
  fallback k := by cases k <;> rfl
  count _ := rfl
  owner _ := rfl
  wf h := State.putCell_wf h n w c

theorem State.KeepsNames.writeWords {w : Nat} {vs : List Word} : s.KeepsNames (s.writeWords n w vs) where
  map k := by simp
  fallback k := by simp
  count m := by simp
  owner m := by simp
  wf h := State.writeWords_wf h n w vs

theorem State.KeepsNames.releaseHolds : s.KeepsNames s.releaseHolds where
  map k := by simp
  fallback k := by simp
  count m := by simp
  owner m := by simp
  wf h := h

/-! ## The shared operations -/

theorem State.KeepsNames.completeCopy : s.KeepsNames (s.completeCopy n) := .trans .writeWords (.onRecord rfl rfl)

theorem State.KeepsNames.endTransfer {o : TransferOutcome} : s.KeepsNames (s.endTransfer o) := by
  have hfinish : ∀ v : State, v.KeepsNames (v.finishCopy o) := by
    intro v
    unfold State.finishCopy
    split
    · exact .completeCopy
    · exact .refl v
  exact (State.KeepsNames.releaseHolds.trans (hfinish _)).trans (.beside rfl rfl rfl)

theorem State.KeepsNames.dropCurrentIf : s.KeepsNames (s.dropCurrentIf n l) :=
  .of_bank (by simp) fun k => by simp

theorem State.KeepsNames.sourceQuarantined : s.KeepsNames (s.sourceQuarantined n) := by
  unfold State.sourceQuarantined
  split_ifs
  · exact .endTransfer
  · exact .beside rfl rfl rfl
  · exact .refl s

theorem State.KeepsNames.quarantine : s.KeepsNames (s.quarantine n) :=
  .trans (.trans (.trans (.trans .setSetState .notify) .dropCurrentIf) .dropCurrentIf) .sourceQuarantined

theorem State.KeepsNames.doubleError : s.KeepsNames (s.doubleError n) := by
  unfold State.doubleError
  split
  · exact .beside rfl rfl rfl
  · exact .beside rfl rfl rfl
  · exact .trans (t := { s with counters := { s.counters with storageError := raised s.counters.storageError 1 } })
      (.beside rfl rfl rfl) .quarantine

theorem State.KeepsNames.readWord (s : State) (n : SetNo) (w : Nat) : s.KeepsNames (s.readWord n w).1 := by
  unfold State.readWord
  split
  · exact .refl s
  · exact .trans .putCell (.beside rfl rfl rfl)
  · exact .doubleError

theorem State.KeepsNames.readUntilDouble (s : State) (n : SetNo) (ws : List Nat) :
    s.KeepsNames (s.readUntilDouble n ws).1 :=
  s.readUntilDouble_induction n (P := s.KeepsNames) (fun u w h => h.trans (.readWord u n w)) (.refl s) ws

theorem State.KeepsNames.readAll (s : State) (n : SetNo) (ws : List Nat) : s.KeepsNames (s.readAll n ws).1 :=
  s.readAll_induction n (P := s.KeepsNames) (fun u w h => h.trans (.readWord u n w)) (.refl s) ws

theorem State.KeepsNames.retireCurrent : s.KeepsNames (s.retireCurrent l) := by
  unfold State.retireCurrent
  split
  · split
    · exact .setSetState
    · exact .refl s
  · exact .refl s

/-- A lane that lets its current set go retires it first (R27, R52). -/
theorem State.releaseCurrent_eq (s : State) (l : Lane) : s.releaseCurrent l = (s.retireCurrent l).dropCurrent l := rfl

theorem State.KeepsNames.dropCurrent : s.KeepsNames (s.dropCurrent l) := .of_bank (by simp) fun k => by simp

theorem State.KeepsNames.releaseCurrent : s.KeepsNames (s.releaseCurrent l) := by
  rw [State.releaseCurrent_eq]
  exact .trans .retireCurrent .dropCurrent

theorem State.KeepsNames.leaveRunning {d : Nat} {m : LaneMode} : s.KeepsNames (s.leaveRunning l d m) := by
  have hwindow : ∀ v : State, v.KeepsNames (v.cancelWindow l) := by
    intro v
    unfold State.cancelWindow
    split
    · exact .trans .onAdapt .notify
    · exact .refl v
  have hcampaign : ∀ v : State, v.KeepsNames (v.abortCampaign l d) := by
    intro v
    unfold State.abortCampaign
    split
    · exact .trans .onCampaign .notify
    · exact .refl v
  exact .trans (.trans (.trans (.trans .releaseCurrent .onFilter) (hwindow _)) (hcampaign _)) .onControl

/-! ## The Set Selector, the filter and the Adaptation Unit -/

theorem State.KeepsNames.captureShadow : s.KeepsNames (s.captureShadow l n) := by
  have h := State.KeepsNames.readUntilDouble s n tapWords
  unfold State.captureShadow
  split <;> rename_i e <;> rw [e] at h
  · exact h.trans .onAdapt
  · exact h

theorem State.KeepsNames.enterLive {r : Route} : s.KeepsNames (s.enterLive l n r) :=
  .trans (.trans .setSetState (.onSelection (by rfl) (by rfl))) .onFilter

theorem State.KeepsNames.freshFrame {y : Word} {clamped : Bool} : s.KeepsNames (s.freshFrame l y clamped) :=
  .trans .onFilter .onCounters

theorem State.KeepsNames.computeCorrection : s.KeepsNames (s.computeCorrection l n).1 := by
  have h1 := State.KeepsNames.readUntilDouble s n [0, 1, 2, 3]
  unfold State.computeCorrection
  split <;> rename_i e <;> rw [e] at h1
  · rename_i s1 tr ts _ _
    have h2 := State.KeepsNames.readUntilDouble s1 n (usedTapWords (tapCount 32 tr) (tapCount 8 ts))
    split <;> rename_i e2 <;> rw [e2] at h2
    · exact (h1.trans h2).trans .freshFrame
    · exact h1.trans h2
  · exact h1

theorem State.KeepsNames.raiseDivergence : s.KeepsNames (s.raiseDivergence l n) := by
  unfold State.raiseDivergence
  split
  · exact .trans (.trans (.trans .writeWords (.onRecord (by rfl) (by rfl))) .onAdapt) .notify
  · exact .onAdapt

theorem State.Works.keepsNames (h : s.Works t) : s.KeepsNames t :=
  .of_bank h.bank fun k => ⟨(h.lane k).map, (h.lane k).fallback⟩

theorem State.KeepsNames.adaptTaps {tr ts : Nat} {e : Int} {hd : AdaptHeader} {taps : List Word} :
    s.KeepsNames (s.adaptTaps l n tr ts e hd taps) := by
  have hdivergence : ∀ v : State, v.KeepsNames (v.countDivergence l n e hd.dl) := by
    intro v
    unfold State.countDivergence
    split
    · exact .raiseDivergence
    · exact .onAdapt
  exact .trans (.trans (.trans (.trans .writeWords .writeWords) .onCounters) (hdivergence _))
    (State.works_countWindow _ l).keepsNames

theorem State.KeepsNames.adaptSet {tr ts : Nat} {e : Int} : s.KeepsNames (s.adaptSet l n tr ts e) := by
  have h1 := State.KeepsNames.readWord s n 4
  unfold State.adaptSet
  split <;> rename_i e1 <;> rw [e1] at h1
  · exact h1
  · rename_i s1 mu
    split
    · exact h1
    · have h2 := h1.trans (.readUntilDouble s1 n [5, 6, 7, 8, 9])
      split <;> rename_i e2 <;> rw [e2] at h2
      · rename_i s2 _ _ _ _ _
        have h3 := h2.trans (.readUntilDouble s2 n (usedTapWords tr ts))
        split <;> rename_i e3 <;> rw [e3] at h3
        · exact h3.trans .adaptTaps
        · exact h3
      · exact h2

/-! ## The Transfer Engine -/

theorem State.KeepsNames.transferStart (s : State) (a b : Word) : s.KeepsNames (s.transferStart a b).1 := by
  have hbusy : ∀ (v : State) (m : SetNo), v.KeepsNames (v.applyBusy m) := by
    intro v m
    unfold State.applyBusy
    split_ifs
    · exact .beside rfl rfl rfl
    · exact .endTransfer
    · exact .refl v
  simp only [State.transferStart]
  split
  · exact .refl s
  · rename_i plan _
    split
    · exact .refl s
    · cases plan with
      | copy src d =>
        simp only [State.startCopy]
        split
        · exact .refl s
        · exact .trans (.trans (.trans .withTransfer (.onRecord (by rfl) (by rfl))) (.onRecord (by rfl) (by rfl)))
            (hbusy _ _)
      | dump src count =>
        simp only [State.startDump]
        split
        · exact .refl s
        · exact .trans (.trans .withTransfer (.onRecord (by rfl) (by rfl))) (hbusy _ _)
      | sweep first count => exact .withTransfer

theorem State.KeepsNames.deliver {v : Word} : s.KeepsNames (s.deliver v) := by
  unfold State.deliver
  split
  · split
    · exact .putCell
    · exact .refl s
  · exact .beside rfl rfl rfl
  · exact .beside rfl rfl rfl

theorem State.KeepsNames.advanceWord : s.KeepsNames s.advanceWord := by
  have hadvanced : s.KeepsNames { s with transfer := { s.transfer with word := s.transfer.word + 1 } } :=
    .beside rfl rfl rfl
  simp only [State.advanceWord]
  split <;> split
  · exact hadvanced.trans .endTransfer
  · exact hadvanced
  · exact .beside rfl rfl rfl
  · exact .beside rfl rfl rfl
  · exact .beside rfl rfl rfl
  · exact .beside rfl rfl rfl

theorem State.KeepsNames.moveWord : s.KeepsNames (s.moveWord n) := by
  have h : s.KeepsNames (State.readWord
      { s with transfer := { s.transfer with remaining := s.transfer.remaining - 1 } } n s.transfer.word).1 :=
    .trans .withTransfer (.readWord _ _ _)
  simp only [State.moveWord]
  split <;> rename_i e <;> rw [e] at h
  · exact (h.trans .deliver).trans .advanceWord
  · split
    · exact ((h.trans (.beside (t := State.countBadWord _) rfl rfl rfl)).trans .deliver).trans .advanceWord
    · exact h.trans .endTransfer

theorem State.KeepsNames.appendTrailer : s.KeepsNames (s.appendTrailer n) := by
  have hword : s.KeepsNames (s.enqueue .transfer [transferTrailer n s.transfer.setBadWords]) := .beside rfl rfl rfl
  have hreleased := hword.trans (.onRecord (n := n) (f := fun r => { r with hold := .none }) rfl rfl)
  simp only [State.appendTrailer]
  split
  · split
    · exact hreleased.trans .endTransfer
    · exact hreleased.trans (.beside rfl rfl rfl)
  · exact hword.trans .endTransfer
  · exact hword

theorem State.KeepsNames.examineSet {cur : Option SetNo} : s.KeepsNames (s.examineSet cur) := by
  have htaken : ∀ m, s.KeepsNames (s.holdSource m) := fun m => .onRecord rfl rfl
  unfold State.examineSet
  split
  · exact .endTransfer
  · split
    · exact .beside rfl rfl rfl
    · exact .beside rfl rfl rfl
    · exact (htaken _).trans (.beside rfl rfl rfl)

theorem State.KeepsNames.engineMove : s.KeepsNames s.engineMove := by
  unfold State.engineMove
  split
  · unfold State.move
    split
    · exact .moveWord
    · exact .beside rfl rfl rfl
    · exact .appendTrailer
    · exact .examineSet
  · exact .refl s

/-! ## Every other change -/

/-- The state once a waiting transfer's wait count has risen by one (R168). -/
def State.waited (s : State) : State :=
  { s with transfer := { s.transfer with waitCount := s.transfer.waitCount + 1 } }

/-- The wait leaves a transfer that does not wait alone, counts a frame, or ends at 4096 with outcome TIMEOUT. -/
theorem State.countWait_cases (s : State) :
    s.countWait = s
      ∨ s.transfer.state = .waiting ∧ s.transfer.waitCount < 4095 ∧ s.countWait = s.waited
      ∨ s.transfer.state = .waiting ∧ s.countWait = s.waited.endTransfer .timeout := by
  by_cases hw : s.transfer.state = .waiting
  · by_cases hlast : 4095 ≤ s.transfer.waitCount
    · refine .inr (.inr ⟨hw, ?_⟩)
      unfold State.countWait
      rw [if_pos hw]
      exact if_pos (Nat.succ_le_succ hlast)
    · have hlt : s.transfer.waitCount < 4095 := Nat.not_le.mp hlast
      exact .inr (.inl ⟨hw, hlt, State.countWait_waits hw hlt⟩)
  · exact .inl (State.countWait_idle hw)

theorem State.KeepsNames.countWait : s.KeepsNames s.countWait := by
  rcases s.countWait_cases with h | ⟨-, -, h⟩ | ⟨-, h⟩ <;> rw [h]
  · exact .refl s
  · exact .withTransfer
  · exact .trans .withTransfer .endTransfer

/-- A set whose 50 words have been read without a double error becomes READY (R24, R25). -/
def State.committed (s : State) (n : SetNo) : State :=
  ((s.clampSet n).onRecord n fun r => { r with state := .ready, frozen := false }).sourceReady n

/-- The commit of a LOADING set reads its words, and makes it READY when it finds no double error (R24). -/
theorem State.commitLoading_cases (s : State) (n : SetNo) :
    (s.commitLoading n).1 = (s.readAll n allWords).1
      ∨ ((s.readAll n allWords).2.any (·.isNone) = false
        ∧ (s.commitLoading n).1 = (s.readAll n allWords).1.committed n) := by
  unfold State.commitLoading
  generalize s.readAll n allWords = p
  obtain ⟨s1, found⟩ := p
  dsimp only
  split
  · exact .inl rfl
  · rename_i h
    exact .inr ⟨Bool.not_eq_true _ ▸ h, rfl⟩

theorem State.KeepsNames.committed : s.KeepsNames (s.committed n) := by
  have hready : ∀ v : State, v.KeepsNames (v.sourceReady n) := fun v => .beside (by simp) (by simp) (by simp)
  exact .trans (.trans .writeWords (.onRecord (by rfl) (by rfl))) (hready _)

theorem State.KeepsNames.commitLoading : s.KeepsNames (s.commitLoading n).1 := by
  obtain h | ⟨-, h⟩ := s.commitLoading_cases n <;> rw [h]
  · exact .readAll s n _
  · exact .trans (.readAll s n _) .committed

theorem State.KeepsNames.partReset : s.KeepsNames s.partReset where
  map k := by rw [State.partReset_lane]; rfl
  fallback k := by rw [State.partReset_lane]; rfl
  count m := by rw [State.partReset_record]; rfl
  owner m := by rw [State.partReset_record]; rfl
  wf h := h

/-! ## The names that a lane has for a set (R34) -/

/-- The stores are canonical and the names of every set counted. -/
structure State.NamesHold (s : State) : Prop where
  stores : s.storesCanonical
  counted : s.namesCounted

theorem State.KeepsNames.namesHold (h : s.KeepsNames t) (hs : s.NamesHold) : t.NamesHold := by
  obtain ⟨⟨hbank, hmap0, hmap1⟩, hcounted⟩ := hs
  have hnames : ∀ (k : Lane) (m : SetNo), (t.lane k).selection.names m = (s.lane k).selection.names m := fun k m => by
    rw [Selection.names, h.map k, h.fallback k]; rfl
  refine ⟨⟨h.wf hbank, ?_, ?_⟩, fun m => ?_⟩
  · exact (congrArg (Memory.wf none · = true) (h.map .zero)).mpr hmap0
  · exact (congrArg (Memory.wf none · = true) (h.map .one)).mpr hmap1
  · rw [h.count m, h.owner m, show t.lane0.selection.names m = s.lane0.selection.names m from hnames .zero m,
      show t.lane1.selection.names m = s.lane1.selection.names m from hnames .one m]
    exact hcounted m

/-- The entries of a canonical map that hold a name, after a write: the entry written counts for the one it replaces. -/
theorem Memory.count_write {m : List (Nat × Option SetNo)} (hm : Memory.wf none m = true) (a : Nat) (v : Option SetNo)
    (n : SetNo) :
    ((Memory.write none m a v).filter fun e => decide (e.2 = some n)).length
        + (if Memory.read none m a = some n then 1 else 0)
      = (m.filter fun e => decide (e.2 = some n)).length + if v = some n then 1 else 0 := by
  induction m with
  | nil => by_cases hv : v = none <;> by_cases h : v = some n <;> simp_all [Memory.write, Memory.read]
  | cons e m ih =>
    obtain ⟨j, w⟩ := e
    obtain ⟨hw, hj, hm'⟩ := Memory.wf_cons.mp hm
    have hread : Memory.read none ((j, w) :: m) a = if a = j then w else if a < j then none else Memory.read none m a := rfl
    simp only [Memory.write, hread]
    rcases Nat.lt_trichotomy a j with hlt | rfl | hgt
    · have hne : a ≠ j := by omega
      simp only [hlt, hne, if_true, if_false]
      by_cases hv : v = none
      · simp [hv]
      · by_cases h : v = some n <;> simp [hv, h]
    · simp only [lt_irrefl, if_true, if_false]
      by_cases hv : v = none
      · by_cases h : w = some n <;> simp [hv, h]
      · by_cases h : v = some n <;> by_cases h2 : w = some n <;> simp [hv, h, h2]
    · have hne : a ≠ j := by omega
      have hnlt : ¬a < j := by omega
      simp only [hne, hnlt, if_false]
      have := ih hm'
      by_cases h : w = some n <;> simp [h] <;> omega

/-- The names of a set seen from either lane. -/
theorem State.namesCounted_iff (s : State) (l : Lane) :
    s.namesCounted ↔ ∀ m : SetNo,
      (s.record m).refCount = (s.lane l).selection.names m + (s.lane l.other).selection.names m
        ∧ (s.record m).owner =
            (if 0 < (s.lane l).selection.names m then some l
              else if 0 < (s.lane l.other).selection.names m then some l.other else none)
        ∧ ((s.lane l).selection.names m = 0 ∨ (s.lane l.other).selection.names m = 0) := by
  refine forall_congr' fun m => ?_
  cases l with
  | zero => exact Iff.rfl
  | one =>
    show _ ↔ (s.record m).refCount = s.lane1.selection.names m + s.lane0.selection.names m
      ∧ (s.record m).owner = (if 0 < s.lane1.selection.names m then some .one
          else if 0 < s.lane0.selection.names m then some .zero else none)
      ∧ (s.lane1.selection.names m = 0 ∨ s.lane0.selection.names m = 0)
    rw [Nat.add_comm (s.lane1.selection.names m)]
    refine and_congr_right fun _ => ?_
    by_cases h0 : s.lane0.selection.names m = 0 <;> by_cases h1 : s.lane1.selection.names m = 0 <;>
      simp [h0, h1, Nat.pos_iff_ne_zero]

/-- The upkeep of R42 keeps the names of the sets counted: the writing lane's names move from `old` to `new`, and the
other lane has no name for `new`. -/
theorem State.namesCounted_renamed {old new : Option SetNo} (hs : s.namesCounted)
    (hr : ∀ m, t.record m = (s.record m).renamed m l old new)
    (hl : ∀ m, (t.lane l).selection.names m + (if old = some m then 1 else 0)
      = (s.lane l).selection.names m + if new = some m then 1 else 0)
    (ho : (t.lane l.other).selection = (s.lane l.other).selection)
    (hc : ∀ m, new = some m → (s.record m).owner ≠ some l.other) : t.namesCounted := by
  refine (t.namesCounted_iff l).mpr fun m => ?_
  obtain ⟨hcount, howner, hone⟩ := (s.namesCounted_iff l).mp hs m
  have hmoved := hl m
  rw [hr m, ho]
  unfold SetRecord.renamed
  by_cases he : old = new
  · have hsame : (t.lane l).selection.names m = (s.lane l).selection.names m := by subst he; simpa using hmoved
    rw [if_pos he, hsame]
    exact ⟨hcount, howner, hone⟩
  · rw [if_neg he]
    by_cases hold : old = some m
    · have hnew : ¬new = some m := fun e => he (hold.trans e.symm)
      rw [if_pos hold, if_neg hnew] at hmoved
      rw [if_pos hold]
      have hother : (s.lane l.other).selection.names m = 0 := by omega
      simp only [hother, hcount] at *
      refine ⟨by omega, ?_, .inr trivial⟩
      rw [howner]
      split_ifs <;> first | rfl | omega
    · rw [if_neg hold] at hmoved ⊢
      by_cases hnew : new = some m
      · rw [if_pos hnew] at hmoved ⊢
        have hfree := hc m hnew
        have hother : (s.lane l.other).selection.names m = 0 := by
          by_contra h
          have hmine : (s.lane l).selection.names m = 0 := hone.resolve_right h
          exact hfree (by rw [howner, hmine, if_neg (lt_irrefl 0), if_pos (Nat.pos_of_ne_zero h)])
        simp only [hother, hcount] at *
        refine ⟨by omega, ?_, .inr trivial⟩
        rw [howner, if_pos (show 0 < (t.lane l).selection.names m by omega)]
        split_ifs <;> first | rfl | omega
      · have hsame : (t.lane l).selection.names m = (s.lane l).selection.names m := by simpa [hnew] using hmoved
        rw [if_neg hnew, hsame]
        exact ⟨hcount, howner, hone⟩

theorem State.not_conflicts {o : Option SetNo} (h : ¬s.conflicts l o = true) (m : SetNo) (hm : o = some m) :
    (s.record m).owner ≠ some l.other := by
  subst hm
  simpa [State.conflicts] using h

/-- Both selection maps are canonical, seen from either lane. -/
theorem State.storesCanonical_iff (s : State) (l : Lane) :
    s.storesCanonical ↔ s.bankWf ∧ Memory.wf (none : Option SetNo) (s.lane l).selection.map = true
      ∧ Memory.wf (none : Option SetNo) (s.lane l.other).selection.map = true := by
  cases l with
  | zero => exact Iff.rfl
  | one => exact and_congr_right fun _ => and_comm

/-- A name changed in a lane's selection, with the upkeep of the records: the stores stay canonical when the lane's map
does. -/
theorem State.namesHold_renamed {old new : Option SetNo} {f : Selection → Selection} (hs : s.NamesHold)
    (hf : Memory.wf (none : Option SetNo) (f (s.lane l).selection).map = true)
    (hl : ∀ m, (f (s.lane l).selection).names m + (if old = some m then 1 else 0)
      = (s.lane l).selection.names m + if new = some m then 1 else 0)
    (hc : ¬s.conflicts l new = true) : ((s.rename l old new).onSelection l f).NamesHold := by
  obtain ⟨records, hr⟩ := State.rename_eq (s := s) (l := l) old new
  have hlane : ∀ k, (s.rename l old new).lane k = s.lane k := fun k => by rw [hr]; exact State.withBank_lane _ _ _
  have hother : (((s.rename l old new).onSelection l f).lane l.other).selection = (s.lane l.other).selection := by
    rw [State.onSelection_other, hlane]
  have hmine : (((s.rename l old new).onSelection l f).lane l).selection = f (s.lane l).selection := by
    rw [State.onSelection_lane, hlane]
  obtain ⟨hbank, -, hmap⟩ := (s.storesCanonical_iff l).mp hs.stores
  refine ⟨(State.storesCanonical_iff _ l).mpr ⟨?_, by rwa [hmine], by rwa [hother]⟩, ?_⟩
  · rw [State.bankWf, State.onSelection_bank, hr]; exact hbank
  · refine State.namesCounted_renamed (old := old) (new := new) (l := l) hs.counted (fun m => ?_) (fun m => ?_) hother
      (State.not_conflicts hc)
    · rw [← State.rename_record (s := s)]; rfl
    · rw [hmine]; exact hl m

theorem State.writeMap_namesHold (hs : s.NamesHold) (l : Lane) (a : Nat) (v : Word) : (s.writeMap l a v).1.NamesHold := by
  obtain ⟨-, hmap, -⟩ := (s.storesCanonical_iff l).mp hs.stores
  unfold State.writeMap
  split
  · exact hs
  · split
    · exact hs
    · rename_i new _ hc
      refine State.namesHold_renamed (f := fun x => { x with map := Memory.write none x.map a new }) hs
        (Memory.write_wf hmap _ _) (fun m => ?_) hc
      have hcount := Memory.count_write hmap a new m
      rw [show s.mapEntry l a = Memory.read none (s.lane l).selection.map a from rfl]
      simp only [Selection.names]
      omega

theorem State.writeFallback_namesHold (hs : s.NamesHold) (l : Lane) (v : Word) : (s.writeFallback l v).1.NamesHold := by
  obtain ⟨-, hmap, -⟩ := (s.storesCanonical_iff l).mp hs.stores
  unfold State.writeFallback
  split
  · exact hs
  · split
    · exact hs
    · rename_i new _ hc
      refine State.namesHold_renamed (f := fun x => { x with fallback := new }) hs hmap (fun m => ?_) hc
      simp only [Selection.names]
      omega

/-- The bank and the selections of a power-on reset name no set. -/
theorem State.namesHold_of_reset (hb : t.bank = Bank.reset) (hl : ∀ k, (t.lane k).selection = Selection.reset) :
    t.NamesHold := by
  have hrecord : ∀ m, t.record m = SetRecord.reset := fun m => by simp [State.record, hb, Bank.reset]
  refine ⟨(t.storesCanonical_iff .zero).mpr ⟨?_, by rw [hl]; rfl, by rw [hl]; rfl⟩,
    (t.namesCounted_iff .zero).mpr fun m => ?_⟩
  · rw [State.bankWf, hb]; rfl
  · rw [hl, hl, hrecord]; exact ⟨rfl, rfl, .inl rfl⟩

/-! ## Every change -/

theorem State.Change.namesHold (h : s.Change t) (hs : s.NamesHold) : t.NamesHold := by
  have hkept : ∀ {v : State}, s.KeepsNames v → v.NamesHold := fun hv => hv.namesHold hs
  cases h with
  | works h => exact hkept h.keepsNames
  | release l => exact hkept .releaseCurrent
  | depart l d m => exact hkept .leaveRunning
  | reroute l r => exact hkept (.onSelection (by rfl) (by rfl))
  | enter l n r => exact hkept (.trans (.trans .retireCurrent .enterLive) .captureShadow)
  | read n w => exact hkept (.readWord s n w)
  | correct l n => exact hkept .computeCorrection
  | adapt l n tr ts e => exact hkept .adaptSet
  | diverge l n => exact hkept .raiseDivergence
  | data n w v =>
    unfold State.writeBankWord
    split_ifs
    · exact hs
    · exact hs
    · exact hkept (.trans (t := s.writeWord n w v) .putCell
        (.onRecord (f := fun r => { r with state := r.state.afterDataWord }) rfl rfl))
  | entry l a v => exact State.writeMap_namesHold hs l a v
  | fallback l v => exact State.writeFallback_namesHold hs l v
  | commit n => exact hkept .commitLoading
  | zero n => exact hkept (.trans .writeWords (.onRecord (by rfl) (by rfl)))
  | unfreeze n => exact hkept (.onRecord (by rfl) (by rfl))
  | start a b => exact hkept (.transferStart s a b)
  | abort => exact hkept .endTransfer
  | wait => exact hkept .countWait
  | move => exact hkept .engineMove
  | partReset => exact hkept .partReset
  | powerOn cut => exact State.namesHold_of_reset rfl fun k => by rw [State.powerOn_lane]; rfl
  | disturb n w place second => exact hkept .putCell

/-- Settles O55: a write of a map entry or of a fallback setting keeps the names counted by its upkeep of R42, and no
other change of a step touches a name. -/
theorem namesStayCounted : Obligations.NamesStayCounted := by
  intro s t hs hn h
  obtain ⟨hstores, hcounted⟩ := (changes_of_step h).keeps State.Change.namesHold ⟨hs, hn⟩
  exact ⟨hstores, hcounted⟩

end Sys2Proof.Machine
end

section
/-! SUPPORT. The sets in service and the holds (R26, R29, R33, R44, R51, R52, R90, R96, R168, R170, R173, R174): what
coherence says lane by lane and hold by hold, the updates that keep it, and that every change does. -/

namespace Sys2Proof.Machine

variable {s t u : State} {l k : Lane} {n : SetNo}

/-! ## The holds and the transfer record -/

/-- The transfer record and the holds agree: `State.transferCoherent`, clause by clause. -/
structure State.HoldsAgree (s : State) : Prop where
  hold : ∀ m : SetNo, (s.record m).hold = s.holdInUse m
  examine : s.transfer.busy = true → s.transfer.phase = .examine → s.transfer.mode = .sweep
  waiting : s.transfer.state = .waiting → s.transfer.waitCount ≤ 4095 ∧ s.transfer.mode ≠ .sweep
    ∧ ∃ m : SetNo, s.transfer.current = some m ∧ (s.record m).state = .loading
  copy : s.transfer.busy = true → s.transfer.mode = .copy → s.transfer.word + s.transfer.remaining = 50
    ∧ 1 ≤ s.transfer.remaining
    ∧ ∃ d : SetNo, s.transfer.destination = some d
        ∧ ((s.record d).state = .loading ∨ (s.record d).state = .quarantined)

theorem State.holdsAgree_iff (s : State) : s.HoldsAgree ↔ s.transferCoherent :=
  ⟨fun h => ⟨h.hold, h.examine, h.waiting, h.copy⟩, fun ⟨hhold, hexamine, hwaiting, hcopy⟩ =>
    ⟨hhold, hexamine, hwaiting, hcopy⟩⟩

theorem Transfer.busy_of_active {x : Transfer} (h : x.state = .active) : x.busy = true := Transfer.busy_iff.mpr (.inl h)
theorem Transfer.busy_of_waiting {x : Transfer} (h : x.state = .waiting) : x.busy = true := Transfer.busy_iff.mpr (.inr h)

theorem State.holdInUse_idle (h : s.transfer.busy = false) (m : SetNo) : s.holdInUse m = .none := if_pos h

theorem State.holdInUse_busy (h : s.transfer.busy = true) (m : SetNo) :
    s.holdInUse m =
      if s.transfer.mode = .copy ∧ s.transfer.destination = some m then .destination
      else if s.transfer.current = some m ∧ (s.transfer.mode = .sweep → s.transfer.phase ≠ .examine) then .source
      else .none := if_neg (by rw [h]; decide)

theorem State.holdInUse_congr (h : t.transfer = s.transfer) (m : SetNo) : t.holdInUse m = s.holdInUse m := by
  simp only [State.holdInUse, h]

/-- The source of a waiting transfer and the destination of a COPY under way are held. -/
theorem State.HoldsAgree.source_held (h : s.HoldsAgree) (hw : s.transfer.state = .waiting)
    (hc : s.transfer.current = some n) : (s.record n).hold ≠ .none := by
  obtain ⟨-, hsweep, -⟩ := h.waiting hw
  rw [h.hold, State.holdInUse_busy (Transfer.busy_of_waiting hw)]
  split
  · decide
  · rw [if_pos ⟨hc, fun e => absurd e hsweep⟩]; decide

theorem State.HoldsAgree.destination_held (h : s.HoldsAgree) (hb : s.transfer.busy = true) (hm : s.transfer.mode = .copy)
    (hd : s.transfer.destination = some n) : (s.record n).hold = .destination := by
  rw [h.hold, State.holdInUse_busy hb, if_pos ⟨hm, hd⟩]

/-- No transfer waits on a set that is not LOADING. -/
theorem State.HoldsAgree.not_waiting_on (h : s.HoldsAgree) (hn : (s.record n).state ≠ .loading) :
    ¬(s.transfer.state = .waiting ∧ s.transfer.current = some n) := by
  rintro ⟨hw, hc⟩
  obtain ⟨-, -, m, hm, hload⟩ := h.waiting hw
  obtain rfl : m = n := Option.some.inj (hm.symm.trans hc)
  exact hn hload

/-- With no transfer under way and no hold set, nothing is left to agree on. -/
theorem State.HoldsAgree.idle (hb : t.transfer.busy = false) (hh : ∀ m, (t.record m).hold = .none) : t.HoldsAgree where
  hold m := (hh m).trans (State.holdInUse_idle hb m).symm
  examine h := absurd h (by rw [hb]; decide)
  waiting h := absurd (Transfer.busy_of_waiting h) (by rw [hb]; decide)
  copy h := absurd h (by rw [hb]; decide)

/-- Holds stand, and so do the LOADING source of a transfer that waits and the destination of a COPY. -/
theorem State.HoldsAgree.of_holds (h : s.HoldsAgree) (ht : t.transfer = s.transfer)
    (hh : ∀ m, (t.record m).hold = (s.record m).hold)
    (hw : ∀ m, s.transfer.state = .waiting → s.transfer.current = some m → (s.record m).state = .loading →
      (t.record m).state = .loading)
    (hd : ∀ m, (s.record m).hold = .destination → (s.record m).state = .loading ∨ (s.record m).state = .quarantined →
      (t.record m).state = .loading ∨ (t.record m).state = .quarantined) :
    t.HoldsAgree where
  hold m := by rw [hh, h.hold, State.holdInUse_congr ht]
  examine := by rw [ht]; exact h.examine
  waiting hwait := by
    rw [ht] at hwait ⊢
    obtain ⟨hcount, hsweep, m, hc, hload⟩ := h.waiting hwait
    exact ⟨hcount, hsweep, m, hc, hw m hwait hc hload⟩
  copy hb hm := by
    rw [ht] at hb hm ⊢
    obtain ⟨hsum, hpos, d, hdest, hstate⟩ := h.copy hb hm
    exact ⟨hsum, hpos, d, hdest, hd d (h.destination_held hb hm hdest) hstate⟩

/-- Holds stand, and so do the states LOADING and QUARANTINED of sets under a hold. -/
theorem State.HoldsAgree.of_records (h : s.HoldsAgree) (ht : t.transfer = s.transfer)
    (hh : ∀ m, (t.record m).hold = (s.record m).hold)
    (hl : ∀ m, (s.record m).hold ≠ .none → (s.record m).state = .loading → (t.record m).state = .loading)
    (hq : ∀ m, (s.record m).hold ≠ .none → (s.record m).state = .quarantined → (t.record m).state = .quarantined) :
    t.HoldsAgree :=
  h.of_holds ht hh (fun m hwait hc => hl m (h.source_held hwait hc)) fun m hd =>
    .imp (hl m (by rw [hd]; decide)) (hq m (by rw [hd]; decide))

/-- A transfer that waits may become ACTIVE, whatever its source has become. -/
theorem State.HoldsAgree.activate (h : s.HoldsAgree) (hb : s.transfer.busy = true) :
    State.HoldsAgree { s with transfer := { s.transfer with state := .active } } where
  hold m := (h.hold m).trans (by
    rw [State.holdInUse_busy hb, State.holdInUse_busy (Transfer.busy_of_active rfl)])
  examine _ := h.examine hb
  waiting := nofun
  copy _ := h.copy hb

/-- A transfer that is no SWEEP may wait on its LOADING source. -/
theorem State.HoldsAgree.wait (h : s.HoldsAgree) (hb : s.transfer.busy = true) (hm : s.transfer.mode ≠ .sweep)
    (hc : s.transfer.waitCount = 0) (hn : s.transfer.current = some n) (hl : (s.record n).state = .loading) :
    State.HoldsAgree { s with transfer := { s.transfer with state := .waiting } } where
  hold m := (h.hold m).trans (by
    rw [State.holdInUse_busy hb, State.holdInUse_busy (Transfer.busy_of_waiting rfl)])
  examine _ := h.examine hb
  waiting _ := ⟨hc ▸ Nat.zero_le _, hm, n, hn, hl⟩
  copy _ := h.copy hb

/-- The transfer record goes on within its transfer: sets, mode and state stand, and it stays before, in or past the
examination of its set. -/
theorem State.HoldsAgree.of_transfer (h : s.HoldsAgree) (hr : ∀ m, t.record m = s.record m)
    (hstate : t.transfer.state = s.transfer.state) (hmode : t.transfer.mode = s.transfer.mode)
    (hd : t.transfer.destination = s.transfer.destination) (hc : t.transfer.current = s.transfer.current)
    (hw : t.transfer.state = .waiting → t.transfer.waitCount ≤ 4095)
    (hp : t.transfer.phase = .examine ↔ s.transfer.phase = .examine)
    (hcopy : t.transfer.busy = true → t.transfer.mode = .copy →
      t.transfer.word + t.transfer.remaining = 50 ∧ 1 ≤ t.transfer.remaining) : t.HoldsAgree := by
  have hbusy : t.transfer.busy = s.transfer.busy := by rw [Transfer.busy, Transfer.busy, hstate]
  refine ⟨fun m => ?_, fun hb he => ?_, fun hwait => ?_, fun hb hm => ?_⟩
  · rw [hr, h.hold]
    simp only [State.holdInUse, hbusy, hmode, hd, hc, ne_eq, hp]
  · rw [hmode]; exact h.examine (hbusy ▸ hb) (hp.mp he)
  · obtain ⟨-, hsweep, m, hcur, hload⟩ := h.waiting (hstate ▸ hwait)
    exact ⟨hw hwait, by rwa [hmode], m, by rwa [hc], by rwa [hr]⟩
  · obtain ⟨-, -, d, hdest, hset⟩ := h.copy (hbusy ▸ hb) (hmode ▸ hm)
    obtain ⟨hsum, hpos⟩ := hcopy hb hm
    exact ⟨hsum, hpos, d, by rwa [hd], by rwa [hr]⟩

/-! ## The service of a lane -/

/-- From `x` to `y` a lane's service stands: `LaneState.Works` without the names. -/
structure LaneState.Serves (x y : LaneState) : Prop where
  current : y.selection.current = x.selection.current
  route : y.selection.route = x.selection.route
  held : y.filter.held = x.filter.held
  shadow : y.adapt.shadow = x.adapt.shadow
  divergence : y.adapt.divergence = x.adapt.divergence
  rest : y.control.mode ≠ .running → x.control.mode ≠ .running ∧ (x.Departed → y.Departed)

theorem LaneState.Serves.refl (x : LaneState) : x.Serves x := ⟨rfl, rfl, rfl, rfl, rfl, fun h => ⟨h, id⟩⟩

theorem LaneState.Works.serves {x y : LaneState} (h : x.Works y) : x.Serves y :=
  ⟨h.current, h.route, h.held, h.shadow, h.divergence, h.rest⟩

theorem LaneState.Serves.inService {x y : LaneState} (h : x.Serves y) (hx : x.inService) : y.inService := by
  obtain ⟨hrest, hnone, hroute, hset, htaps⟩ := hx
  refine ⟨fun hm => ?_, ?_, ?_, ?_, ?_⟩
  · obtain ⟨hxm, hdeparted⟩ := h.rest hm
    obtain ⟨hc, hrun, hwindow, hcampaign⟩ := hrest hxm
    exact ⟨h.current.trans hc, hdeparted ⟨hrun, hwindow, hcampaign⟩⟩
  · rw [h.current, h.held, h.divergence]; exact hnone
  · rw [h.current, h.route]; exact hroute
  · rw [h.current, h.shadow]; exact hset
  · rw [h.shadow]; exact htaps

/-- A lane without a current set is in service when nothing of one is left. -/
theorem LaneState.inService_of_none {x : LaneState} (hc : x.selection.current = none) (hr : x.selection.route = .none)
    (hh : x.filter.held = 0) (hs : x.adapt.shadow = none) (hd : x.adapt.divergence = 0)
    (hrest : x.control.mode ≠ .running → x.Departed) : x.inService :=
  ⟨fun hm => ⟨hc, hrest hm⟩, fun _ => ⟨hh, hd⟩, iff_of_true hr hc, by rw [hs, hc]; rfl, by rw [hs]; exact nofun⟩

theorem LaneState.withoutSet_inService {x : LaneState} (h : x.inService) : x.withoutSet.inService := by
  obtain ⟨hrest, -⟩ := h
  exact LaneState.inService_of_none rfl rfl rfl rfl rfl fun hm => (hrest hm).2

/-! ## Coherence -/

/-- The sets in service and the holds are coherent, lane by lane. -/
structure State.Coherent (s : State) : Prop where
  service : ∀ k, (s.lane k).inService
  live : ∀ m, (s.record m).state = .live ↔ ∃ k, (s.lane k).selection.current = some m
  apart : ∀ k m, (s.lane k).selection.current = some m → (s.lane k.other).selection.current ≠ some m
  holds : s.HoldsAgree

theorem State.coherent_iff (s : State) : s.Coherent ↔ s.serviceCoherent ∧ s.transferCoherent := by
  constructor
  · intro h
    refine ⟨⟨h.service .zero, h.service .one, fun m => ?_, ?_⟩, s.holdsAgree_iff.mp h.holds⟩
    · refine (h.live m).trans ⟨?_, ?_⟩
      · rintro ⟨k, hk⟩
        cases k
        · exact .inl hk
        · exact .inr hk
      · rintro (h0 | h1)
        · exact ⟨.zero, h0⟩
        · exact ⟨.one, h1⟩
    · cases hc : s.lane0.selection.current with
      | none => exact .inl rfl
      | some m => exact .inr fun e => h.apart .zero m hc e.symm
  · rintro ⟨hservice, htransfer⟩
    have hparts := hservice
    obtain ⟨h0, h1, hlive, -⟩ := hparts
    refine ⟨fun k => by cases k <;> assumption, fun m => (hlive m).trans ⟨?_, ?_⟩, fun k m hk hother => ?_,
      s.holdsAgree_iff.mpr htransfer⟩
    · rintro (e | e)
      · exact ⟨.zero, e⟩
      · exact ⟨.one, e⟩
    · rintro ⟨k, e⟩
      cases k
      · exact .inl e
      · exact .inr e
    · exact (State.apart_of_serviceCoherent hservice k m hother).2 hk

theorem State.Coherent.not_current (h : s.Coherent) (hn : (s.record n).state ≠ .live) (k : Lane) :
    (s.lane k).selection.current ≠ some n := fun e => hn ((h.live n).mpr ⟨k, e⟩)

/-- The sets in service stand when lanes keep their current sets and no set becomes LIVE or stops being so. -/
theorem State.Coherent.of_kept (h : s.Coherent) (hs : ∀ k, (t.lane k).inService)
    (hc : ∀ k, (t.lane k).selection.current = (s.lane k).selection.current)
    (hl : ∀ m, (t.record m).state = .live ↔ (s.record m).state = .live) (hh : t.HoldsAgree) : t.Coherent :=
  ⟨hs, fun m => by simp only [hl, hc]; exact h.live m, fun k m => by rw [hc, hc]; exact h.apart k m, hh⟩

/-- From `s` to `t` the service of the lanes, the states and holds of the sets and the transfer record stand. -/
structure State.SameCondition (s t : State) : Prop where
  lane : ∀ k, (s.lane k).Serves (t.lane k)
  state : ∀ m, (t.record m).state = (s.record m).state
  hold : ∀ m, (t.record m).hold = (s.record m).hold
  transfer : t.transfer = s.transfer

theorem State.Coherent.same (hs : s.Coherent) (h : s.SameCondition t) : t.Coherent :=
  hs.of_kept (fun k => (h.lane k).inService (hs.service k)) (fun k => (h.lane k).current) (fun m => by rw [h.state])
    (hs.holds.of_records h.transfer h.hold (fun m _ e => (h.state m).trans e) fun m _ e => (h.state m).trans e)

theorem State.SameService.sameCondition (h : s.SameService t) : s.SameCondition t :=
  ⟨fun k => by rw [h.lane]; exact .refl _, fun m => by rw [h.record], fun m => by rw [h.record], h.transfer⟩

theorem State.Works.sameCondition (h : s.Works t) : s.SameCondition t :=
  ⟨fun k => (h.lane k).serves, fun m => by rw [State.record, h.bank]; rfl, fun m => by rw [State.record, h.bank]; rfl,
    h.transfer⟩

theorem State.Coherent.works (h : s.Coherent) (hw : s.Works t) : t.Coherent := h.same hw.sameCondition

/-- A record's frozen flag, count and owner are no part of coherence. -/
theorem State.Coherent.onRecord {f : SetRecord → SetRecord} (h : s.Coherent)
    (hs : (f (s.record n)).state = (s.record n).state) (hh : (f (s.record n)).hold = (s.record n).hold) :
    (s.onRecord n f).Coherent := by
  refine h.same ⟨fun k => by rw [State.onRecord_lane]; exact .refl _, fun m => ?_, fun m => ?_, rfl⟩
  · rw [State.onRecord_record]
    split
    · rename_i e; rw [e, hs]
    · rfl
  · rw [State.onRecord_record]
    split
    · rename_i e; rw [e, hh]
    · rfl

theorem State.Coherent.putCell (h : s.Coherent) {w : Nat} {c : Cell} : (s.putCell n w c).Coherent :=
  h.same
    ⟨fun k => by rw [State.lane_congr (t := s.putCell n w c) (s := s) k rfl rfl]; exact .refl _, fun _ => rfl,
      fun _ => rfl, rfl⟩

theorem State.Coherent.writeWords (h : s.Coherent) {w : Nat} {vs : List Word} : (s.writeWords n w vs).Coherent :=
  h.same
    ⟨fun k => by rw [State.writeWords_lane]; exact .refl _, fun m => by rw [State.writeWords_record],
      fun m => by rw [State.writeWords_record], by simp⟩

/-- A lane in service with the same current set. -/
theorem State.Coherent.setLane {x : LaneState} (h : s.Coherent) (hx : x.inService)
    (hc : x.selection.current = (s.lane l).selection.current) : (s.setLane l x).Coherent := by
  refine h.of_kept (fun k => ?_) (fun k => ?_) (fun m => Iff.rfl)
    (h.holds.of_records rfl (fun _ => rfl) (fun _ _ e => e) fun _ _ e => e)
  · rw [State.setLane_lane_eq]
    split
    · exact hx
    · exact h.service k
  · rw [State.setLane_lane_eq]
    split
    · rename_i e; rw [e]; exact hc
    · rfl

/-- The held correction and the divergence count of a lane that has a current set (R58, R91). -/
theorem State.Coherent.onFilter_held (h : s.Coherent) (hc : (s.lane l).selection.current ≠ none) {y : Word} :
    (s.onFilter l fun x => { x with held := y }).Coherent := by
  obtain ⟨hrest, -, hroute, hset, htaps⟩ := h.service l
  exact h.setLane ⟨hrest, fun e => absurd e hc, hroute, hset, htaps⟩ rfl

theorem State.Coherent.onAdapt_divergence (h : s.Coherent) (hc : (s.lane l).selection.current ≠ none)
    {g : Adaptation → Nat} : (s.onAdapt l fun x => { x with divergence := g x }).Coherent := by
  obtain ⟨hrest, -, hroute, hset, htaps⟩ := h.service l
  exact h.setLane ⟨hrest, fun e => absurd e hc, hroute, hset, htaps⟩ rfl

/-! ## The end of a transfer (R174) -/

/-- What the end of a transfer makes of a set: its hold is released, and a completed COPY's destination is READY. -/
theorem State.endTransfer_state (s : State) (o : TransferOutcome) (m : SetNo) :
    ((s.endTransfer o).record m).state =
      if s.transfer.mode = .copy ∧ o = .complete ∧ s.transfer.destination = some m then .ready else (s.record m).state := by
  have hreleased : (s.releaseHolds.record m).state = (s.record m).state := by rw [State.releaseHolds_record]
  show ((s.releaseHolds.finishCopy o).record m).state = _
  unfold State.finishCopy
  simp only [State.releaseHolds_outside]
  split
  · rename_i d hm hd
    rw [State.completeCopy_record]
    by_cases e : m = d
    · rw [if_pos e, if_pos ⟨hm, rfl, e ▸ hd⟩]
    · rw [if_neg e, if_neg fun hc => e (Option.some.inj (hc.2.2.symm.trans hd)), hreleased]
  · rename_i hne
    rw [if_neg fun hc => hne m hc.1 hc.2.1 hc.2.2, hreleased]

theorem State.endTransfer_hold (s : State) (o : TransferOutcome) (m : SetNo) :
    ((s.endTransfer o).record m).hold = .none := by
  have hreleased : (s.releaseHolds.record m).hold = .none := by rw [State.releaseHolds_record]
  have hfinish : ((s.releaseHolds.finishCopy o).record m).hold = .none := by
    unfold State.finishCopy
    split
    · rw [State.completeCopy_record]
      split
      · rename_i d _ _ _ e
        rw [State.releaseHolds_record]
      · exact hreleased
    · exact hreleased
  exact hfinish

/-- A transfer ends, its destination not LIVE if it is a COPY that is COMPLETE. -/
theorem State.Coherent.endTransfer_of (h : s.Coherent) {t : State} (hl : ∀ k, t.lane k = s.lane k)
    (hs : ∀ m, (t.record m).state = (s.record m).state) {o : TransferOutcome}
    (hd : t.transfer.mode = .copy → o = .complete → ∀ d, t.transfer.destination = some d → (s.record d).state ≠ .live) :
    (t.endTransfer o).Coherent := by
  have hlane : ∀ k, (t.endTransfer o).lane k = s.lane k := fun k => by rw [State.endTransfer_lane, hl]
  refine h.of_kept (fun k => by rw [hlane]; exact h.service k) (fun k => by rw [hlane]) (fun m => ?_)
    (.idle rfl fun m => State.endTransfer_hold t o m)
  rw [State.endTransfer_state, ← hs m]
  split
  · rename_i hcopy
    obtain ⟨hm, ho, hdest⟩ := hcopy
    exact iff_of_false (by decide) (by rw [hs]; exact hd hm ho m hdest)
  · exact Iff.rfl

theorem State.Coherent.endTransfer (h : s.Coherent) {o : TransferOutcome} (ho : o ≠ .complete ∨ s.transfer.mode ≠ .copy) :
    (s.endTransfer o).Coherent :=
  h.endTransfer_of (fun _ => rfl) (fun _ => rfl) fun hm hc => (ho.elim (· hc) (· hm)).elim

/-! ## Checked reads (R35, R36, R51, R168) -/

/-- A set becomes QUARANTINED: a lane in service with it loses it, and a transfer that waits on it learns of it. -/
theorem State.Coherent.quarantine (h : s.Coherent) : (s.quarantine n).Coherent := by
  have hlane : ∀ k, ((((s.setSetState n .quarantined).notify .setQuarantined none n.val).dropCurrentIf n .zero).dropCurrentIf
      n .one).lane k = if (s.lane k).selection.current = some n then (s.lane k).withoutSet else s.lane k := fun k => by
    have e := State.quarantine_lane_eq s k n
    rwa [State.quarantine, State.sourceQuarantined_lane] at e
  have hrecord : ∀ m, ((((s.setSetState n .quarantined).notify .setQuarantined none n.val).dropCurrentIf n
      .zero).dropCurrentIf n .one).record m = if m = n then { s.record n with state := .quarantined } else s.record m :=
    fun m => by
      have : ∀ (v : State) (l : Lane), (v.dropCurrentIf n l).record m = v.record m := fun v l => by simp [State.record]
      rw [this, this]
      exact State.setSetState_record _ _ _ _
  have htransfer : ((((s.setSetState n .quarantined).notify .setQuarantined none n.val).dropCurrentIf n
      .zero).dropCurrentIf n .one).transfer = s.transfer := by simp
  unfold State.quarantine
  generalize (((s.setSetState n .quarantined).notify .setQuarantined none n.val).dropCurrentIf n .zero).dropCurrentIf n
    .one = v at hlane hrecord htransfer ⊢
  have hservice : ∀ k, (v.lane k).inService := fun k => by
    rw [hlane]
    split
    · exact LaneState.withoutSet_inService (h.service k)
    · exact h.service k
  have hcurrent : ∀ k m, (v.lane k).selection.current = some m ↔ m ≠ n ∧ (s.lane k).selection.current = some m := by
    intro k m
    rw [hlane]
    split
    · rename_i e
      refine iff_of_false nofun ?_
      rintro ⟨hne, hm⟩
      exact hne (Option.some.inj (hm.symm.trans e))
    · rename_i e
      exact ⟨fun hm => ⟨fun hmn => e (hmn ▸ hm), hm⟩, And.right⟩
  have hlive : ∀ m, (v.record m).state = .live ↔ ∃ k, (v.lane k).selection.current = some m := by
    intro m
    simp only [hcurrent, exists_and_left, ← h.live m]
    rw [hrecord]
    split
    · rename_i e
      exact iff_of_false (by simp) fun ⟨hne, _⟩ => hne e
    · rename_i e
      exact ⟨fun hm => ⟨e, hm⟩, And.right⟩
  have hapart : ∀ k m, (v.lane k).selection.current = some m → (v.lane k.other).selection.current ≠ some m := by
    intro k m hk hother
    exact h.apart k m ((hcurrent k m).mp hk).2 ((hcurrent _ m).mp hother).2
  have hhold : ∀ m, (v.record m).hold = (s.record m).hold := fun m => by
    rw [hrecord]
    split
    · rename_i e; rw [e]
    · rfl
  have hset : ∀ m, (s.record m).state = .loading ∨ (s.record m).state = .quarantined →
      (v.record m).state = .loading ∨ (v.record m).state = .quarantined := fun m hm => by
    rw [hrecord]
    split
    · exact .inr rfl
    · exact hm
  unfold State.sourceQuarantined
  split
  · rename_i hw
    rw [htransfer] at hw
    obtain ⟨hwait, hcur⟩ := hw
    obtain ⟨-, hsweep, -⟩ := h.holds.waiting hwait
    split
    · refine ⟨fun k => by rw [State.endTransfer_lane]; exact hservice k, fun m => ?_, fun k m => ?_,
        .idle rfl fun m => State.endTransfer_hold v _ m⟩
      · simp only [State.endTransfer_lane, State.endTransfer_state, reduceCtorEq, false_and, and_false, if_false]
        exact hlive m
      · simp only [State.endTransfer_lane]
        exact hapart k m
    · rename_i hm
      rw [htransfer] at hm
      have hv : ∀ k, State.lane { v with transfer := { v.transfer with state := .active } } k = v.lane k :=
        fun k => State.withTransfer_lane v k _
      refine ⟨fun k => by rw [hv]; exact hservice k, fun m => ?_, fun k m => ?_, ?_⟩
      · simp only [hv]; exact hlive m
      · simp only [hv]; exact hapart k m
      · have hbusy := Transfer.busy_of_waiting hwait
        refine ⟨fun m => (hhold m).trans ?_, fun _ he => ?_, nofun, fun _ hc => absurd (htransfer ▸ hc) hm⟩
        · rw [h.holds.hold, State.holdInUse_busy hbusy, State.holdInUse_busy (Transfer.busy_of_active rfl), htransfer]
        · rw [htransfer] at he ⊢
          exact h.holds.examine hbusy he
  · rename_i hw
    rw [htransfer] at hw
    refine ⟨hservice, hlive, hapart, ?_⟩
    refine ⟨fun m => by rw [hhold, h.holds.hold, State.holdInUse_congr htransfer],
      by rw [htransfer]; exact h.holds.examine, fun hwait => ?_, fun hb hm => ?_⟩
    · rw [htransfer] at hwait ⊢
      obtain ⟨hcount, hsweep, m, hcur, hload⟩ := h.holds.waiting hwait
      refine ⟨hcount, hsweep, m, hcur, ?_⟩
      rw [hrecord, if_neg fun e => hw ⟨hwait, by rw [← e]; exact hcur⟩]
      exact hload
    · rw [htransfer] at hb hm ⊢
      obtain ⟨hsum, hpos, d, hd, hstate⟩ := h.holds.copy hb hm
      exact ⟨hsum, hpos, d, hd, hset d hstate⟩

theorem State.Coherent.doubleError (h : s.Coherent) : (s.doubleError n).Coherent := by
  have hcounted : State.Coherent
      { s with counters := { s.counters with storageError := raised s.counters.storageError 1 } } :=
    h.works (.beside rfl rfl rfl rfl)
  unfold State.doubleError
  split
  · exact hcounted
  · exact hcounted.works .notify
  · exact hcounted.quarantine

theorem State.Coherent.readWord (h : s.Coherent) (n : SetNo) (w : Nat) : (s.readWord n w).1.Coherent := by
  unfold State.readWord
  split
  · exact h
  · exact h.same (s.correctWord_sameService n w _).sameCondition
  · exact h.doubleError

theorem State.Coherent.readUntilDouble (h : s.Coherent) (n : SetNo) (ws : List Nat) :
    (s.readUntilDouble n ws).1.Coherent :=
  s.readUntilDouble_induction n (P := State.Coherent) (fun _ w hu => hu.readWord n w) h ws

theorem State.Coherent.readAll (h : s.Coherent) (n : SetNo) (ws : List Nat) : (s.readAll n ws).1.Coherent :=
  s.readAll_induction n (P := State.Coherent) (fun _ w hu => hu.readWord n w) h ws

/-- A read that gives a value corrects at most; one that gives none has found a double error. -/
theorem State.readWord_cases (s : State) (n : SetNo) (w : Nat) :
    (∃ t v, s.readWord n w = (t, some v) ∧ s.SameService t) ∨ s.readWord n w = (s.doubleError n, none) := by
  unfold State.readWord
  split
  · exact .inl ⟨_, _, rfl, .refl s⟩
  · exact .inl ⟨_, _, rfl, s.correctWord_sameService n w _⟩
  · exact .inr rfl

/-- Reads that give values correct at most. -/
theorem State.readUntilDouble_some {ws : List Nat} {vs : List Word} (h : s.readUntilDouble n ws = (t, some vs)) :
    s.SameService t := by
  induction ws generalizing s vs with
  | nil => cases h; exact .refl _
  | cons w ws ih =>
    obtain ⟨s1, v, e, hs1⟩ | e := s.readWord_cases n w
    · rw [State.readUntilDouble_cons_some e] at h
      obtain ⟨rfl, h2⟩ := Prod.mk.inj h
      obtain ⟨vs', hvs, -⟩ := Option.map_eq_some_iff.mp h2
      exact hs1.trans (ih (Prod.ext rfl hvs))
    · rw [State.readUntilDouble_cons_none e] at h
      cases h

/-- Reads that give none end at a double error, after corrections at most. -/
theorem State.readUntilDouble_none {ws : List Nat} (h : s.readUntilDouble n ws = (t, none)) :
    ∃ u, s.SameService u ∧ t = u.doubleError n := by
  induction ws generalizing s with
  | nil => cases h
  | cons w ws ih =>
    obtain ⟨s1, v, e, hs1⟩ | e := s.readWord_cases n w
    · rw [State.readUntilDouble_cons_some e] at h
      obtain ⟨rfl, h2⟩ := Prod.mk.inj h
      obtain ⟨u, hu, ht⟩ := ih (Prod.ext rfl (Option.map_eq_none_iff.mp h2))
      exact ⟨u, hs1.trans hu, ht⟩
    · rw [State.readUntilDouble_cons_none e] at h
      cases h
      exact ⟨s, .refl s, rfl⟩

end Sys2Proof.Machine
end

section
/-! SUPPORT. Every change keeps the sets in service and the holds coherent (R26, R29, R33, R44, R51, R52, R90, R96,
R168, R170, R173, R174). -/

namespace Sys2Proof.Machine

variable {s t u : State} {l k : Lane} {n : SetNo}

/-! ## A lane's current set changes (R26, R27, R49, R52) -/

theorem Lane.exists_iff (l : Lane) {p : Lane → Prop} : (∃ k, p k) ↔ p l ∨ p l.other := by
  constructor
  · rintro ⟨k, hk⟩
    obtain rfl | rfl := Lane.eq_or_other k l
    · exact .inl hk
    · exact .inr hk
  · rintro (h | h)
    · exact ⟨l, h⟩
    · exact ⟨l.other, h⟩

/-- One lane's current set becomes `c`: the set that it was is no longer LIVE, and `c` is. -/
theorem State.Coherent.with_current (h : s.Coherent) {c : Option SetNo} (hs : (t.lane l).inService)
    (hc : (t.lane l).selection.current = c) (ho : t.lane l.other = s.lane l.other)
    (hapart : ∀ m, c = some m → (s.lane l.other).selection.current ≠ some m)
    (hl : ∀ m, (t.record m).state = .live ↔
      c = some m ∨ (s.record m).state = .live ∧ (s.lane l).selection.current ≠ some m)
    (hh : t.HoldsAgree) : t.Coherent := by
  refine ⟨fun k => ?_, fun m => ?_, fun k m hk => ?_, hh⟩
  · obtain rfl | rfl := Lane.eq_or_other k l
    · exact hs
    · rw [ho]; exact h.service _
  · have hother : (s.lane l.other).selection.current = some m → (s.lane l).selection.current ≠ some m := fun e =>
      Lane.other_other (l := l) ▸ h.apart l.other m e
    rw [hl, h.live m, Lane.exists_iff l, Lane.exists_iff l, hc, ho, or_and_right]
    refine or_congr_right ⟨?_, fun e => .inr ⟨e, hother e⟩⟩
    rintro (⟨e, hne⟩ | ⟨e, -⟩)
    · exact absurd e hne
    · exact e
  · obtain rfl | rfl := Lane.eq_or_other k l
    · rw [ho]; exact hapart m (hc.symm.trans hk)
    · rw [ho] at hk
      rw [Lane.other_other, hc]
      exact fun e => hapart m e hk

theorem State.recordReleased_state (s : State) (l : Lane) (m : SetNo) :
    (s.recordReleased l m).hold = (s.record m).hold
      ∧ ((s.recordReleased l m).state = .live ↔ (s.record m).state = .live ∧ (s.lane l).selection.current ≠ some m)
      ∧ ((s.record m).state ≠ .live → (s.recordReleased l m).state = (s.record m).state) := by
  unfold State.recordReleased
  split
  · rename_i e
    obtain ⟨hc, hl⟩ := e
    exact ⟨rfl, iff_of_false nofun fun hn => hn.2 hc, fun hn => absurd hl hn⟩
  · rename_i e
    exact ⟨rfl, ⟨fun hl => ⟨hl, fun hc => e ⟨hc, hl⟩⟩, And.left⟩, fun _ => rfl⟩

/-- A lane lets its current set go. -/
theorem State.Coherent.released (h : s.Coherent) (hs : (t.lane l).inService)
    (hc : (t.lane l).selection.current = none) (ho : t.lane l.other = s.lane l.other)
    (hr : ∀ m, t.record m = s.recordReleased l m) (ht : t.transfer = s.transfer) : t.Coherent := by
  have hkept : ∀ m, (s.record m).state ≠ .live → (t.record m).state = (s.record m).state := fun m hm => by
    rw [hr]; exact (s.recordReleased_state l m).2.2 hm
  refine h.with_current hs hc ho nofun (fun m => ?_) (h.holds.of_records ht (fun m => ?_) (fun m _ e => ?_) fun m _ e => ?_)
  · rw [hr, (s.recordReleased_state l m).2.1]
    exact (or_iff_right nofun).symm
  · rw [hr]; exact (s.recordReleased_state l m).1
  · rw [hkept m (by rw [e]; decide), e]
  · rw [hkept m (by rw [e]; decide), e]

theorem State.Coherent.releaseCurrent (h : s.Coherent) : (s.releaseCurrent l).Coherent := by
  have hlane : (s.releaseCurrent l).lane l = (s.lane l).withoutSet := by
    rw [State.releaseCurrent_lane, State.dropCurrent_lane_self]; rfl
  exact h.released (l := l) (by rw [hlane]; exact LaneState.withoutSet_inService (h.service l)) (by rw [hlane]; rfl)
    (by rw [State.releaseCurrent_lane, State.dropCurrent_lane_other]) (fun m => s.releaseCurrent_record l m) (by simp)

theorem LaneState.departed_inService (x : LaneState) (m : LaneMode) : (x.departed m).inService := by
  refine LaneState.inService_of_none rfl rfl rfl rfl rfl fun _ => ⟨rfl, rfl, ?_⟩
  unfold LaneState.departed
  dsimp only
  split
  · exact nofun
  · assumption

theorem State.Coherent.leaveRunning (h : s.Coherent) {d : Nat} {m : LaneMode} : (s.leaveRunning l d m).Coherent :=
  h.released (l := l) (by rw [State.leaveRunning_lane]; exact (s.lane l).departed_inService m)
    (by rw [State.leaveRunning_lane]; rfl) (s.leaveRunning_other l d m) (fun n => s.leaveRunning_record l n d m) (by simp)

/-! ## A set enters service (R26, R49, R89) -/

/-- The state once a READY set has become LIVE and a lane's current set, before its shadow is captured. -/
abbrev State.entered (s : State) (l : Lane) (n : SetNo) (r : Route) : State := (s.retireCurrent l).enterLive l n r

theorem State.retireCurrent_record (s : State) (l : Lane) (m : SetNo) :
    (s.retireCurrent l).record m = s.recordReleased l m := by
  have hdrop : ((s.retireCurrent l).dropCurrent l).record m = (s.retireCurrent l).record m := by simp [State.record]
  rw [← hdrop, ← State.releaseCurrent_eq]
  exact s.releaseCurrent_record l m

theorem State.entered_lane (s : State) (l : Lane) (n : SetNo) (r : Route) :
    (s.entered l n r).lane l =
      { s.lane l with
        selection := { (s.lane l).selection with current := some n, route := r }
        filter := { (s.lane l).filter with held := 0 } } := by
  simp [State.entered, State.enterLive]

theorem State.entered_other (s : State) (l : Lane) (n : SetNo) (r : Route) :
    (s.entered l n r).lane l.other = s.lane l.other := by
  simp [State.entered, State.enterLive]

theorem State.entered_record (s : State) (l : Lane) (n : SetNo) (r : Route) (m : SetNo) :
    (s.entered l n r).record m = if m = n then { s.recordReleased l n with state := .live } else s.recordReleased l m := by
  show ((s.retireCurrent l).setSetState n .live).record m = _
  rw [State.setSetState_record, State.retireCurrent_record, State.retireCurrent_record]

theorem State.entered_transfer (s : State) (l : Lane) (n : SetNo) (r : Route) :
    (s.entered l n r).transfer = s.transfer := by
  have h := s.releaseCurrent_outside l
  rw [State.releaseCurrent_eq] at h
  have : (s.retireCurrent l).transfer = s.transfer := by simpa using h.2.2.2.2.2.2.1
  exact this

/-- A double error in a LIVE set costs the lanes it serves their current set (R51). -/
theorem State.doubleError_live_lane (hl : (s.record n).state = .live) (k : Lane) :
    (s.doubleError n).lane k =
      if (s.lane k).selection.current = some n then (s.lane k).withoutSet else s.lane k := by
  rw [State.doubleError_quarantines (by rw [hl]; decide) (by rw [hl]; decide), State.quarantine_lane_eq,
    State.withCounters_lane]

/-- A READY set enters service: it becomes LIVE, or QUARANTINED when its shadow cannot be captured. -/
theorem State.Coherent.enter (h : s.Coherent) (hm : (s.lane l).control.mode = .running) (hn : (s.record n).state = .ready)
    {r : Route} (hr : r ≠ .none) : ((s.entered l n r).captureShadow l n).Coherent := by
  have hlane := s.entered_lane l n r
  have hother := s.entered_other l n r
  have hrecord := s.entered_record l n r
  have htransfer := s.entered_transfer l n r
  generalize s.entered l n r = v at hlane hother hrecord htransfer ⊢
  have hwait : ¬(v.transfer.state = .waiting ∧ v.transfer.current = some n) := by
    rw [htransfer]; exact h.holds.not_waiting_on (by rw [hn]; decide)
  have hkept : ∀ m, (s.record m).state = .loading ∨ (s.record m).state = .quarantined →
      m ≠ n ∧ (s.recordReleased l m).state = (s.record m).state := fun m e =>
    ⟨fun hmn => by rw [hmn, hn] at e; simp at e, (s.recordReleased_state l m).2.2 fun hl => by rw [hl] at e; simp at e⟩
  have hapart : ∀ c : Option SetNo, c = some n ∨ c = none → ∀ m, c = some m →
      (s.lane l.other).selection.current ≠ some m := by
    rintro c (rfl | rfl) m hc
    · cases hc
      exact h.not_current (by rw [hn]; decide) _
    · cases hc
  have hnot : ∀ m, m = n → ¬((s.record m).state = .live ∧ (s.lane l).selection.current ≠ some m) := by
    rintro m rfl ⟨hl, -⟩
    rw [hn] at hl
    cases hl
  have hholds : ∀ {t : State}, t.transfer = s.transfer →
      (∀ m, (t.record m).hold = (s.recordReleased l m).hold
        ∧ (m ≠ n → (t.record m).state = (s.recordReleased l m).state)) → t.HoldsAgree := by
    intro t ht hr
    refine h.holds.of_records ht (fun m => (hr m).1.trans (s.recordReleased_state l m).1) (fun m _ e => ?_) fun m _ e => ?_
    · obtain ⟨hne, hs⟩ := hkept m (.inl e)
      rw [(hr m).2 hne, hs, e]
    · obtain ⟨hne, hs⟩ := hkept m (.inr e)
      rw [(hr m).2 hne, hs, e]
  unfold State.captureShadow
  split <;> rename_i e
  · rename_i t taps
    have hreads := State.readUntilDouble_some e
    have hlen : taps.length = 40 := State.readUntilDouble_length e
    have hafter : ∀ m, (t.onAdapt l fun x => { x with shadow := some ⟨n, taps⟩, divergence := 0 }).record m
        = if m = n then { s.recordReleased l n with state := .live } else s.recordReleased l m :=
      fun m => (hreads.record m).trans (hrecord m)
    refine h.with_current (c := some n) ?_ ?_ ?_ (hapart _ (.inl rfl)) (fun m => ?_) (hholds ?_ fun m => ?_)
    · rw [State.onAdapt_lane, hreads.lane, hlane]
      exact ⟨fun hne => absurd hm hne, nofun, iff_of_false hr nofun, rfl, fun x hx => by cases hx; exact hlen⟩
    · rw [State.onAdapt_lane, hreads.lane, hlane]
    · rw [State.onAdapt_other, hreads.lane, hother]
    · rw [hafter]
      split
      · rename_i hmn; exact iff_of_true rfl (.inl (hmn ▸ rfl))
      · rename_i hmn
        rw [(s.recordReleased_state l m).2.1]
        exact (or_iff_right fun hc => hmn (Option.some.inj hc).symm).symm
    · exact hreads.transfer.trans htransfer
    · rw [hafter]
      split
      · rename_i hmn; exact ⟨by rw [hmn], fun hne => absurd hmn hne⟩
      · exact ⟨rfl, fun _ => rfl⟩
  · obtain ⟨u, hreads, rfl⟩ := State.readUntilDouble_none e
    have hlive : (u.record n).state = .live := by rw [hreads.record, hrecord, if_pos rfl]
    have hcounted : ¬(u.transfer.state = .waiting ∧ u.transfer.current = some n) := by rwa [hreads.transfer]
    have hcurrent : (u.lane l).selection.current = some n := by rw [hreads.lane, hlane]
    have hdropped := State.doubleError_live_lane hlive
    have hrecords : ∀ m, (u.doubleError n).record m
        = if m = n then { s.recordReleased l n with state := .quarantined } else s.recordReleased l m := fun m => by
      rw [State.doubleError_live_record hlive hcounted, hreads.record, hreads.record, hrecord, hrecord, if_pos rfl]
      split <;> rfl
    refine h.with_current (c := none) (l := l) ?_ ?_ ?_ (hapart _ (.inr rfl)) (fun m => ?_) (hholds ?_ fun m => ?_)
    · rw [hdropped, if_pos hcurrent, hreads.lane, hlane]
      exact LaneState.inService_of_none rfl rfl rfl rfl rfl fun hne => absurd hm hne
    · rw [hdropped, if_pos hcurrent]; rfl
    · rw [hdropped, hreads.lane, hother, if_neg (hapart (some n) (.inl rfl) n rfl)]
    · rw [hrecords]
      split
      · rename_i hmn
        exact iff_of_false nofun fun hc => hc.elim nofun (hnot m hmn)
      · rw [(s.recordReleased_state l m).2.1]
        exact (or_iff_right nofun).symm
    · exact (State.doubleError_words hcounted).2.trans (hreads.transfer.trans htransfer)
    · rw [hrecords]
      split
      · rename_i hmn; exact ⟨by rw [hmn], fun hne => absurd hmn hne⟩
      · exact ⟨rfl, fun _ => rfl⟩

end Sys2Proof.Machine
end

section
/-! SUPPORT. Every change keeps the sets in service and the holds coherent: the lane's blocks, the commands, the
engine's movements and the resets. -/

namespace Sys2Proof.Machine

variable {s t u : State} {l k : Lane} {n : SetNo}

/-! ## What the filter and the Adaptation Unit do with a set: checked reads, then one update -/

/-- From `s` to `t` words of set `n` have been read, and nothing else has been done. -/
def State.Reads (n : SetNo) : State → State → Prop := Relation.ReflTransGen fun u v => ∃ w, v = (u.readWord n w).1

theorem State.Reads.readWord (s : State) (n : SetNo) (w : Nat) : State.Reads n s (s.readWord n w).1 := .single ⟨w, rfl⟩

theorem State.Reads.readUntilDouble (s : State) (n : SetNo) (ws : List Nat) : State.Reads n s (s.readUntilDouble n ws).1 :=
  s.readUntilDouble_induction n (P := State.Reads n s) (fun _ w h => h.tail ⟨w, rfl⟩) .refl ws

theorem State.Reads.readAll (s : State) (n : SetNo) (ws : List Nat) : State.Reads n s (s.readAll n ws).1 :=
  s.readAll_induction n (P := State.Reads n s) (fun _ w h => h.tail ⟨w, rfl⟩) .refl ws

/-- What a checked read keeps, checked reads keep. -/
theorem State.Reads.keeps {P : State → Prop} (keep : ∀ (u : State) (w : Nat), P u → P (u.readWord n w).1)
    (h : State.Reads n s t) (hs : P s) : P t := by
  induction h with
  | refl => exact hs
  | tail _ h ih => obtain ⟨w, rfl⟩ := h; exact keep _ w ih

/-- The filter reads words of the set, and then holds a correction or leaves it at that (R61 to R63). -/
theorem State.computeCorrection_cases (s : State) (l : Lane) (n : SetNo) :
    State.Reads n s (s.computeCorrection l n).1
      ∨ ∃ u y c, State.Reads n s u ∧ s.SameService u ∧ (s.computeCorrection l n).1 = u.freshFrame l y c := by
  have h1 := State.Reads.readUntilDouble s n [0, 1, 2, 3]
  unfold State.computeCorrection
  split <;> rename_i e1 <;> rw [e1] at h1
  · rename_i s1 tr ts _ _
    have h2 := h1.trans (State.Reads.readUntilDouble s1 n (usedTapWords (tapCount 32 tr) (tapCount 8 ts)))
    split <;> rename_i e2 <;> rw [e2] at h2
    · exact .inr ⟨_, _, _, h2, (State.readUntilDouble_some e1).trans (State.readUntilDouble_some e2), rfl⟩
    · exact .inl h2
  · exact .inl h1

/-- The unit reads words of the set, and then updates its taps or leaves it at that (R76 to R83); the limit that it
clamps them to is the one that word 8 held when the reads before it had been made. -/
theorem State.adaptSet_cases (s : State) (l : Lane) (n : SetNo) (tr ts : Nat) (e : Int) :
    State.Reads n s (s.adaptSet l n tr ts e)
      ∨ ∃ u h taps, State.Reads n s u ∧ s.SameService u ∧ taps.length = (usedTapWords tr ts).length
          ∧ (∃ v, State.Reads n s v ∧ s.SameService v ∧ h.wl = (v.cell n 8).value)
          ∧ s.adaptSet l n tr ts e = u.adaptTaps l n tr ts e h taps := by
  have h1 := State.Reads.readWord s n 4
  unfold State.adaptSet
  split <;> rename_i e1 <;> rw [e1] at h1
  · exact .inl h1
  · rename_i s1 mu
    have hs1 : s.SameService s1 := State.readUntilDouble_some (n := n) (ws := [4]) (vs := [mu])
      (by rw [State.readUntilDouble_cons_some e1]; rfl)
    split
    · exact .inl h1
    · have h2 := h1.trans (State.Reads.readUntilDouble s1 n [5, 6, 7, 8, 9])
      split <;> rename_i e2 <;> rw [e2] at h2
      · rename_i s2 lk sd sg wl dl
        have h3 := h2.trans (State.Reads.readUntilDouble s2 n (usedTapWords tr ts))
        split <;> rename_i e3 <;> rw [e3] at h3
        · have hwl : ∃ v, State.Reads n s v ∧ s.SameService v ∧ wl = (v.cell n 8).value := by
            obtain ⟨v, hv, h8⟩ := State.readUntilDouble_append_some (a := [5, 6, 7]) (b := [8, 9])
              (va := [lk, sd, sg]) (vb := [wl, dl]) rfl e2
            have hreads := State.Reads.readUntilDouble s1 n [5, 6, 7]
            rw [hv] at hreads
            refine ⟨v, h1.trans hreads, hs1.trans (State.readUntilDouble_some hv), ?_⟩
            rcases hw : v.readWord n 8 with ⟨v1, _ | x⟩
            · rw [State.readUntilDouble_cons_none hw] at h8; cases h8
            · rw [State.readUntilDouble_cons_some hw] at h8
              obtain ⟨vs', -, hc⟩ := Option.map_eq_some_iff.mp (Prod.mk.inj h8).2
              rw [← (List.cons.inj hc).1]
              exact State.readWord_value hw
          exact .inr ⟨_, _, _, h3, (hs1.trans (State.readUntilDouble_some e2)).trans (State.readUntilDouble_some e3),
            State.readUntilDouble_length e3, hwl, rfl⟩
        · exact .inl h3
      · exact .inl h2

theorem State.Coherent.reads (h : s.Coherent) (hr : State.Reads n s t) : t.Coherent :=
  hr.keeps (P := State.Coherent) (fun _ w hu => hu.readWord n w) h

theorem State.Coherent.computeCorrection (h : s.Coherent) (hc : (s.lane l).selection.current = some n) :
    (s.computeCorrection l n).1.Coherent := by
  obtain hr | ⟨u, y, c, hr, hu, e⟩ := s.computeCorrection_cases l n
  · exact h.reads hr
  · rw [e]
    exact ((h.reads hr).onFilter_held (by rw [hu.lane, hc]; exact nofun)).works .onCounters

theorem State.Coherent.raiseDivergence (h : s.Coherent) (hc : (s.lane l).selection.current ≠ none) :
    (s.raiseDivergence l n).Coherent := by
  unfold State.raiseDivergence
  split
  · refine ((State.Coherent.onAdapt_divergence ?_ ?_).works .notify)
    · exact h.writeWords.onRecord rfl rfl
    · simpa using hc
  · exact h.onAdapt_divergence hc

theorem State.Coherent.adaptSet (h : s.Coherent) (hc : (s.lane l).selection.current = some n) {tr ts : Nat} {e : Int} :
    (s.adaptSet l n tr ts e).Coherent := by
  obtain hr | ⟨u, hd, taps, hr, hu, -, -, he⟩ := s.adaptSet_cases l n tr ts e
  · exact h.reads hr
  · rw [he]
    have hne : (u.lane l).selection.current ≠ none := by rw [hu.lane, hc]; exact nofun
    have hdivergence : ∀ {v : State} {x : Int} {dl : Word}, v.Coherent → (v.lane l).selection.current ≠ none →
        (v.countDivergence l n x dl).Coherent := by
      intro v x dl hv hcv
      unfold State.countDivergence
      split
      · exact hv.raiseDivergence hcv
      · exact hv.onAdapt_divergence hcv
    refine (hdivergence ?_ ?_).works (State.works_countWindow _ l)
    · exact (h.reads hr).writeWords.writeWords.works .onCounters
    · simpa [State.writeTaps] using hne

/-! ## The commands that act on a set (R23, R24, R28, R32, R42, R43) -/

/-- A set's record changes: it is LIVE exactly when it was, its hold stands, and held it keeps its state. -/
theorem State.Coherent.onRecord_state (h : s.Coherent) {f : SetRecord → SetRecord}
    (hl : (f (s.record n)).state = .live ↔ (s.record n).state = .live)
    (hh : (f (s.record n)).hold = (s.record n).hold)
    (hs : (s.record n).hold ≠ .none → (f (s.record n)).state = (s.record n).state) : (s.onRecord n f).Coherent := by
  have hlane : ∀ k, (s.onRecord n f).lane k = s.lane k := fun k => State.onRecord_lane _ _ _ _
  have hkept : ∀ (m : SetNo) (st : SetState), (s.record m).hold ≠ .none → (s.record m).state = st →
      ((s.onRecord n f).record m).state = st := fun m st hm hst => by
    rw [State.onRecord_record]
    split
    · rename_i e
      subst e
      rw [hs hm, hst]
    · exact hst
  refine h.of_kept (fun k => by rw [hlane]; exact h.service k) (fun k => by rw [hlane]) (fun m => ?_)
    (h.holds.of_records rfl (fun m => ?_) (fun m => hkept m .loading) fun m => hkept m .quarantined)
  · rw [State.onRecord_record]
    split
    · rename_i e; rw [e]; exact hl
    · exact Iff.rfl
  · rw [State.onRecord_record]
    split
    · rename_i e; rw [e]; exact hh
    · rfl

theorem State.Coherent.writeBankWord (h : s.Coherent) {w : Nat} {v : Word} : (s.writeBankWord n w v).1.Coherent := by
  unfold State.writeBankWord
  split_ifs with hh hl
  · exact h
  · exact h
  · refine State.Coherent.onRecord_state (s := s.writeWord n w v) (f := fun r => { r with state := r.state.afterDataWord })
      h.putCell ?_ rfl fun hne => absurd (not_not.mp hh) hne
    have hafter : ∀ st : SetState, st.afterDataWord = .live ↔ st = .live := fun st => by cases st <;> decide
    exact hafter _

theorem State.Coherent.zeroSet (h : s.Coherent) (hn : (s.record n).state ≠ .live) (hh : (s.record n).hold = .none) :
    (s.zeroSet n).Coherent := by
  refine State.Coherent.onRecord_state h.writeWords ?_ rfl fun hne => absurd ?_ hne
  · rw [State.writeWords_record]; exact iff_of_false nofun hn
  · rw [State.writeWords_record]; exact hh

/-- A name changes: the states and holds of the sets stand. -/
theorem State.Coherent.rename (h : s.Coherent) {old new : Option SetNo} {f : Selection → Selection}
    (hc : (f (s.lane l).selection).current = (s.lane l).selection.current)
    (hr : (f (s.lane l).selection).route = (s.lane l).selection.route) :
    ((s.rename l old new).onSelection l f).Coherent := by
  have hlane : ∀ k, (s.rename l old new).lane k = s.lane k := fun k => by
    obtain ⟨records, e⟩ := State.rename_eq (s := s) (l := l) old new
    rw [e]; exact State.withBank_lane _ _ _
  have htransfer : (s.rename l old new).transfer = s.transfer := by
    obtain ⟨records, e⟩ := State.rename_eq (s := s) (l := l) old new
    rw [e]
  have hrecord : ∀ m, ((s.rename l old new).record m).state = (s.record m).state
      ∧ ((s.rename l old new).record m).hold = (s.record m).hold := fun m => by
    rw [State.rename_record]
    unfold SetRecord.renamed
    split_ifs <;> exact ⟨rfl, rfl⟩
  refine h.same ⟨fun k => ?_, fun m => (hrecord m).1, fun m => (hrecord m).2, htransfer⟩
  rw [State.onSelection, State.setLane_lane_eq, hlane]
  split
  · rename_i e
    rw [e]
    exact ⟨hc, hr, rfl, rfl, rfl, fun hm => ⟨hm, id⟩⟩
  · rw [hlane]; exact .refl _

theorem State.Coherent.writeMap (h : s.Coherent) {a : Nat} {v : Word} : (s.writeMap l a v).1.Coherent := by
  unfold State.writeMap
  split
  · exact h
  · split
    · exact h
    · rename_i m _ _
      exact h.rename (f := fun x => { x with map := Memory.write none x.map a m }) rfl rfl

theorem State.Coherent.writeFallback (h : s.Coherent) {v : Word} : (s.writeFallback l v).1.Coherent := by
  unfold State.writeFallback
  split
  · exact h
  · split
    · exact h
    · rename_i m _ _
      exact h.rename (f := fun x => { x with fallback := m }) rfl rfl

/-- Reads that all gave values have corrected at most. -/
theorem State.readAll_sameService {ws : List Nat} (h : (s.readAll n ws).2.any (·.isNone) = false) :
    s.SameService (s.readAll n ws).1 := by
  induction ws generalizing s with
  | nil => exact .refl _
  | cons w ws ih =>
    simp only [State.readAll, List.any_cons, Bool.or_eq_false_iff] at h ⊢
    obtain ⟨t, v, e, ht⟩ | e := s.readWord_cases n w
    · rw [e] at h ⊢
      exact ht.trans (ih h.2)
    · rw [e] at h
      cases h.1

theorem State.Coherent.clampSet (h : s.Coherent) : (s.clampSet n).Coherent := by
  unfold State.clampSet
  exact h.writeWords

theorem State.sourceReady_record (s : State) (n m : SetNo) : (s.sourceReady n).record m = s.record m := by
  unfold State.sourceReady
  split <;> rfl

theorem State.sourceReady_onRecord (s : State) (n : SetNo) (f : SetRecord → SetRecord) :
    (s.onRecord n f).sourceReady n = (s.sourceReady n).onRecord n f := by
  unfold State.sourceReady
  by_cases h : s.transfer.state = .waiting ∧ s.transfer.current = some n
  · rw [if_pos h, if_pos (by exact h)]; rfl
  · rw [if_neg h, if_neg (by exact h)]

/-- A transfer that waited on a set becomes ACTIVE (R168). -/
theorem State.Coherent.sourceReady (h : s.Coherent) : (s.sourceReady n).Coherent := by
  unfold State.sourceReady
  split
  · rename_i hw
    refine h.of_kept (fun k => ?_) (fun k => ?_) (fun _ => Iff.rfl) (h.holds.activate (Transfer.busy_of_waiting hw.1))
    · rw [State.withTransfer_lane]; exact h.service k
    · rw [State.withTransfer_lane]
  · exact h

theorem State.sourceReady_not_waiting (s : State) (n : SetNo) :
    ¬((s.sourceReady n).transfer.state = .waiting ∧ (s.sourceReady n).transfer.current = some n) := by
  unfold State.sourceReady
  split
  · exact nofun
  · assumption

/-- A LOADING set that no transfer waits on and that is no COPY's destination becomes READY. -/
theorem State.Coherent.readied (h : s.Coherent) (hn : (s.record n).state = .loading)
    (hh : (s.record n).hold ≠ .destination) (hw : ¬(s.transfer.state = .waiting ∧ s.transfer.current = some n)) :
    (s.onRecord n fun r => { r with state := .ready, frozen := false }).Coherent := by
  refine h.of_kept (fun k => by rw [State.onRecord_lane]; exact h.service k) (fun k => by rw [State.onRecord_lane])
    (fun m => ?_) (h.holds.of_holds rfl (fun m => ?_) (fun m hwait hc hl => ?_) fun m hd hs => ?_)
  · rw [State.onRecord_record]
    split
    · rename_i e; rw [e, hn]; exact iff_of_false nofun nofun
    · exact Iff.rfl
  · rw [State.onRecord_record]
    split
    · rename_i e; rw [e]
    · rfl
  · rw [State.onRecord_record, if_neg fun e => hw ⟨hwait, by rw [← e]; exact hc⟩]
    exact hl
  · rw [State.onRecord_record, if_neg fun e => hh (by rw [← e]; exact hd)]
    exact hs

/-- A LOADING set becomes READY, and a transfer that waited on it becomes ACTIVE (R24, R168). -/
theorem State.Coherent.committed (h : s.Coherent) (hn : (s.record n).state = .loading)
    (hh : (s.record n).hold ≠ .destination) : (s.committed n).Coherent := by
  have hrecord : ((s.clampSet n).sourceReady n).record n = s.record n := by
    rw [State.sourceReady_record, State.clampSet_record]
  rw [State.committed, State.sourceReady_onRecord]
  exact h.clampSet.sourceReady.readied (by rw [hrecord, hn]) (by rwa [hrecord]) (State.sourceReady_not_waiting _ n)

theorem State.Coherent.commitLoading (h : s.Coherent) (hn : (s.record n).state = .loading)
    (hh : (s.record n).hold ≠ .destination) : (s.commitLoading n).1.Coherent := by
  obtain e | ⟨hgood, e⟩ := s.commitLoading_cases n <;> rw [e]
  · exact h.readAll n _
  · have hsame := State.readAll_sameService hgood
    exact (h.readAll n _).committed (by rw [hsame.record, hn]) (by rwa [hsame.record])

end Sys2Proof.Machine
end

section
/-! SUPPORT. Every change keeps the sets in service and the holds coherent: the Transfer Engine and the resets. -/

namespace Sys2Proof.Machine

variable {s t u : State} {l k : Lane} {n : SetNo}

/-! ## The start, the abort and the wait (R166 to R168, R175) -/

/-- What changes no lane and no set's state keeps the sets in service. -/
theorem State.Coherent.of_holds (h : s.Coherent) (hl : ∀ k, t.lane k = s.lane k)
    (hs : ∀ m, (t.record m).state = .live ↔ (s.record m).state = .live) (hh : t.HoldsAgree) : t.Coherent :=
  h.of_kept (fun k => by rw [hl]; exact h.service k) (fun k => by rw [hl]) hs hh

/-- A COPY or DUMP that has just begun waits for its LOADING source, or ends (R167, step 3). -/
theorem State.Coherent.applyBusy (h : s.Coherent) (hb : s.transfer.busy = true) (hm : s.transfer.mode ≠ .sweep)
    (hw : s.transfer.waitCount = 0) (hc : s.transfer.current = some n) : (s.applyBusy n).Coherent := by
  unfold State.applyBusy
  split_ifs with hload
  · exact h.of_holds (State.withTransfer_lane s · _) (fun _ => Iff.rfl) (h.holds.wait hb hm hw hc hload)
  · exact h.endTransfer (.inl nofun)
  · exact h

/-- The holds of a transfer that has just begun (R167, step 2). -/
theorem State.holdInUse_begun {a : TransferArgs} {x : TransferMode} {count : Nat} {d : Option SetNo}
    (ht : t.transfer = Transfer.begin a x n count d) (m : SetNo) :
    t.holdInUse m =
      if x = .copy ∧ d = some m then .destination else if m = n ∧ x ≠ .sweep then .source else .none := by
  rw [State.holdInUse_busy (by rw [ht]; rfl), ht]
  cases x <;> simp [Transfer.begin, eq_comm]

/-- A DUMP's source takes its hold (R167). -/
theorem State.Coherent.startDump (h : s.Coherent) (hidle : ∀ m, (s.record m).hold = .none) {a : TransferArgs} {count : Nat} :
    (s.startDump a n count).1.Coherent := by
  have hbegun : (State.holdSource { s with transfer := Transfer.begin a .dump n count none } n).Coherent := by
    have hrecord : ∀ m, ((State.holdSource { s with transfer := Transfer.begin a .dump n count none } n).record m)
        = if m = n then { s.record n with hold := .source } else s.record m := fun m =>
      State.onRecord_record _ n m _
    refine h.of_holds (fun k => by rw [State.holdSource, State.onRecord_lane, State.withTransfer_lane]) (fun m => ?_)
      ⟨fun m => ?_, nofun, nofun, nofun⟩
    · rw [hrecord]
      split
      · rename_i e; rw [e]
      · exact Iff.rfl
    · rw [hrecord, State.holdInUse_begun (by rfl)]
      by_cases e : m = n
      · simp [e]
      · simp [e, hidle]
  unfold State.startDump
  split
  · exact h
  · exact hbegun.applyBusy (Transfer.busy_of_active rfl) nofun rfl rfl

/-- A COPY's sets take their holds, and its destination is LOADING (R29, R167). -/
theorem State.Coherent.startCopy (h : s.Coherent) (hidle : ∀ m, (s.record m).hold = .none) {a : TransferArgs} {d : SetNo} :
    (s.startCopy a n d).1.Coherent := by
  unfold State.startCopy
  simp only
  split
  · exact h
  · rename_i hchecks
    obtain ⟨-, -, hne, -, hlive⟩ := by simpa only [not_or] using hchecks
    have hrecord : ∀ m, ((State.holdSource { s with transfer := Transfer.begin a .copy n Config.setWords (some d) }
        n).holdDestination d).record m
          = if m = d then { s.record d with hold := .destination, state := .loading }
            else if m = n then { s.record n with hold := .source } else s.record m := fun m => by
      rw [State.holdDestination, State.onRecord_record, State.holdSource, State.onRecord_record, State.onRecord_record,
        if_neg hne]
      rfl
    refine State.Coherent.applyBusy ?_ (Transfer.busy_of_active rfl) nofun rfl rfl
    refine h.of_holds (fun k => by
        rw [State.holdDestination, State.onRecord_lane, State.holdSource, State.onRecord_lane, State.withTransfer_lane])
      (fun m => ?_) ⟨fun m => ?_, nofun, nofun, fun _ _ => ⟨rfl, Nat.le_add_left 1 49, d, rfl, .inl ?_⟩⟩
    · rw [hrecord]
      split
      · rename_i e; rw [e]; exact iff_of_false nofun hlive
      · split
        · rename_i e; rw [e]
        · exact Iff.rfl
    · rw [hrecord, State.holdInUse_begun (by rfl)]
      by_cases ed : m = d
      · simp [ed]
      · have ed' : d ≠ m := fun e => ed e.symm
        by_cases en : m = n
        · subst en
          simp [ed, ed']
        · simp [ed, ed', en, hidle]
    · rw [hrecord, if_pos rfl]

/-- A SWEEP begins at an examination and holds nothing (R167). -/
theorem State.Coherent.startSweep (h : s.Coherent) (hidle : ∀ m, (s.record m).hold = .none) {a : TransferArgs}
    {count : Nat} : (s.startSweep a n count).1.Coherent := by
  refine h.of_holds (State.withTransfer_lane s · _) (fun _ => Iff.rfl) ⟨fun m => ?_, fun _ _ => rfl, nofun, nofun⟩
  rw [State.holdInUse_begun (by rfl)]
  exact (hidle m).trans (by simp)

theorem State.Coherent.transferStart (h : s.Coherent) {a b : Word} : (s.transferStart a b).1.Coherent := by
  unfold State.transferStart
  dsimp only
  split
  · exact h
  · rename_i plan _
    split
    · exact h
    · rename_i hbusy
      have hidle : ∀ m, (s.record m).hold = .none := fun m => by
        rw [h.holds.hold, State.holdInUse_idle (Bool.not_eq_true _ ▸ hbusy)]
      cases plan with
      | copy n d => exact h.startCopy hidle
      | dump n count => exact h.startDump hidle
      | sweep n count => exact h.startSweep hidle

/-- A transfer ends, and not COMPLETE. -/
theorem State.Coherent.endTransfer_failed (h : s.Coherent) (hl : ∀ k, t.lane k = s.lane k)
    (hs : ∀ m, (t.record m).state = (s.record m).state) {o : TransferOutcome} (ho : o ≠ .complete) :
    (t.endTransfer o).Coherent :=
  h.endTransfer_of hl hs fun _ hc => absurd hc ho

theorem State.Coherent.countWait (h : s.Coherent) : s.countWait.Coherent := by
  obtain e | ⟨hw, hlt, e⟩ | ⟨-, e⟩ := s.countWait_cases <;> rw [e]
  · exact h
  · obtain ⟨-, hsweep, hsource⟩ := h.holds.waiting hw
    exact h.of_holds (State.withTransfer_lane s · _) (fun _ => Iff.rfl)
      ⟨h.holds.hold, h.holds.examine, fun _ => ⟨hlt, hsweep, hsource⟩, h.holds.copy⟩
  · exact h.endTransfer_failed (t := s.waited) (fun k => State.withTransfer_lane s k _) (fun _ => rfl) (by decide)

/-! ## The movements (R169 to R173) -/

/-- A read does not see the transfer record unless the transfer waits. -/
theorem State.readWord_withTransfer (hs : s.transfer.state ≠ .waiting) {x : Transfer} (hx : x.state ≠ .waiting) (w : Nat) :
    State.readWord { s with transfer := x } n w = ({ (s.readWord n w).1 with transfer := x }, (s.readWord n w).2) := by
  have hquarantine : ∀ v : State, v.transfer.state ≠ .waiting →
      State.quarantine { v with transfer := x } n = { v.quarantine n with transfer := x } := by
    intro v hv
    have hdrop : ∀ (v : State) (l : Lane), State.dropCurrentIf { v with transfer := x } n l
        = { v.dropCurrentIf n l with transfer := x } := by
      intro v l
      unfold State.dropCurrentIf
      rw [State.withTransfer_lane]
      split
      · cases l <;> rfl
      · rfl
    rw [State.quarantine_eq (fun hc => hx hc.1), State.quarantine_eq (fun hc => hv hc.1), ← hdrop, ← hdrop]
    rfl
  have hdouble : State.doubleError { s with transfer := x } n = { s.doubleError n with transfer := x } := by
    unfold State.doubleError
    rw [show State.record { s with transfer := x } n = s.record n from rfl]
    split
    · rfl
    · rfl
    · exact hquarantine { s with counters := { s.counters with storageError := raised s.counters.storageError 1 } } hs
  unfold State.readWord
  rw [show State.cell { s with transfer := x } n w = s.cell n w from rfl]
  split
  · rfl
  · rfl
  · rw [hdouble]

/-- What a word movement makes of the transfer record before the word advances: a word fewer remains. -/
structure Transfer.Issued (x y : Transfer) : Prop where
  state : y.state = x.state
  mode : y.mode = x.mode
  current : y.current = x.current
  destination : y.destination = x.destination
  phase : y.phase = x.phase
  word : y.word = x.word
  remaining : y.remaining = x.remaining - 1
  waitCount : y.waitCount = x.waitCount

theorem State.deliver_record (s : State) (v : Word) (m : SetNo) : (s.deliver v).record m = s.record m := by
  unfold State.deliver
  split
  · split <;> rfl
  · rfl
  · rfl

theorem State.deliver_transfer (s : State) (v : Word) : (s.deliver v).transfer = s.transfer := by
  unfold State.deliver
  split
  · split <;> rfl
  · rfl
  · rfl

/-- The current word advances past the word issued. -/
theorem State.Coherent.advanceWord (h : s.Coherent) (hl : ∀ k, t.lane k = s.lane k) (hr : ∀ m, t.record m = s.record m)
    (hx : s.transfer.Issued t.transfer) (ha : s.transfer.state = .active)
    (hp : s.transfer.mode = .copy ∨ s.transfer.phase = .words) : t.advanceWord.Coherent := by
  have hphase : s.transfer.phase ≠ .examine := fun e => hp.elim
    (fun hm => by have := h.holds.examine (Transfer.busy_of_active ha) e; rw [hm] at this; cases this)
    fun hw => by rw [e] at hw; cases hw
  have hnot : t.transfer.state ≠ .waiting := by rw [hx.state, ha]; decide
  have hlane : ∀ (y : Transfer) (k : Lane), State.lane { t with transfer := y } k = s.lane k := fun y k => by
    rw [State.withTransfer_lane, hl]
  have hstep : ∀ p : TransferPhase, (p = .examine ↔ s.transfer.phase = .examine) →
      (s.transfer.mode = .copy → t.transfer.word + 1 < 50) →
      State.Coherent { t with transfer := { t.transfer with word := t.transfer.word + 1, phase := p } } := by
    intro p hpp hc
    refine h.of_holds (hlane _) (fun m => iff_of_eq (congrArg (SetRecord.state · = .live) (hr m)))
      (h.holds.of_transfer hr hx.state hx.mode hx.destination hx.current (fun hw => absurd hw hnot) hpp fun _ hm => ?_)
    have hcopy : s.transfer.mode = .copy := hx.mode ▸ hm
    obtain ⟨hsum, hpos, -⟩ := h.holds.copy (Transfer.busy_of_active ha) hcopy
    have hword := hx.word
    have hrem := hx.remaining
    have hlt := hc hcopy
    show t.transfer.word + 1 + t.transfer.remaining = 50 ∧ 1 ≤ t.transfer.remaining
    omega
  have htphase : t.transfer.phase = .examine ↔ s.transfer.phase = .examine := by rw [hx.phase]
  unfold State.advanceWord
  dsimp only
  split <;> rename_i hm <;> rw [hx.mode] at hm
  · split
    · refine h.endTransfer_of (hlane _) (fun m => by rw [← hr m]; rfl) fun _ _ d hd => ?_
      obtain ⟨-, -, d', hd', hset⟩ := h.holds.copy (Transfer.busy_of_active ha) hm
      obtain rfl : d' = d := Option.some.inj (hd'.symm.trans (hx.destination.symm.trans hd))
      rcases hset with e | e <;> rw [e] <;> decide
    · rename_i hlt
      exact hstep t.transfer.phase htphase fun _ => Nat.not_le.mp hlt
  · have hcopy : s.transfer.mode = .copy → t.transfer.word + 1 < 50 := fun e => by rw [hm] at e; cases e
    split
    · exact hstep .trailer (iff_of_false nofun hphase) hcopy
    · exact hstep t.transfer.phase htphase hcopy
  · have hcopy : s.transfer.mode = .copy → t.transfer.word + 1 < 50 := fun e => by rw [hm] at e; cases e
    split
    · exact hstep .trailer (iff_of_false nofun hphase) hcopy
    · exact hstep t.transfer.phase htphase hcopy

theorem State.Coherent.moveWord (h : s.Coherent) (ha : s.transfer.state = .active)
    (hp : s.transfer.mode = .copy ∨ s.transfer.phase = .words) : (s.moveWord n).Coherent := by
  have hnot : s.transfer.state ≠ .waiting := by rw [ha]; decide
  have hread := State.readWord_withTransfer (n := n) hnot
    (x := { s.transfer with remaining := s.transfer.remaining - 1 }) hnot s.transfer.word
  have hr := h.readWord n s.transfer.word
  have hkept := State.readWord_transfer n hnot s.transfer.word
  have hdelivered : ∀ (y : Transfer) (v : Word), s.transfer.Issued y →
      ((State.deliver { (s.readWord n s.transfer.word).1 with transfer := y } v).advanceWord).Coherent := by
    intro y v hy
    refine hr.advanceWord (fun k => ?_) (fun m => ?_) ?_ (by rw [hkept, ha]) (by rw [hkept]; exact hp)
    · rw [State.deliver_lane, State.withTransfer_lane]
    · rw [State.deliver_record]; rfl
    · rw [State.deliver_transfer, hkept]; exact hy
  unfold State.moveWord
  dsimp only
  rw [hread]
  split <;> rename_i e
  · obtain ⟨e, -⟩ := Prod.mk.inj e
    rw [← e]
    exact hdelivered _ _ ⟨rfl, rfl, rfl, rfl, rfl, rfl, rfl, rfl⟩
  · obtain ⟨e, -⟩ := Prod.mk.inj e
    rw [← e]
    split
    · exact hdelivered _ _ ⟨rfl, rfl, rfl, rfl, rfl, rfl, rfl, rfl⟩
    · exact hr.endTransfer_failed (o := .dataError) (fun k => by rw [State.withTransfer_lane]) (fun _ => by rfl) (by decide)

/-- A SWEEP goes on to its next set: nothing is held (R173). -/
theorem State.Coherent.sweepNext (h : s.Coherent) (hl : ∀ k, t.lane k = s.lane k)
    (hs : ∀ m, (t.record m).state = (s.record m).state) (hh : ∀ m, (t.record m).hold = .none)
    (ha : t.transfer.state = .active) (hm : t.transfer.mode = .sweep) : (t.sweepNext n).Coherent := by
  refine h.of_holds (fun k => (State.withTransfer_lane t k _).trans (hl k)) (fun m => ?_)
    ⟨fun m => (hh m).trans (Eq.symm ?_), fun _ _ => hm, fun hw => ?_, fun _ hc => ?_⟩
  · rw [← hs m]; exact Iff.rfl
  · rw [State.holdInUse_busy (s := t.sweepNext n) (Transfer.busy_of_active ha), if_neg, if_neg]
    · exact fun hc => hc.2 hm rfl
    · exact fun hc => nomatch hm.symm.trans hc.1
  · exact nomatch ha.symm.trans hw
  · exact nomatch hm.symm.trans hc

theorem State.Coherent.appendTrailer (h : s.Coherent) (hb : s.inBlock .trailer) (hc : s.transfer.current = some n) :
    (s.appendTrailer n).Coherent := by
  obtain ⟨ha, hcopy, -⟩ := hb
  have hlane : ∀ k, (s.enqueue .transfer [transferTrailer n s.transfer.setBadWords]).lane k = s.lane k := fun k =>
    State.lane_congr k rfl rfl
  unfold State.appendTrailer
  dsimp only
  split <;> rename_i hm
  · have hrecord : ∀ m, ((s.enqueue .transfer [transferTrailer n s.transfer.setBadWords]).onRecord n
        fun r => { r with hold := .none }).record m = if m = n then { s.record n with hold := .none } else s.record m :=
      fun m => State.onRecord_record _ n m _
    have hstate : ∀ m, (((s.enqueue .transfer [transferTrailer n s.transfer.setBadWords]).onRecord n
        fun r => { r with hold := .none }).record m).state = (s.record m).state := fun m => by
      rw [hrecord]
      split
      · rename_i e; rw [e]
      · rfl
    have hheld : ∀ k, ((s.enqueue .transfer [transferTrailer n s.transfer.setBadWords]).onRecord n
        fun r => { r with hold := .none }).lane k = s.lane k := fun k => by rw [State.onRecord_lane, hlane]
    split
    · exact h.endTransfer_of hheld hstate fun hmc => absurd hmc hcopy
    · refine h.sweepNext hheld hstate (fun m => ?_) ha hm
      rw [hrecord]
      split
      · rfl
      · rename_i e
        rw [h.holds.hold, State.holdInUse_busy (Transfer.busy_of_active ha), if_neg fun hd => hcopy hd.1,
          if_neg fun hs => e (Option.some.inj (hs.1.symm.trans hc))]
  · exact h.endTransfer_of hlane (fun _ => rfl) fun hmc => absurd hmc hcopy
  · exact absurd hm hcopy

theorem State.Coherent.appendHeader (h : s.Coherent) (hb : s.inBlock .header) : (s.appendHeader n).Coherent := by
  obtain ⟨ha, hcopy, hp⟩ := hb
  refine h.of_holds (fun k => State.lane_congr k rfl rfl) (fun _ => Iff.rfl) (h.holds.of_transfer (fun _ => rfl) rfl rfl rfl
    rfl (fun hw => nomatch ha.symm.trans hw) (iff_of_false nofun (by rw [hp]; decide)) fun _ hm => absurd hm hcopy)

theorem State.Coherent.examineSet (h : s.Coherent) (hb : s.inBlock .examine) :
    (s.examineSet s.transfer.current).Coherent := by
  obtain ⟨ha, hcopy, hp⟩ := hb
  have hbusy := Transfer.busy_of_active ha
  have hm := h.holds.examine hbusy hp
  have hnone : ∀ m, (s.record m).hold = .none := fun m => by
    rw [h.holds.hold, State.holdInUse_busy hbusy, if_neg fun hd => hcopy hd.1, if_neg fun hs => hs.2 hm hp]
  unfold State.examineSet
  split
  · exact h.endTransfer (.inl nofun)
  · rename_i n hc
    split
    · exact h.sweepNext (fun _ => rfl) (fun _ => rfl) hnone ha hm
    · exact h.sweepNext (fun _ => rfl) (fun _ => rfl) hnone ha hm
    · have hrecord : ∀ m, (s.holdSource n).record m = if m = n then { s.record n with hold := .source } else s.record m :=
        fun m => State.onRecord_record s n m _
      refine h.of_holds (fun k => ?_) (fun m => ?_) ⟨fun m => ?_, fun _ _ => hm, fun hw => (nomatch ha.symm.trans hw),
        fun _ hmc => absurd hmc hcopy⟩
      · rw [State.withTransfer_lane, State.holdSource, State.onRecord_lane]
      · show ((s.holdSource n).record m).state = .live ↔ _
        rw [hrecord]
        split
        · rename_i e; rw [e]
        · exact Iff.rfl
      · have hheld : ((s.holdSource n).record m).hold = if m = n then .source else .none := by
          rw [hrecord]
          split
          · rfl
          · exact hnone m
        refine hheld.trans (Eq.trans ?_ (State.holdInUse_busy (Transfer.busy_of_active (by exact ha)) m).symm)
        refine Eq.symm ((if_neg fun hd => hcopy hd.1).trans (if_congr ?_ rfl rfl))
        exact ⟨fun hs => (Option.some.inj (hc.symm.trans hs.1)).symm, fun e => ⟨hc.trans (congrArg some e.symm), nofun⟩⟩

theorem State.Coherent.engineMove (h : s.Coherent) : s.engineMove.Coherent := by
  unfold State.engineMove
  split
  · rename_i m e
    have hn := State.needs_of_due e
    cases m with
    | word n =>
      obtain ⟨-, ⟨ha, hm⟩ | ⟨⟨ha, -, hp⟩, -⟩⟩ := hn
      · exact h.moveWord ha (.inl hm)
      · exact h.moveWord ha (.inr hp)
    | header n =>
      obtain ⟨-, hb, -⟩ := hn
      exact h.appendHeader hb
    | trailer n =>
      obtain ⟨hc, hb, -⟩ := hn
      exact h.appendTrailer hb hc
    | examine cur =>
      obtain ⟨ha, hm, hp⟩ := id hn
      have := (State.due_block ha hm).1 hp
      obtain rfl : s.transfer.current = cur := Movement.examine.inj (Option.some.inj (this.symm.trans e))
      exact h.examineSet hn
  · exact h

/-! ## The resets (R40, R141, R163) -/

/-- No lane in service, no set LIVE, no transfer under way. -/
theorem State.coherent_of_rest (hs : ∀ k, (t.lane k).inService) (hc : ∀ k, (t.lane k).selection.current = none)
    (hr : ∀ m, (t.record m).state ≠ .live ∧ (t.record m).hold = .none) (hb : t.transfer.busy = false) : t.Coherent :=
  ⟨hs, fun m => iff_of_false (hr m).1 fun ⟨k, hk⟩ => (nomatch (hc k).symm.trans hk),
    fun k _ hk => (nomatch (hc k).symm.trans hk), .idle hb fun m => (hr m).2⟩

theorem LaneState.partReset_inService (x : LaneState) (retain : Bool) (band : Fin 4) : (x.partReset retain band).inService := by
  have hadapt : (x.adapt.partReset retain).shadow = none ∧ (x.adapt.partReset retain).divergence = 0
      ∧ (x.adapt.partReset retain).window = 0 := by
    cases retain <;> exact ⟨rfl, rfl, rfl⟩
  obtain ⟨hshadow, hdivergence, hwindow⟩ := hadapt
  exact LaneState.inService_of_none rfl rfl rfl hshadow hdivergence fun _ => ⟨rfl, hwindow, nofun⟩

theorem State.partReset_coherent (s : State) : s.partReset.Coherent := by
  refine State.coherent_of_rest (fun k => ?_) (fun k => ?_) (fun m => ?_) rfl
  · rw [State.partReset_lane]; exact LaneState.partReset_inService _ _ _
  · rw [State.partReset_lane]; rfl
  · rw [State.partReset_record]
    refine ⟨?_, rfl⟩
    unfold SetRecord.partReset
    dsimp only
    split
    · decide
    · assumption

/-- The state of a power-on reset, and any with its bank, lanes and transfer record. -/
theorem State.coherent_of_reset (hb : t.bank = Bank.reset) (hl : ∀ k, t.lane k = LaneState.reset)
    (ht : t.transfer = Transfer.reset) : t.Coherent := by
  refine State.coherent_of_rest (fun k => ?_) (fun k => ?_) (fun m => ?_) (by rw [ht]; rfl)
  · rw [hl]
    exact LaneState.inService_of_none rfl rfl rfl rfl rfl fun _ => ⟨rfl, rfl, nofun⟩
  · rw [hl]; rfl
  · have : t.record m = SetRecord.reset := by simp [State.record, hb, Bank.reset]
    rw [this]
    exact ⟨nofun, rfl⟩

/-! ## Every change -/

theorem State.Change.coherent (h : s.Change t) (hs : s.Coherent) : t.Coherent := by
  cases h with
  | works h => exact hs.works h
  | release l => exact hs.releaseCurrent
  | depart l d m => exact hs.leaveRunning
  | reroute l r hc hr =>
    obtain ⟨hrest, hnone, hroute, hset, htaps⟩ := hs.service l
    exact hs.setLane ⟨fun hm => absurd (hrest hm).1 hc, hnone, iff_of_false hr hc, hset, htaps⟩ rfl
  | enter l n r hm hc hn hr => exact hs.enter hm hn hr
  | read n w => exact hs.readWord n w
  | correct l n hc => exact hs.computeCorrection hc
  | adapt l n tr ts e htr hts ha => exact hs.adaptSet ((s.setAdapts_iff l n).mp ha).1
  | diverge l n ha => exact hs.raiseDivergence (by rw [((s.setAdapts_iff l n).mp ha).1]; exact nofun)
  | data n w v => exact hs.writeBankWord
  | entry l a v => exact hs.writeMap
  | fallback l v => exact hs.writeFallback
  | commit n hn hh => exact hs.commitLoading hn hh
  | zero n hn hh => exact hs.zeroSet hn hh
  | unfreeze n => exact hs.onRecord (by rfl) (by rfl)
  | start a b => exact hs.transferStart
  | abort hb => exact hs.endTransfer (.inl nofun)
  | wait => exact hs.countWait
  | move => exact hs.engineMove
  | partReset => exact s.partReset_coherent
  | powerOn cut => exact State.coherent_of_reset rfl (fun k => s.powerOn_lane k cut) rfl
  | disturb n w place second => exact hs.putCell

/-- Settles O58: coherence is kept by every change of a step. -/
theorem serviceAndHoldsStayCoherent : Obligations.ServiceAndHoldsStayCoherent := by
  intro s t hservice htransfer h
  exact t.coherent_iff.mp ((changes_of_step h).keeps State.Change.coherent (s.coherent_iff.mpr ⟨hservice, htransfer⟩))

end Sys2Proof.Machine
end

section
/-! SUPPORT. The words of READY and LIVE sets (R25, R30): a commit brings them into their ranges, adaptation and the
rollback keep a LIVE set's taps within ±WL, and nothing else changes a word of a set in use. -/

namespace Sys2Proof.Machine

variable {s t u : State} {l k : Lane} {n m : SetNo}

/-! ## The commit clamping (R25) -/

theorem signedWord_toInt {x : Int} (h1 : -32768 ≤ x) (h2 : x ≤ 32767) : (signedWord x).toInt = x := ofInt_toInt h1 h2

/-- A header word is brought into the range that section 2.1 gives it. -/
theorem clampHeader_toInt {w : Nat} (hw : w < 10) (limit : Int) (v : Word) :
    (clampHeader w v).toInt = inRange (commitRange limit w) v.toInt := by
  have hclamp : ∀ lo hi : Int, -32768 ≤ lo → lo ≤ hi → hi ≤ 32767 →
      (signedWord (clampInt lo hi v.toInt)).toInt = inRange (lo, hi) v.toInt := fun lo hi h1 h2 h3 => by
    rw [signedWord_toInt (by unfold clampInt; omega) (by unfold clampInt; omega), clampInt, inRange]
  match w, hw with
  | 0, _ => exact hclamp _ _ (by decide) (by decide) (by decide)
  | 1, _ => exact hclamp _ _ (by decide) (by decide) (by decide)
  | 2, _ => exact hclamp _ _ (by decide) (by decide) (by decide)
  | 3, _ => exact hclamp _ _ (by decide) (by decide) (by decide)
  | 4, _ => exact hclamp _ _ (by decide) (by decide) (by decide)
  | 5, _ => exact hclamp _ _ (by decide) (by decide) (by decide)
  | 6, _ => exact hclamp _ _ (by decide) (by decide) (by decide)
  | 7, _ =>
    obtain ⟨h1, h2⟩ := word_toInt_bounds v
    show v.toInt = inRange (-32768, 32767) v.toInt
    rw [inRange, min_eq_left h2, max_eq_right h1]
  | 8, _ => exact hclamp _ _ (by decide) (by decide) (by decide)
  | 9, _ => exact hclamp _ _ (by decide) (by decide) (by decide)

/-- WL as the commit clamping leaves it. -/
theorem clampedLimit_toInt (limit : Word) : (clampHeader 8 limit).toInt = max 0 limit.toInt := by
  obtain ⟨-, h2⟩ := word_toInt_bounds limit
  rw [clampHeader_toInt (by decide) 0]
  show max 0 (min limit.toInt 32767) = _
  rw [min_eq_left h2]

theorem commitRange_tap (limit : Int) {w : Nat} (hw : 10 ≤ w) : commitRange limit w = (-(max 0 limit), max 0 limit) := by
  unfold commitRange
  split <;> first | omega | rfl

/-- The commit clamping in the words of section 2.1. -/
theorem commitClamp_toInt (limit : Word) (w : Nat) (v : Word) :
    (commitClamp limit w v).toInt = inRange (commitRange limit.toInt w) v.toInt := by
  unfold commitClamp
  split
  · rename_i hw
    exact clampHeader_toInt hw _ _
  · rename_i hw
    obtain ⟨-, h2⟩ := word_toInt_bounds limit
    rw [clampedLimit_toInt, commitRange_tap _ (Nat.not_lt.mp hw), signedWord_toInt (by unfold clampSym; omega)
      (by unfold clampSym; omega), clampSym, inRange]

/-! ## Sets in use -/

/-- The set is READY or LIVE. -/
def State.InUse (s : State) (n : SetNo) : Prop := (s.record n).state = .ready ∨ (s.record n).state = .live

/-- The header of a set in its ranges, and its 40 taps within ±WL. -/
def State.SetInRange (s : State) (n : SetNo) : Prop :=
  s.headerInRange n ∧ ∀ k < 40, |s.wordInt n (10 + k)| ≤ s.wordInt n 8

/-- The values of a set's 50 words stand. -/
def State.SameSet (s t : State) (n : SetNo) : Prop := ∀ w < 50, (t.cell n w).value = (s.cell n w).value

theorem State.SameSet.trans (h1 : s.SameSet t n) (h2 : t.SameSet u n) : s.SameSet u n :=
  fun w hw => (h2 w hw).trans (h1 w hw)

theorem State.SameSet.wordInt (h : s.SameSet t n) {w : Nat} (hw : w < 50) : t.wordInt n w = s.wordInt n w :=
  congrArg BitVec.toInt (h w hw)

theorem State.SetInRange.same (hs : s.SetInRange n) (h : s.SameSet t n) : t.SetInRange n := by
  have hword : ∀ w < 50, t.wordInt n w = s.wordInt n w := fun w hw => h.wordInt hw
  obtain ⟨hheader, htaps⟩ := hs
  refine ⟨?_, fun k hk => ?_⟩
  · rw [State.headerInRange, hword 0 (by decide), hword 1 (by decide), hword 2 (by decide), hword 3 (by decide),
      hword 4 (by decide), hword 5 (by decide), hword 6 (by decide), hword 8 (by decide), hword 9 (by decide)]
    exact hheader
  · rw [hword _ (by omega), hword 8 (by decide)]
    exact htaps k hk

/-- The commit clamping brings a set into its ranges (R25). -/
theorem State.clampSet_inRange (h : s.bankWf) (n : SetNo) : (s.clampSet n).SetInRange n := by
  have hword : ∀ w < 50, (s.clampSet n).wordInt n w = inRange (commitRange (s.wordInt n 8) w) (s.wordInt n w) := by
    intro w hw
    have hcell := State.clampSet_bankAt h n (n.val * 64 + w)
    rw [if_pos (by omega), Nat.add_sub_cancel_left] at hcell
    rw [State.wordInt, ← State.bankAt_cell, hcell]
    exact commitClamp_toInt _ _ _
  refine ⟨?_, fun k hk => ?_⟩
  · rw [State.headerInRange, hword 0 (by decide), hword 1 (by decide), hword 2 (by decide), hword 3 (by decide),
      hword 4 (by decide), hword 5 (by decide), hword 6 (by decide), hword 8 (by decide), hword 9 (by decide)]
    simp only [inRange, commitRange]
    omega
  · have h8 := (word_toInt_bounds (s.cell n 8).value).2
    rw [hword _ (by omega), hword 8 (by decide), commitRange_tap _ (by omega), abs_le]
    simp only [inRange, commitRange]
    rw [← State.wordInt] at h8
    omega

/-- The commit clamping leaves every other set. -/
theorem State.clampSet_sameSet (h : s.bankWf) (hm : m ≠ n) : s.SameSet (s.clampSet n) m := by
  intro w hw
  have hcell := State.clampSet_bankAt h n (m.val * 64 + w)
  have hne : m.val ≠ n.val := fun e => hm (Fin.ext e)
  rw [if_neg (by omega)] at hcell
  exact congrArg Cell.value hcell

/-! ## What leaves the words of the sets in use alone -/

/-- From `s` to `t` no set came into use, the words of those in use have the values they had, and no shadow was
captured. -/
structure State.KeepsRange (s t : State) : Prop where
  wf : s.bankWf → t.bankWf
  inUse : ∀ m, t.InUse m → s.InUse m
  same : s.bankWf → ∀ m, t.InUse m → s.SameSet t m
  shadow : ∀ k, (t.lane k).adapt.shadow = none ∨ (t.lane k).adapt.shadow = (s.lane k).adapt.shadow

theorem State.KeepsRange.refl (s : State) : s.KeepsRange s := ⟨id, fun _ h => h, fun _ _ _ _ _ => rfl, fun _ => .inr rfl⟩

theorem State.KeepsRange.trans (h1 : s.KeepsRange t) (h2 : t.KeepsRange u) : s.KeepsRange u where
  wf h := h2.wf (h1.wf h)
  inUse m h := h1.inUse m (h2.inUse m h)
  same hs m h := (h1.same hs m (h2.inUse m h)).trans (h2.same (h1.wf hs) m h)
  shadow k := (h2.shadow k).elim .inl fun e => by rw [e]; exact h1.shadow k

/-- What leaves every word. -/
theorem State.KeepsRange.of_words (hw : t.bank.words = s.bank.words) (hu : ∀ m, t.InUse m → s.InUse m)
    (hs : ∀ k, (t.lane k).adapt.shadow = none ∨ (t.lane k).adapt.shadow = (s.lane k).adapt.shadow) : s.KeepsRange t :=
  ⟨fun h => by rwa [State.bankWf, hw], hu, fun _ m _ w _ => by rw [State.cell, hw]; rfl, hs⟩

/-- What leaves the bank. -/
theorem State.KeepsRange.of_bank (hb : t.bank = s.bank)
    (hs : ∀ k, (t.lane k).adapt.shadow = none ∨ (t.lane k).adapt.shadow = (s.lane k).adapt.shadow) : s.KeepsRange t :=
  .of_words (by rw [hb]) (fun m h => by rwa [State.InUse, State.record, hb] at h) hs

theorem State.KeepsRange.beside (hb : t.bank = s.bank) (h0 : t.lane0 = s.lane0) (h1 : t.lane1 = s.lane1) :
    s.KeepsRange t := .of_bank hb fun k => .inr (by rw [State.lane_congr k h0 h1])

theorem State.Works.keepsRange (h : s.Works t) : s.KeepsRange t := .of_bank h.bank fun k => .inr (h.lane k).shadow

/-- A lane's blocks but for its shadow. -/
theorem State.KeepsRange.setLane {x : LaneState} (h : x.adapt.shadow = (s.lane l).adapt.shadow) :
    s.KeepsRange (s.setLane l x) :=
  .of_bank rfl fun k => .inr (by
    rw [State.setLane_lane_eq]
    split
    · rename_i e; rw [e, h]
    · rfl)

/-- A set's record changes, and does not bring the set into use. -/
theorem State.KeepsRange.onRecord {f : SetRecord → SetRecord}
    (h : (f (s.record n)).state = .ready ∨ (f (s.record n)).state = .live → s.InUse n) : s.KeepsRange (s.onRecord n f) :=
  .of_words rfl (fun m hm => by
    rw [State.InUse, State.onRecord_record] at hm
    split at hm
    · rename_i e; rw [e]; exact h hm
    · exact hm) fun k => .inr (by rw [State.onRecord_lane])

/-- Every word keeps its value. -/
theorem State.KeepsRange.of_values (hw : s.bankWf → t.bankWf) (hr : t.bank.records = s.bank.records)
    (hv : s.bankWf → ∀ a, (t.bankAt a).value = (s.bankAt a).value) (hl : ∀ k, t.lane k = s.lane k) : s.KeepsRange t :=
  ⟨hw, fun m h => by rwa [State.InUse, State.record, hr] at h, fun hs m _ w _ => hv hs (m.val * 64 + w),
    fun k => .inr (by rw [hl])⟩

theorem State.KeepsRange.disturb {w p : Nat} {q : Option Nat} : s.KeepsRange (s.disturb n w p q) := by
  refine .of_values (fun h => State.putCell_wf h n w _) rfl (fun h a => ?_) fun k => ?_
  · have hread : (s.disturb n w p q).bankAt a = if a = n.val * 64 + w then _ else s.bankAt a := Memory.read_write h _ _ _
    rw [hread]
    split
    · rename_i e
      rw [e, State.bankAt_cell]
      cases q <;> rfl
    · rfl
  · exact State.lane_congr k rfl rfl

theorem State.KeepsRange.correctWord {w : Nat} : s.KeepsRange (s.correctWord n w (s.cell n w).value) := by
  refine .of_values (fun h => Memory.write_wf h _ _) rfl (fun h a => ?_) fun k => by simp
  have hread : (s.correctWord n w (s.cell n w).value).bankAt a
      = if a = n.val * 64 + w then ⟨(s.cell n w).value, []⟩ else s.bankAt a := Memory.read_write h _ _ _
  rw [hread]
  split
  · rename_i e
    rw [e, State.bankAt_cell]
  · rfl

/-- A transfer that ends other than COMPLETE (R174). -/
theorem State.KeepsRange.endTransfer {o : TransferOutcome} (h : s.transfer.mode ≠ .copy ∨ o ≠ .complete) :
    s.KeepsRange (s.endTransfer o) := by
  refine .of_words ?_ (fun m hm => ?_) fun k => .inr (by rw [State.endTransfer_lane])
  · rw [State.endTransfer_eq _ o h]; rfl
  · rw [State.InUse, State.endTransfer_state, if_neg fun hc => h.elim (· hc.1) (· hc.2.1)] at hm
    exact hm

theorem State.KeepsRange.quarantine : s.KeepsRange (s.quarantine n) := by
  have hdrop : ∀ (v : State) (l : Lane), v.KeepsRange (v.dropCurrentIf n l) := fun v l =>
    .of_bank (by simp) fun k => by
      rw [State.dropCurrentIf_lane_eq]
      split
      · exact .inl rfl
      · exact .inr rfl
  have hsource : ∀ v : State, v.KeepsRange (v.sourceQuarantined n) := fun v => by
    unfold State.sourceQuarantined
    split_ifs
    · exact .endTransfer (.inr nofun)
    · exact .beside rfl rfl rfl
    · exact .refl v
  have hstate : s.KeepsRange (s.setSetState n .quarantined) := .onRecord nofun
  have hqueued := hstate.trans (.beside (t := (s.setSetState n .quarantined).notify .setQuarantined none n.val) rfl rfl rfl)
  exact ((hqueued.trans (hdrop _ _)).trans (hdrop _ _)).trans (hsource _)

theorem State.KeepsRange.doubleError : s.KeepsRange (s.doubleError n) := by
  unfold State.doubleError
  split
  · exact .beside rfl rfl rfl
  · exact .beside rfl rfl rfl
  · exact .trans (t := { s with counters := { s.counters with storageError := raised s.counters.storageError 1 } })
      (.beside rfl rfl rfl) .quarantine

theorem State.KeepsRange.readWord (s : State) (n : SetNo) (w : Nat) : s.KeepsRange (s.readWord n w).1 := by
  rcases hf : (s.cell n w).flipped with _ | ⟨p, _ | ⟨q, ps⟩⟩
  · rw [State.readWord_clean hf]; exact .refl s
  · rw [State.readWord_single (by rw [hf]; rfl)]; exact .correctWord
  · rw [State.readWord_double (by rw [hf]; simp)]; exact .doubleError

theorem State.Reads.keepsRange (h : State.Reads n s t) : s.KeepsRange t :=
  h.keeps (P := s.KeepsRange) (fun u w hu => hu.trans (.readWord u n w)) (.refl s)

end Sys2Proof.Machine
end

section
/-! SUPPORT. Every change keeps READY and LIVE sets in their ranges (R25, R29, R30, R81, R89, R92). -/

namespace Sys2Proof.Machine

variable {s t u : State} {l k : Lane} {n m : SetNo}

/-! ## The ranges, and what renews them -/

/-- The taps of a shadow within ±WL of the set they were taken from. -/
def State.ShadowInRange (s : State) (x : Shadow) : Prop := ∀ v ∈ x.taps, |v.toInt| ≤ s.wordInt x.set 8

/-- READY and LIVE sets and both shadows in range, lane by lane. -/
structure State.Ranged (s : State) : Prop where
  sets : ∀ m, s.InUse m → s.SetInRange m
  shadows : ∀ k, ∀ x ∈ (s.lane k).adapt.shadow, s.ShadowInRange x

theorem State.ranged_iff (s : State) : s.Ranged ↔ s.setsInRange :=
  ⟨fun h => ⟨h.sets, h.shadows .zero, h.shadows .one⟩, fun ⟨hsets, h0, h1⟩ => ⟨hsets, fun k => by cases k <;> assumption⟩⟩

/-- From `s` to `t` a set that came into use, and a shadow captured, is in range; a LIVE set has kept its WL. -/
structure State.Renews (s t : State) : Prop where
  sets : ∀ m, t.InUse m → t.SetInRange m ∨ s.InUse m ∧ s.SameSet t m
  live : ∀ m, (t.record m).state = .live → s.InUse m ∧ (t.cell m 8).value = (s.cell m 8).value
  shadow : ∀ k, ∀ x ∈ (t.lane k).adapt.shadow, x ∈ (s.lane k).adapt.shadow ∨ t.ShadowInRange x

theorem State.KeepsRange.renews (h : s.KeepsRange t) (hs : s.bankWf) : s.Renews t where
  sets m hm := .inr ⟨h.inUse m hm, h.same hs m hm⟩
  live m hm := ⟨h.inUse m (.inr hm), h.same hs m (.inr hm) 8 (by decide)⟩
  shadow k x hx := (h.shadow k).elim (fun e => by rw [e] at hx; cases hx) fun e => .inl (by rwa [e] at hx)

theorem State.KeepsRange.then_renews (h : s.KeepsRange u) (hs : s.bankWf) (hr : u.Renews t) : s.Renews t where
  sets m hm := (hr.sets m hm).imp_right fun ⟨hu, hsame⟩ => ⟨h.inUse m hu, (h.same hs m hu).trans hsame⟩
  live m hm := by
    obtain ⟨hu, h8⟩ := hr.live m hm
    exact ⟨h.inUse m hu, h8.trans (h.same hs m hu 8 (by decide))⟩
  shadow k x hx := (hr.shadow k x hx).imp_left fun hx => (h.shadow k).elim (fun e => by rw [e] at hx; cases hx)
    fun e => by rwa [e] at hx

theorem State.Ranged.renew (hs : s.Ranged) (ht : t.Coherent) (h : s.Renews t) : t.Ranged where
  sets m hm := (h.sets m hm).elim id fun ⟨hu, hsame⟩ => (hs.sets m hu).same hsame
  shadows k x hx := (h.shadow k x hx).elim (fun hold v hv => by
    obtain ⟨-, -, -, hset, -⟩ := ht.service k
    have hcurrent : (t.lane k).selection.current = some x.set := by rw [← hset, hx]; rfl
    obtain ⟨-, h8⟩ := h.live x.set ((ht.live x.set).mpr ⟨k, hcurrent⟩)
    have := hs.shadows k x hold v hv
    rwa [State.wordInt, ← h8] at this) id

/-! ## A set comes into use: a commit, and the end of a COPY (R25, R29) -/

theorem State.sourceReady_words (s : State) (n : SetNo) : (s.sourceReady n).bank.words = s.bank.words := by
  unfold State.sourceReady
  split <;> rfl

theorem State.completeCopy_words (s : State) (n : SetNo) : (s.completeCopy n).bank.words = (s.clampSet n).bank.words := by
  unfold State.completeCopy
  exact State.onRecord_words ..

theorem State.writeWords_words (h : t.bank.words = s.bank.words) (n : SetNo) (w : Nat) (vs : List Word) :
    (t.writeWords n w vs).bank.words = (s.writeWords n w vs).bank.words := by
  induction vs generalizing s t w with
  | nil => exact h
  | cons v vs ih =>
    refine ih ?_ (w + 1)
    show Memory.write _ t.bank.words _ _ = Memory.write _ s.bank.words _ _
    rw [h]

/-- The commit clamping reads and writes words alone. -/
theorem State.clampSet_words (h : t.bank.words = s.bank.words) (n : SetNo) :
    (t.clampSet n).bank.words = (s.clampSet n).bank.words := by
  have hcell : ∀ w, t.cell n w = s.cell n w := fun w => by rw [State.cell, h]; rfl
  unfold State.clampSet
  simp only [hcell]
  exact State.writeWords_words h n 0 _

/-- The commit clamping of a set that becomes READY. -/
theorem State.Renews.clampSet (hs : s.bankWf) (hw : t.bank.words = (s.clampSet n).bank.words)
    (hr : ∀ m, m ≠ n → (t.record m).state = (s.record m).state) (hn : (t.record n).state = .ready)
    (hl : ∀ k, t.lane k = s.lane k) : s.Renews t := by
  have hcell : ∀ m w, t.cell m w = (s.clampSet n).cell m w := fun m w => by rw [State.cell, hw]; rfl
  have hsame : ∀ m, m ≠ n → s.SameSet t m := fun m hm w hw => by
    rw [hcell]; exact State.clampSet_sameSet hs hm w hw
  refine ⟨fun m hm => ?_, fun m hm => ?_, fun k x hx => .inl (by rwa [hl] at hx)⟩
  · by_cases e : m = n
    · subst e
      exact .inl ((State.clampSet_inRange hs m).same fun w _ => by rw [hcell])
    · rw [State.InUse, hr m e] at hm
      exact .inr ⟨hm, hsame m e⟩
  · have e : m ≠ n := fun e => by rw [e, hn] at hm; cases hm
    refine ⟨.inr ?_, hsame m e 8 (by decide)⟩
    rw [← hr m e]; exact hm

theorem State.Renews.commitLoading (hs : s.bankWf) : s.Renews (s.commitLoading n).1 := by
  have hreads := (State.Reads.readAll s n allWords).keepsRange
  obtain e | ⟨-, e⟩ := s.commitLoading_cases n <;> rw [e]
  · exact hreads.renews hs
  · generalize (s.readAll n allWords).1 = v at hreads
    have hrecord : ∀ m, (v.committed n).record m
        = if m = n then { v.record n with state := .ready, frozen := false } else v.record m := fun m => by
      rw [State.committed, State.sourceReady_record, State.onRecord_record, State.clampSet_record, State.clampSet_record]
    refine hreads.then_renews hs (.clampSet (n := n) (hreads.wf hs) ?_ (fun m hm => ?_) ?_ fun k => ?_)
    · rw [State.committed, State.sourceReady_words, State.onRecord_words]
    · rw [hrecord, if_neg hm]
    · rw [hrecord, if_pos rfl]
    · rw [State.committed, State.sourceReady_lane, State.onRecord_lane, State.clampSet_lane]

/-- The end of any transfer: a COPY that is COMPLETE makes its destination READY (R174). -/
theorem State.Renews.endTransfer (hs : s.bankWf) {o : TransferOutcome}
    (hd : s.transfer.mode = .copy → ∃ d, s.transfer.destination = some d) : s.Renews (s.endTransfer o) := by
  by_cases h : s.transfer.mode = .copy ∧ o = .complete
  · obtain ⟨hm, rfl⟩ := h
    obtain ⟨d, hd⟩ := hd hm
    have hstate := s.endTransfer_state .complete
    refine .clampSet (n := d) hs ?_ (fun m hne => ?_) ?_ fun k => s.endTransfer_lane k _
    · rw [State.endTransfer_copy hm hd]
      exact (State.completeCopy_words s.releaseHolds d).trans (State.clampSet_words (t := s.releaseHolds) rfl d)
    · rw [hstate, if_neg fun hc => hne (Option.some.inj (hc.2.2.symm.trans hd))]
    · rw [hstate, if_pos ⟨hm, rfl, hd⟩]
  · exact (State.KeepsRange.endTransfer (not_and_or.mp h)).renews hs

/-! ## The taps of a LIVE set change (R81, R82, R92) -/

/-- From `s` to `t` no more has changed of the sets and shadows than taps of set `n`, which lie within ±WL. -/
structure State.Retaps (s t : State) (n : SetNo) : Prop where
  wf : s.bankWf → t.bankWf
  state : ∀ m, (t.record m).state = (s.record m).state
  shadow : ∀ k, (t.lane k).adapt.shadow = (s.lane k).adapt.shadow
  same : s.bankWf → ∀ m, m ≠ n → s.SameSet t m
  header : s.bankWf → ∀ w < 10, (t.cell n w).value = (s.cell n w).value
  taps : s.bankWf → ∀ k < 40, (t.cell n (10 + k)).value = (s.cell n (10 + k)).value
    ∨ |t.wordInt n (10 + k)| ≤ s.wordInt n 8

theorem State.Retaps.limit (h : s.Retaps t n) (hs : s.bankWf) : t.wordInt n 8 = s.wordInt n 8 :=
  congrArg BitVec.toInt (h.header hs 8 (by decide))

theorem State.Retaps.trans (h1 : s.Retaps t n) (h2 : t.Retaps u n) : s.Retaps u n where
  wf h := h2.wf (h1.wf h)
  state m := (h2.state m).trans (h1.state m)
  shadow k := (h2.shadow k).trans (h1.shadow k)
  same h m hm := (h1.same h m hm).trans (h2.same (h1.wf h) m hm)
  header h w hw := (h2.header (h1.wf h) w hw).trans (h1.header h w hw)
  taps h k hk := by
    rcases h2.taps (h1.wf h) k hk with e2 | e2
    · rw [State.wordInt, e2]
      exact h1.taps h k hk
    · exact .inr (h1.limit h ▸ e2)

/-- What leaves the words and the shadows. -/
theorem State.Retaps.of_words (hw : t.bank.words = s.bank.words) (hr : ∀ m, (t.record m).state = (s.record m).state)
    (hs : ∀ k, (t.lane k).adapt.shadow = (s.lane k).adapt.shadow) : s.Retaps t n := by
  have hcell : ∀ m w, t.cell m w = s.cell m w := fun m w => by rw [State.cell, hw]; rfl
  exact ⟨fun h => by rwa [State.bankWf, hw], hr, hs, fun _ m _ w _ => by rw [hcell], fun _ w _ => by rw [hcell],
    fun _ k _ => .inl (by rw [hcell])⟩

theorem State.Works.retaps (h : s.Works t) : s.Retaps t n :=
  .of_words (by rw [h.bank]) (fun m => by rw [State.record, h.bank]; rfl) fun k => (h.lane k).shadow

theorem State.Retaps.onAdapt {f : Adaptation → Adaptation} (h : (f (s.lane l).adapt).shadow = (s.lane l).adapt.shadow) :
    s.Retaps (s.onAdapt l f) n :=
  .of_words rfl (fun _ => rfl) fun k => by
    obtain rfl | rfl := Lane.eq_or_other k l
    · rw [State.onAdapt_lane]; exact h
    · rw [State.onAdapt_other]

/-- A write of taps within ±WL. -/
theorem State.Retaps.writeWords {w : Nat} {vs : List Word} (hw : 10 ≤ w) (hlen : w + vs.length ≤ 50)
    (hv : ∀ v ∈ vs, |v.toInt| ≤ s.wordInt n 8) : s.Retaps (s.writeWords n w vs) n := by
  refine ⟨fun h => State.writeWords_wf h n w vs, fun m => by rw [State.writeWords_record],
    fun k => by rw [State.writeWords_lane], fun h m hm v hv' => ?_, fun h v hv' => ?_, fun h k hk => ?_⟩
  · rw [State.writeWords_cell h n m vs (by omega) (by omega), if_neg fun hc => hm hc.1]
  · rw [State.writeWords_cell h n n vs (by omega) (by omega), if_neg (by omega)]
  · rw [State.wordInt, State.writeWords_cell h n n vs (by omega) (by omega)]
    split
    · rename_i hin
      refine .inr (hv _ ?_)
      rw [List.getD_eq_getElem _ _ (by omega)]
      exact List.getElem_mem _
    · exact .inl rfl

/-- The taps of a set in range stay in range. -/
theorem State.Retaps.renews (h : s.Retaps t n) (hs : s.bankWf) (hn : s.SetInRange n) : s.Renews t := by
  have h8 : (t.cell n 8).value = (s.cell n 8).value := h.header hs 8 (by decide)
  have hheader : ∀ w < 10, t.wordInt n w = s.wordInt n w := fun w hw => congrArg BitVec.toInt (h.header hs w hw)
  have hinUse : ∀ m, t.InUse m → s.InUse m := fun m hm => by rwa [State.InUse, h.state] at hm
  refine ⟨fun m hm => ?_, fun m hm => ⟨hinUse m (.inr hm), ?_⟩, fun k x hx => .inl (by rwa [h.shadow] at hx)⟩
  · by_cases e : m = n
    · subst e
      obtain ⟨hhead, htaps⟩ := hn
      refine .inl ⟨?_, fun k hk => ?_⟩
      · rw [State.headerInRange, hheader 0 (by decide), hheader 1 (by decide), hheader 2 (by decide),
          hheader 3 (by decide), hheader 4 (by decide), hheader 5 (by decide), hheader 6 (by decide),
          hheader 8 (by decide), hheader 9 (by decide)]
        exact hhead
      · rw [hheader 8 (by decide)]
        rcases h.taps hs k hk with e | e
        · rw [State.wordInt, e]; exact htaps k hk
        · exact e
    · exact .inr ⟨hinUse m hm, h.same hs m e⟩
  · by_cases e : m = n
    · rw [e, h8]
    · exact h.same hs m e 8 (by decide)

theorem State.Retaps.raiseDivergence (hx : ∀ x ∈ (s.lane l).adapt.shadow, x.taps.length ≤ 40 ∧ ∀ v ∈ x.taps,
    |v.toInt| ≤ s.wordInt n 8) : s.Retaps (s.raiseDivergence l n) n := by
  have hrolled : ∀ vs : List Word, vs.length ≤ 40 → (∀ v ∈ vs, |v.toInt| ≤ s.wordInt n 8) →
      s.Retaps (s.rollback l n vs) n := fun vs hlen hv => by
    have hwritten : s.Retaps (s.writeWords n Config.firstTap vs) n :=
      .writeWords (by decide) (by simp only [Config.firstTap]; omega) hv
    have hfrozen : (s.writeWords n Config.firstTap vs).Retaps
        ((s.writeWords n Config.firstTap vs).onRecord n fun r => { r with frozen := true }) n :=
      .of_words rfl (fun m => by rw [State.onRecord_record]; split <;> simp [*]) fun k => by rw [State.onRecord_lane]
    exact ((hwritten.trans hfrozen).trans (.onAdapt rfl)).trans (State.Works.notify.retaps)
  unfold State.raiseDivergence
  split
  · split <;> rename_i e
    · obtain ⟨hlen, hv⟩ := hx _ e
      exact hrolled _ hlen hv
    · exact hrolled [] (Nat.zero_le _) nofun
  · exact .onAdapt rfl

/-- Clamped taps are within ±WL. -/
theorem clampedTaps_within {wl : Word} (h : 0 ≤ wl.toInt) (results : List Int) :
    ∀ v ∈ clampedTaps wl results, |v.toInt| ≤ wl.toInt := by
  intro v hv
  obtain ⟨x, -, rfl⟩ := List.mem_map.mp hv
  obtain ⟨-, hmax⟩ := word_toInt_bounds wl
  rw [signedWord_toInt (by unfold clampSym; omega) (by unfold clampSym; omega), clampSym, abs_le]
  omega

theorem steppedTaps_length (hd : AdaptHeader) (e : Int) (ws : List Word) (rs : List Int) :
    (steppedTaps hd e ws rs).length ≤ ws.length := by
  induction ws generalizing rs with
  | nil => simp [steppedTaps]
  | cons w ws ih =>
    cases rs with
    | nil => simp [steppedTaps]
    | cons r rs => simpa [steppedTaps] using ih rs

theorem State.Retaps.adaptTaps {tr ts : Nat} {e : Int} {hd : AdaptHeader} {taps : List Word} (htr : tr ≤ 32) (hts : ts ≤ 8)
    (hlen : taps.length = tr + ts) (hs : s.bankWf) (hwl : hd.wl = (s.cell n 8).value) (h0 : 0 ≤ s.wordInt n 8)
    (hx : ∀ x ∈ (s.lane l).adapt.shadow, x.taps.length ≤ 40 ∧ ∀ v ∈ x.taps, |v.toInt| ≤ s.wordInt n 8) :
    s.Retaps (s.adaptTaps l n tr ts e hd taps) n := by
  rw [State.adaptTaps_eq rfl]
  generalize hresults : steppedTaps hd e taps ((s.lane l).references tr ts hd.sd.toInt.toNat) = results
  have hcount : (clampedTaps hd.wl results).length ≤ tr + ts := by
    rw [clampedTaps, List.length_map, ← hresults, ← hlen]
    exact steppedTaps_length _ _ _ _
  have hwithin : ∀ v ∈ clampedTaps hd.wl results, |v.toInt| ≤ s.wordInt n 8 := by
    have h8 : hd.wl.toInt = s.wordInt n 8 := by rw [hwl]; rfl
    rw [← h8]
    exact clampedTaps_within (by rwa [h8]) results
  have hfirst : s.Retaps (s.writeWords n Config.firstTap ((clampedTaps hd.wl results).take tr)) n :=
    .writeWords (by decide) (by simp only [Config.firstTap, List.length_take]; omega)
      fun v hv => hwithin v (List.mem_of_mem_take hv)
  have hsecond : (s.writeWords n Config.firstTap ((clampedTaps hd.wl results).take tr)).Retaps
      (s.writeTaps n tr (clampedTaps hd.wl results)) n := by
    refine .writeWords (by decide) (by simp only [Config.firstSiblingTap, List.length_drop]; omega) fun v hv => ?_
    rw [hfirst.limit hs]
    exact hwithin v (List.mem_of_mem_drop hv)
  have hwritten : s.Retaps (s.tapsWritten l n tr hd.wl results) n :=
    (hfirst.trans hsecond).trans State.Works.onCounters.retaps
  refine (hwritten.trans ?_).trans (State.works_countWindow _ l).retaps
  unfold State.countDivergence
  split
  · refine .raiseDivergence fun x hx' => ?_
    rw [hwritten.shadow] at hx'
    rw [hwritten.limit hs]
    exact hx x hx'
  · exact .onAdapt rfl

/-! ## A set enters service, and a set adapts (R49, R75, R89) -/

/-- Reads of words of a set in use that find no double error give the values of its words. -/
theorem State.readUntilDouble_values (hs : s.bankWf) (hu : s.InUse n) {ws : List Nat} (hws : ∀ w ∈ ws, w < 50)
    {vs : List Word} (h : s.readUntilDouble n ws = (t, some vs)) : ∀ v ∈ vs, ∃ w ∈ ws, v = (s.cell n w).value := by
  induction ws generalizing s vs with
  | nil => cases h; simp
  | cons w ws ih =>
    obtain ⟨s1, v0, e, hs1⟩ | e := s.readWord_cases n w
    · have hread := State.KeepsRange.readWord s n w
      rw [e] at hread
      have hu1 : s1.InUse n := by rwa [State.InUse, hs1.record]
      rw [State.readUntilDouble_cons_some e] at h
      obtain ⟨rfl, h2⟩ := Prod.mk.inj h
      obtain ⟨vs', hvs, rfl⟩ := Option.map_eq_some_iff.mp h2
      intro v hv
      rcases List.mem_cons.mp hv with rfl | hv
      · exact ⟨w, by simp, State.readWord_value e⟩
      · obtain ⟨w', hw', rfl⟩ := ih (hread.wf hs) hu1 (fun w' hw' => hws w' (by simp [hw'])) (Prod.ext rfl hvs) v hv
        exact ⟨w', by simp [hw'], hread.same hs n hu1 w' (hws w' (by simp [hw']))⟩
    · rw [State.readUntilDouble_cons_none e] at h
      cases h

theorem mem_tapWords {w : Nat} (h : w ∈ tapWords) : ∃ k < 40, w = 10 + k := by
  obtain ⟨k, hk, rfl⟩ := List.mem_map.mp h
  exact ⟨k, List.mem_range.mp hk, Nat.add_comm _ _⟩

/-- A READY set enters service: its shadow is its own taps (R89). -/
theorem State.Renews.enter (hs : s.bankWf) (hn : (s.record n).state = .ready) (hr : s.SetInRange n) {r : Route} :
    s.Renews ((s.entered l n r).captureShadow l n) := by
  have hentered : s.KeepsRange (s.entered l n r) := by
    refine .of_words ?_ (fun m hm => ?_) fun k => .inr ?_
    · have : (s.retireCurrent l).bank.words = s.bank.words := by
        unfold State.retireCurrent
        split
        · split <;> rfl
        · rfl
      exact this
    · rw [State.InUse, State.entered_record] at hm
      split at hm
      · rename_i e; rw [e]; exact .inl hn
      · rw [State.recordReleased] at hm
        split at hm
        · rename_i e; exact .inr e.2
        · exact hm
    · obtain rfl | rfl := Lane.eq_or_other k l
      · rw [State.entered_lane]
      · rw [State.entered_other]
  have hlive : (s.entered l n r).InUse n := by
    rw [State.InUse, State.entered_record, if_pos rfl]; exact .inr rfl
  generalize s.entered l n r = v at hentered hlive
  have hreads := State.Reads.readUntilDouble v n tapWords
  unfold State.captureShadow
  split <;> rename_i e <;> rw [e] at hreads
  · rename_i u taps
    have hkept := hentered.trans hreads.keepsRange
    have hcaptured : u.Renews (u.onAdapt l fun x => { x with shadow := some ⟨n, taps⟩, divergence := 0 }) := by
      refine ⟨fun m hm => .inr ⟨hm, fun _ _ => rfl⟩, fun m hm => ⟨.inr hm, rfl⟩, fun k x hx => ?_⟩
      obtain rfl | rfl := Lane.eq_or_other k l
      · rw [State.onAdapt_lane] at hx
        obtain rfl : ⟨n, taps⟩ = x := Option.some.inj hx
        refine .inr fun x hx => ?_
        obtain ⟨-, htaps⟩ := hr.same (hentered.same hs n hlive)
        have hu : u.InUse n := by rw [State.InUse, (State.readUntilDouble_some e).record]; exact hlive
        have h8 : u.wordInt n 8 = v.wordInt n 8 := (hreads.keepsRange.same (hentered.wf hs) n hu).wordInt (by decide)
        obtain ⟨w, hw, rfl⟩ := State.readUntilDouble_values (hentered.wf hs) hlive
          (fun w hw => by obtain ⟨k, hk, rfl⟩ := mem_tapWords hw; omega) e x hx
        obtain ⟨k, hk, rfl⟩ := mem_tapWords hw
        exact (htaps k hk).trans_eq h8.symm
      · rw [State.onAdapt_other] at hx
        exact .inl hx
    exact hkept.then_renews hs hcaptured
  · exact (hentered.trans hreads.keepsRange).renews hs

/-- The shadow of a lane that serves a set holds 40 taps within the set's ±WL. -/
theorem State.Ranged.shadow_within (hr : s.Ranged) (hc : s.Coherent) (hn : (s.lane l).selection.current = some n) :
    ∀ x ∈ (s.lane l).adapt.shadow, x.taps.length ≤ 40 ∧ ∀ v ∈ x.taps, |v.toInt| ≤ s.wordInt n 8 := by
  intro x hx
  obtain ⟨-, -, -, hset, hlen⟩ := hc.service l
  rw [hx, hn] at hset
  obtain rfl : x.set = n := Option.some.inj hset
  exact ⟨(hlen x hx).le, hr.shadows l x hx⟩

theorem State.Renews.raiseDivergence (hs : s.bankWf) (hc : s.Coherent) (hr : s.Ranged) (ha : s.setAdapts l n = true) :
    s.Renews (s.raiseDivergence l n) := by
  obtain ⟨hcurrent, hlive, -⟩ := (s.setAdapts_iff l n).mp ha
  exact (State.Retaps.raiseDivergence (hr.shadow_within hc hcurrent)).renews hs (hr.sets n (.inr hlive))

/-- The adaptation of a set keeps its taps within ±WL (R81). -/
theorem State.Renews.adaptSet (hs : s.bankWf) (hc : s.Coherent) (hr : s.Ranged) (ha : s.setAdapts l n = true) {tr ts : Nat}
    {e : Int} (htr : tr ≤ 32) (hts : ts ≤ 8) : s.Renews (s.adaptSet l n tr ts e) := by
  obtain ⟨hcurrent, hlive, -⟩ := (s.setAdapts_iff l n).mp ha
  obtain hreads | ⟨u, hd, taps, hreads, hsame, hlen, ⟨v, hv, hvsame, hwl⟩, he⟩ := s.adaptSet_cases l n tr ts e
  · exact hreads.keepsRange.renews hs
  · rw [he]
    have hkept := hreads.keepsRange
    have huse : u.InUse n := by rw [State.InUse, hsame.record]; exact .inr hlive
    have hset := (hr.sets n (.inr hlive)).same (hkept.same hs n huse)
    have hranged : u.Ranged := hr.renew (hc.same hsame.sameCondition) (hkept.renews hs)
    refine hkept.then_renews hs (State.Retaps.renews (.adaptTaps htr hts ?_ (hkept.wf hs) ?_ ?_ ?_) (hkept.wf hs) hset)
    · rw [hlen, usedTapWords, List.length_append, List.length_map, List.length_map, List.length_range, List.length_range]
    · have hvuse : v.InUse n := by rw [State.InUse, hvsame.record]; exact .inr hlive
      rw [hwl, hv.keepsRange.same hs n hvuse 8 (by decide), hkept.same hs n huse 8 (by decide)]
    · exact hset.1.2.2.2.2.2.2.2.1
    · exact hranged.shadow_within (hc.same hsame.sameCondition) (by rw [hsame.lane, hcurrent])

/-! ## The commands and the engine -/

theorem State.KeepsRange.writeWords {w : Nat} {vs : List Word} (hlen : w + vs.length ≤ 64) (hn : ¬s.InUse n) :
    s.KeepsRange (s.writeWords n w vs) where
  wf h := State.writeWords_wf h n w vs
  inUse m h := by rwa [State.InUse, State.writeWords_record] at h
  same h m hm v hv := by
    rw [State.InUse, State.writeWords_record] at hm
    rw [State.writeWords_cell h n m vs hlen (by omega), if_neg]
    rintro ⟨rfl, -⟩
    exact hn hm
  shadow k := .inr (by rw [State.writeWords_lane])

/-- Words of a set are written and the set goes out of use. -/
theorem State.KeepsRange.written {w : Nat} {vs : List Word} (hlen : w + vs.length ≤ 64) {f : SetRecord → SetRecord}
    (hf : (f (s.record n)).state ≠ .ready ∧ (f (s.record n)).state ≠ .live) :
    s.KeepsRange ((s.writeWords n w vs).onRecord n f) := by
  have hrecord : ∀ m, ((s.writeWords n w vs).onRecord n f).record m = if m = n then f (s.record n) else s.record m :=
    fun m => by rw [State.onRecord_record, State.writeWords_record, State.writeWords_record]
  have hne : ∀ m, ((s.writeWords n w vs).onRecord n f).InUse m → m ≠ n := by
    rintro m hm rfl
    rw [State.InUse, hrecord, if_pos rfl] at hm
    exact hm.elim hf.1 hf.2
  refine ⟨fun h => State.writeWords_wf h n w vs, fun m hm => ?_, fun h m hm v hv => ?_, fun k => .inr ?_⟩
  · have hm' := hm
    rw [State.InUse, hrecord, if_neg (hne m hm)] at hm'
    exact hm'
  · rw [State.onRecord_cell, State.writeWords_cell h n m vs hlen (by omega), if_neg fun hc => hne m hm hc.1]
  · rw [State.onRecord_lane, State.writeWords_lane]

theorem State.KeepsRange.writeBankWord {w : Nat} (hw : w < 64) {v : Word} : s.KeepsRange (s.writeBankWord n w v).1 := by
  have hstate : ∀ st : SetState, st ≠ .live → st.afterDataWord = .loading := fun st h => by
    cases st with
    | live => exact absurd rfl h
    | free | loading | ready | quarantined => rfl
  unfold State.writeBankWord
  split_ifs with hh hl
  · exact .refl s
  · exact .refl s
  · refine .written (s := s) (n := n) (w := w) (vs := [v]) (by simp only [List.length_singleton]; omega)
      (f := fun r => { r with state := r.state.afterDataWord }) ?_
    rw [hstate _ hl]
    exact ⟨nofun, nofun⟩

/-- A set freed: its words are 0 and it is not in use. -/
theorem State.KeepsRange.zeroSet : s.KeepsRange (s.zeroSet n) := by
  unfold State.zeroSet
  exact .written (by simp [Config.setWords]) ⟨nofun, nofun⟩

theorem State.KeepsRange.rename {old new : Option SetNo} {f : Selection → Selection} :
    s.KeepsRange ((s.rename l old new).onSelection l f) := by
  obtain ⟨records, e⟩ := State.rename_eq (s := s) (l := l) old new
  have hrenamed : s.KeepsRange (s.rename l old new) := by
    refine .of_words (by rw [e]) (fun m hm => ?_) fun k => .inr (by rw [e]; rw [State.withBank_lane])
    rw [State.InUse, State.rename_record] at hm
    unfold SetRecord.renamed at hm
    split_ifs at hm <;> exact hm
  exact hrenamed.trans (.setLane rfl)

theorem State.KeepsRange.writeMap {a : Nat} {v : Word} : s.KeepsRange (s.writeMap l a v).1 := by
  unfold State.writeMap
  split
  · exact .refl s
  · split
    · exact .refl s
    · rename_i m _ _
      exact .rename (f := fun x => { x with map := Memory.write none x.map a m })

theorem State.KeepsRange.writeFallback {v : Word} : s.KeepsRange (s.writeFallback l v).1 := by
  unfold State.writeFallback
  split
  · exact .refl s
  · split
    · exact .refl s
    · rename_i m _ _
      exact .rename (f := fun x => { x with fallback := m })

theorem State.KeepsRange.releasing (hw : t.bank.words = s.bank.words) (hr : ∀ m, t.record m = s.recordReleased l m)
    (hl : (t.lane l).adapt.shadow = none) (ho : t.lane l.other = s.lane l.other) : s.KeepsRange t :=
  .of_words hw (fun m hm => by
    rw [State.InUse, hr, State.recordReleased] at hm
    split at hm
    · rename_i e; exact .inr e.2
    · exact hm) fun k => by
    obtain rfl | rfl := Lane.eq_or_other k l
    · exact .inl hl
    · exact .inr (by rw [ho])

theorem State.KeepsRange.transferStart {a b : Word} : s.KeepsRange (s.transferStart a b).1 := by
  have hbusy : ∀ (v : State) (m : SetNo), v.KeepsRange (v.applyBusy m) := fun v m => by
    unfold State.applyBusy
    split_ifs
    · exact .beside rfl rfl rfl
    · exact .endTransfer (.inr nofun)
    · exact .refl v
  have hsource : ∀ (v : State) (m : SetNo), v.KeepsRange (v.holdSource m) := fun v m => .onRecord id
  have hdest : ∀ (v : State) (m : SetNo), v.KeepsRange (v.holdDestination m) := fun v m => .onRecord nofun
  have hbegun : ∀ x : Transfer, s.KeepsRange { s with transfer := x } := fun x => .beside rfl rfl rfl
  simp only [State.transferStart]
  split
  · exact .refl s
  · rename_i plan _
    split
    · exact .refl s
    · cases plan with
      | copy src d =>
        simp only [State.startCopy]
        split
        · exact .refl s
        · exact (((hbegun _).trans (hsource _ _)).trans (hdest _ _)).trans (hbusy _ _)
      | dump src count =>
        simp only [State.startDump]
        split
        · exact .refl s
        · exact ((hbegun _).trans (hsource _ _)).trans (hbusy _ _)
      | sweep first count => exact hbegun _

theorem State.KeepsRange.countWait : s.KeepsRange s.countWait := by
  have hwaited : s.KeepsRange s.waited := .beside rfl rfl rfl
  obtain e | ⟨-, -, e⟩ | ⟨-, e⟩ := s.countWait_cases <;> rw [e]
  · exact .refl s
  · exact hwaited
  · exact hwaited.trans (.endTransfer (.inr nofun))

/-- A word delivered to the destination of a COPY, or to the Response Queue, changes no set in use. -/
theorem State.KeepsRange.deliver {v : Word} (h : s.transfer.mode = .copy → s.transfer.word < 50
    ∧ ∀ d, s.transfer.destination = some d → ¬s.InUse d) : s.KeepsRange (s.deliver v) := by
  unfold State.deliver
  split <;> rename_i hm
  · obtain ⟨hw, hd⟩ := h hm
    split
    · rename_i d e
      exact .writeWords (vs := [v]) (by simp only [List.length_singleton]; omega) (hd d e)
    · exact .refl s
  · exact .beside rfl rfl rfl
  · exact .beside rfl rfl rfl

theorem State.Renews.advanceWord (hs : s.bankWf) (hd : s.transfer.mode = .copy → ∃ d, s.transfer.destination = some d) :
    s.Renews s.advanceWord := by
  have hstep : ∀ x : Transfer, s.KeepsRange { s with transfer := x } := fun x => .beside rfl rfl rfl
  unfold State.advanceWord
  dsimp only
  split <;> rename_i hm <;> split
  · exact (hstep { s.transfer with word := s.transfer.word + 1 }).then_renews hs (.endTransfer (by exact hs) (by exact hd))
  all_goals exact (hstep _).renews hs

theorem State.Renews.moveWord (hs : s.bankWf) (hc : s.Coherent) (ha : s.transfer.state = .active) :
    s.Renews (s.moveWord n) := by
  have hnot : s.transfer.state ≠ .waiting := by rw [ha]; decide
  have hread := State.readWord_withTransfer (n := n) hnot
    (x := { s.transfer with remaining := s.transfer.remaining - 1 }) hnot s.transfer.word
  have hkept := State.KeepsRange.readWord s n s.transfer.word
  have hcoherent := hc.readWord n s.transfer.word
  have htransfer := State.readWord_transfer n hnot s.transfer.word
  have hmoved : ∀ y : Transfer, s.KeepsRange { (s.readWord n s.transfer.word).1 with transfer := y } := fun y =>
    hkept.trans (.beside rfl rfl rfl)
  have hdelivered : ∀ (y : Transfer) (v : Word), s.transfer.Issued y →
      s.Renews (State.deliver { (s.readWord n s.transfer.word).1 with transfer := y } v).advanceWord := by
    intro y v hy
    have hdest : y.mode = .copy → y.word < 50 ∧ (∃ d, y.destination = some d)
        ∧ ∀ d, y.destination = some d → ¬State.InUse { (s.readWord n s.transfer.word).1 with transfer := y } d := by
      intro hm
      obtain ⟨hsum, hpos, d, hd, hset⟩ := hcoherent.holds.copy (by rw [htransfer]; exact Transfer.busy_of_active ha)
        (by rw [htransfer, ← hy.mode]; exact hm)
      rw [htransfer] at hsum hpos hd
      refine ⟨by rw [hy.word]; omega, ⟨d, hy.destination.trans hd⟩, fun d' hd' => ?_⟩
      obtain rfl : d = d' := Option.some.inj (hd.symm.trans (hy.destination.symm.trans hd'))
      rintro (e | e) <;> rcases hset with e2 | e2 <;> cases e.symm.trans e2
    have hdeliver := (hmoved y).trans (.deliver (v := v) fun hm => ⟨(hdest hm).1, (hdest hm).2.2⟩)
    refine hdeliver.then_renews hs (.advanceWord (hdeliver.wf hs) ?_)
    rw [State.deliver_transfer]
    exact fun hm => (hdest hm).2.1
  unfold State.moveWord
  dsimp only
  rw [hread]
  split <;> rename_i e
  · obtain ⟨e, -⟩ := Prod.mk.inj e
    rw [← e]
    exact hdelivered _ _ ⟨rfl, rfl, rfl, rfl, rfl, rfl, rfl, rfl⟩
  · obtain ⟨e, -⟩ := Prod.mk.inj e
    rw [← e]
    split
    · exact hdelivered _ _ ⟨rfl, rfl, rfl, rfl, rfl, rfl, rfl, rfl⟩
    · exact ((hmoved _).trans (.endTransfer (o := .dataError) (.inr (by decide)))).renews hs

theorem State.KeepsRange.appendTrailer (hm : s.transfer.mode ≠ .copy) : s.KeepsRange (s.appendTrailer n) := by
  have hqueued : s.KeepsRange (s.enqueue .transfer [transferTrailer n s.transfer.setBadWords]) := .beside rfl rfl rfl
  have hreleased := hqueued.trans (.onRecord (n := n) (f := fun r => { r with hold := .none }) id)
  unfold State.appendTrailer
  dsimp only
  split
  · split
    · exact hreleased.trans (.endTransfer (.inl hm))
    · exact hreleased.trans (.beside rfl rfl rfl)
  · exact hqueued.trans (.endTransfer (.inl hm))
  · exact hqueued

theorem State.KeepsRange.examineSet {cur : Option SetNo} : s.KeepsRange (s.examineSet cur) := by
  have htaken : ∀ m, s.KeepsRange (s.holdSource m) := fun m => .onRecord id
  unfold State.examineSet
  split
  · exact .endTransfer (.inr nofun)
  · split
    · exact .beside rfl rfl rfl
    · exact .beside rfl rfl rfl
    · exact (htaken _).trans (.beside rfl rfl rfl)

theorem State.Renews.engineMove (hs : s.bankWf) (hc : s.Coherent) : s.Renews s.engineMove := by
  unfold State.engineMove
  split
  · rename_i m e
    have hn := State.needs_of_due e
    cases m with
    | word n =>
      obtain ⟨-, ⟨ha, -⟩ | ⟨⟨ha, -⟩, -⟩⟩ := hn
      · exact .moveWord hs hc ha
      · exact .moveWord hs hc ha
    | header n => exact (State.KeepsRange.beside (s := s) (t := s.appendHeader n) rfl rfl rfl).renews hs
    | trailer n =>
      obtain ⟨-, ⟨-, hm, -⟩, -⟩ := hn
      exact (State.KeepsRange.appendTrailer hm).renews hs
    | examine cur => exact State.KeepsRange.examineSet.renews hs
  · exact (State.KeepsRange.refl s).renews hs

theorem State.KeepsRange.partReset : s.KeepsRange s.partReset := by
  refine .of_words rfl (fun m hm => ?_) fun k => .inl ?_
  · rw [State.InUse, State.partReset_record] at hm
    unfold SetRecord.partReset at hm
    dsimp only at hm
    split at hm
    · rename_i e; exact .inr e
    · exact hm
  · rw [State.partReset_lane]
    cases s.cond.params.retain <;> rfl

theorem State.KeepsRange.powerOn {cut : CutShort} : s.KeepsRange (s.powerOn cut) := by
  have hfree : ∀ m, ¬(s.powerOn cut).InUse m := fun m => by
    rw [State.InUse, State.record, State.powerOn_bank]
    simp [Bank.reset, SetRecord.reset]
  refine ⟨fun _ => rfl, fun m hm => absurd hm (hfree m), fun _ m hm => absurd hm (hfree m), fun k => .inl ?_⟩
  rw [State.powerOn_lane]; rfl

/-! ## Every change -/

theorem State.Change.renews (h : s.Change t) (hs : s.bankWf) (hc : s.Coherent) (hr : s.Ranged) : s.Renews t := by
  have hkept : ∀ {v : State}, s.KeepsRange v → s.Renews v := fun hv => hv.renews hs
  cases h with
  | works h => exact hkept h.keepsRange
  | release l =>
    exact hkept (.releasing (s.releaseCurrent_words l) (s.releaseCurrent_record l)
      (by rw [State.releaseCurrent_lane, State.dropCurrent_lane_self])
      (by rw [State.releaseCurrent_lane, State.dropCurrent_lane_other]))
  | depart l d m =>
    exact hkept (.releasing (s.leaveRunning_words l d m) (fun n => s.leaveRunning_record l n d m)
      (by rw [State.leaveRunning_lane]; rfl) (s.leaveRunning_other l d m))
  | reroute l r => exact hkept (.setLane rfl)
  | enter l n r hm hcur hn => exact .enter hs hn (hr.sets n (.inl hn))
  | read n w => exact hkept (.readWord s n w)
  | correct l n =>
    obtain h | ⟨u, y, c, h, -, e⟩ := s.computeCorrection_cases l n
    · exact hkept h.keepsRange
    · rw [e]
      have hheld : u.KeepsRange (u.onFilter l fun x => { x with held := y }) := .setLane rfl
      exact hkept ((h.keepsRange.trans hheld).trans State.Works.onCounters.keepsRange)
  | adapt l n tr ts e htr hts ha => exact .adaptSet hs hc hr ha htr hts
  | diverge l n ha => exact .raiseDivergence hs hc hr ha
  | data n w v hw => exact hkept (.writeBankWord hw)
  | entry l a v => exact hkept .writeMap
  | fallback l v => exact hkept .writeFallback
  | commit n => exact .commitLoading hs
  | zero n => exact hkept .zeroSet
  | unfreeze n => exact hkept (.onRecord id)
  | start a b => exact hkept .transferStart
  | abort => exact hkept (.endTransfer (.inr nofun))
  | wait => exact hkept .countWait
  | move => exact .engineMove hs hc
  | partReset => exact hkept .partReset
  | powerOn cut => exact hkept .powerOn
  | disturb n w place second => exact hkept .disturb

/-- A change keeps the bank's store canonical. -/
theorem State.Change.bankWf (h : s.Change t) (hs : s.bankWf) : t.bankWf := by
  have hnames : ∀ {v : State}, s.KeepsNames v → v.bankWf := fun hv => hv.wf hs
  have hrange : ∀ {v : State}, s.KeepsRange v → v.bankWf := fun hv => hv.wf hs
  cases h with
  | works h => exact hnames h.keepsNames
  | release l => exact hnames .releaseCurrent
  | depart l d m => exact hnames .leaveRunning
  | reroute l r => exact hs
  | enter l n r => exact hnames (.trans (.trans .retireCurrent .enterLive) .captureShadow)
  | read n w => exact hnames (.readWord s n w)
  | correct l n => exact hnames .computeCorrection
  | adapt l n tr ts e => exact hnames .adaptSet
  | diverge l n => exact hnames .raiseDivergence
  | data n w v hw => exact hrange (.writeBankWord hw)
  | entry l a v => exact hrange .writeMap
  | fallback l v => exact hrange .writeFallback
  | commit n => exact hnames .commitLoading
  | zero n => exact hrange .zeroSet
  | unfreeze n => exact hs
  | start a b => exact hnames (.transferStart s a b)
  | abort => exact hnames .endTransfer
  | wait => exact hnames .countWait
  | move => exact hnames .engineMove
  | partReset => exact hrange .partReset
  | powerOn cut => rfl
  | disturb n w place second => exact hrange .disturb

/-- Settles O59: each change of a step keeps the canonical store, coherence and the ranges together. -/
theorem readySetsStayInRange : Obligations.ReadySetsStayInRange := by
  intro s t hstores hservice htransfer hranges h
  have hkept : t.bankWf ∧ t.Coherent ∧ t.Ranged :=
    (changes_of_step h).keeps (P := fun u => u.bankWf ∧ u.Coherent ∧ u.Ranged)
      (fun hchange ⟨hwf, hcoherent, hranged⟩ => ⟨hchange.bankWf hwf, hchange.coherent hcoherent,
        hranged.renew (hchange.coherent hcoherent) (hchange.renews hwf hcoherent hranged)⟩)
      ⟨hstores.1, s.coherent_iff.mpr ⟨hservice, htransfer⟩, s.ranged_iff.mpr hranges⟩
  exact t.ranged_iff.mp hkept.2.2

end Sys2Proof.Machine
end

section
/-! SUPPORT. The power-on reset of the bank (R39), and every invariant after it (R39, R141, R164, R165). -/

namespace Sys2Proof.Machine

variable {s t : State}

theorem State.record_of_reset (hb : t.bank = Bank.reset) (n : SetNo) : t.record n = SetRecord.reset := by
  simp [State.record, hb, Bank.reset]

theorem State.cell_of_reset (hb : t.bank = Bank.reset) (n : SetNo) (w : Nat) : t.cell n w = Cell.zero := by
  rw [State.cell, hb]; rfl

/-- Settles O4: an unlisted word is 0 with no flipped place, so its read finds it clean. -/
theorem powerOnResetClearsTheBank : Obligations.PowerOnResetClearsTheBank := by
  intro cut s
  have hbank : (s.powerOn cut).bank = Bank.reset := s.powerOn_bank cut
  refine ⟨s.powerOn cut, rfl, fun n w => ?_, State.record_of_reset hbank, rfl, rfl⟩
  have hcell := State.cell_of_reset hbank n w.val
  rw [State.readWord_clean (by rw [hcell]; rfl), hcell]
  rfl

/-- No set is in use and no shadow captured in a state with the bank and the lanes of a power-on reset. -/
theorem State.ranged_of_reset (hb : t.bank = Bank.reset) (hl : ∀ k, t.lane k = LaneState.reset) : t.Ranged where
  sets m hm := by
    rw [State.InUse, State.record_of_reset hb] at hm
    rcases hm with h | h <;> cases h
  shadows k x hx := by rw [hl] at hx; cases hx

/-- The state after a power-on reset is what a power-on reset makes of it. -/
theorem State.reset_powerOn : State.reset.powerOn .whole = State.reset := rfl

/-- Settles O54: the reset state names no set, holds none and serves none, and its queues and counters are empty. -/
theorem resetHasEveryInvariant : Obligations.ResetHasEveryInvariant := by
  have hlane : ∀ k, State.reset.lane k = LaneState.reset := fun k => by cases k <;> rfl
  obtain ⟨hstores, hcounted⟩ := State.namesHold_of_reset (t := State.reset) rfl fun k => by rw [hlane]; rfl
  obtain ⟨hservice, htransfer⟩ := (State.coherent_iff _).mp (State.coherent_of_reset (t := State.reset) rfl hlane rfl)
  have hvalues := State.reset.powerOn_valuesInRange .whole
  rw [State.reset_powerOn] at hvalues
  obtain ⟨hcond, hlanes, hdecoder⟩ := State.reset.valuesInRange_iff.mp hvalues
  have hranges := (State.ranged_iff _).mp (State.ranged_of_reset (t := State.reset) rfl hlane)
  have hcounters : ∀ c ∈ State.reset.counterList, c = 0 := State.counterList_eq_zero rfl rfl rfl
  exact ⟨hstores, hcounted, ⟨Nat.zero_le _, Nat.zero_le _⟩, NoticeQueue.empty_sound,
    fun c hc => by rw [hcounters c hc]; exact Nat.zero_le _, hcond, hlanes, hdecoder, htransfer, hservice, hranges, rfl⟩

end Sys2Proof.Machine
end

section
/-! SUPPORT. The disturbance of a stored word (section 2.7) and its checked read (R35, R36). -/

namespace Sys2Proof.Machine

variable {s t : State} {n : SetNo}

/-! ## The places of a disturbed word -/

theorem toggle_of_ne {p q : Nat} (h : q ≠ p) : toggle q [p] = [min q p, max q p] := by
  unfold toggle
  split_ifs with hlt
  · rw [min_eq_left hlt.le, max_eq_right hlt.le]
  · have hle : p ≤ q := Nat.le_of_not_lt hlt
    rw [min_eq_right hle, max_eq_left hle]
    rfl

theorem toggle_self (p : Nat) : toggle p [p] = [] := by simp [toggle]

/-- What a disturbance makes of a stored word. -/
def Cell.disturbed (c : Cell) (p : Nat) : Option Nat → Cell
  | none => c.flip p
  | some q => (c.flip p).flip q

theorem Cell.disturbed_value (c : Cell) (p : Nat) (second : Option Nat) : (c.disturbed p second).value = c.value := by
  cases second <;> rfl

theorem State.disturb_eq (s : State) (n : SetNo) (w p : Nat) (second : Option Nat) :
    s.disturb n w p second = s.putCell n w ((s.cell n w).disturbed p second) := by cases second <;> rfl

/-- Two different places of a clean word. -/
theorem Cell.disturbed_two {c : Cell} (hc : c.flipped = []) {p q : Nat} (h : q ≠ p) :
    (c.disturbed p (some q)).flipped = [min p q, max p q] := by
  show toggle q (toggle p c.flipped) = _
  rw [hc, show toggle p [] = [p] from rfl, toggle_of_ne h, min_comm, max_comm]

theorem State.putCell_bankAt (h : s.bankWf) (n : SetNo) (w : Nat) (c : Cell) (a : Nat) :
    (s.putCell n w c).bankAt a = if a = n.val * 64 + w then c else s.bankAt a := Memory.read_write h _ _ _

/-- The places of a word after a disturbance. -/
theorem Cell.disturbed_places (c : Cell) {p : Nat} {second : Option Nat} (hsecond : second ≠ some p) :
    (c.flipped = [] → second = none → (c.disturbed p second).flipped = [p])
      ∧ (c.flipped = [] → ∀ q, second = some q → (c.disturbed p second).flipped = [min p q, max p q])
      ∧ (c.flipped = [p] → second = none → (c.disturbed p second).flipped = [])
      ∧ ∀ q, c.flipped = [q] → q ≠ p → second = none → (c.disturbed p second).flipped = [min p q, max p q] := by
  have hone : second = none → (c.disturbed p second).flipped = toggle p c.flipped := by rintro rfl; rfl
  refine ⟨fun hc hn => ?_, fun hc q hq => ?_, fun hc hn => ?_, fun q hc hne hn => ?_⟩
  · rw [hone hn, hc]; rfl
  · subst hq
    exact Cell.disturbed_two hc fun e => hsecond (congrArg some e)
  · rw [hone hn, hc, toggle_self]
  · rw [hone hn, hc, toggle_of_ne hne.symm]

/-- Settles O15: the places of the one word are toggled, and the finding of its next read counts them. -/
theorem wordDisturbed : Obligations.WordDisturbed := by
  intro n w p second s hs hsecond
  obtain ⟨hbank, -⟩ := hs
  have hread := State.putCell_bankAt hbank n w.val ((s.cell n w.val).disturbed p second)
  rw [← State.disturb_eq] at hread
  have hcell : (s.disturb n w.val p second).cell n w.val = (s.cell n w.val).disturbed p second :=
    (hread (n.val * 64 + w.val)).trans (if_pos rfl)
  refine ⟨s.disturb n w.val p second, rfl, rfl, fun a ha => (hread a).trans (if_neg ha), ?_⟩
  simp only [State.bankAt_cell, hcell]
  obtain ⟨hone, htwo, hback, hboth⟩ := (s.cell n w.val).disturbed_places hsecond
  refine ⟨Cell.disturbed_value _ _ _, fun hclean => ⟨fun hnone => ?_, fun hsome => ?_⟩, hone, htwo, hback, hboth⟩
  · rw [State.readWord_single (by rw [hcell, hone hclean hnone]; rfl), hcell]
    exact congrArg some (Cell.disturbed_value _ _ _)
  · obtain ⟨q, hq⟩ := Option.ne_none_iff_exists'.mp hsome
    rw [State.readWord_double (by rw [hcell, htwo hclean q hq]; exact le_rfl)]

/-! ## A double error (R36, R51) -/

/-- Two states with the same parts are one. -/
theorem State.eq_of_parts (h1 : t.pending = s.pending) (h2 : t.cond = s.cond) (h3 : t.lane0 = s.lane0)
    (h4 : t.lane1 = s.lane1) (h5 : t.bank = s.bank) (h6 : t.decoder = s.decoder) (h7 : t.responses = s.responses)
    (h8 : t.transfer = s.transfer) (h9 : t.notices = s.notices) (h10 : t.counters = s.counters) (h11 : t.link = s.link)
    (h12 : t.ports = s.ports) : t = s := by
  cases s
  cases t
  simp_all

/-- What a double error in a set that no transfer waits on does to the part: it is counted, reported unless the set is
FREE, and the set's record and its lanes change. -/
theorem State.doubleError_spec (h : ¬(s.transfer.state = .waiting ∧ s.transfer.current = some n)) :
    s.doubleError n = { s with
        bank := { s.bank with records := (s.doubleError n).bank.records }
        lane0 := (s.doubleError n).lane0, lane1 := (s.doubleError n).lane1
        notices := if (s.record n).state = .free then s.notices else s.notices.add .setQuarantined none n.val
        counters := { s.counters with storageError := raised s.counters.storageError 1 } }
      ∧ (∀ m, (s.doubleError n).record m =
          if m = n ∧ (s.record n).state ≠ .free then { s.record n with state := .quarantined } else s.record m)
      ∧ ∀ l, (s.doubleError n).lane l =
          if (s.lane l).selection.current = some n ∧ (s.record n).state ≠ .free ∧ (s.record n).state ≠ .quarantined
          then (s.lane l).withoutSet else s.lane l := by
  by_cases hfree : (s.record n).state = .free
  · rw [State.doubleError_free hfree]
    refine ⟨by rw [if_pos hfree], fun m => ?_, fun l => ?_⟩
    · rw [if_neg fun hc => hc.2 hfree]; rfl
    · rw [State.withCounters_lane, if_neg fun hc => hc.2.1 hfree]
  · by_cases hq : (s.record n).state = .quarantined
    · rw [State.doubleError_quarantined hq]
      refine ⟨by rw [if_neg hfree], fun m => ?_, fun l => ?_⟩
      · by_cases e : m = n
        · subst e
          rw [if_pos ⟨rfl, hfree⟩, ← hq]; rfl
        · rw [if_neg fun hc => e hc.1]; rfl
      · rw [if_neg fun hc => hc.2.2 hq]
        exact State.lane_congr l rfl rfl
    · have hcounted : ¬(s.transfer.state = .waiting ∧ s.transfer.current = some n) := h
      obtain ⟨hwords, htransfer⟩ := State.doubleError_words h
      obtain ⟨hpending, hcond, hdecoder, hresponses, hlink, hports⟩ := s.doubleError_outside n
      have heq := State.doubleError_quarantines hfree hq
      refine ⟨State.eq_of_parts hpending hcond rfl rfl ?_ hdecoder hresponses htransfer ?_ ?_ hlink hports, fun m => ?_,
        fun l => ?_⟩
      · show _ = Bank.mk _ _
        rw [← hwords]
      · rw [heq, State.quarantine_eq (by exact hcounted), if_neg hfree]
        simp only [State.dropCurrentIf_outside]
        rfl
      · rw [heq]
        simp only [State.quarantine_outside]
      · rw [heq, State.quarantine_record (by exact hcounted)]
        exact if_congr (and_iff_left hfree).symm rfl rfl
      · rw [heq, State.quarantine_lane_eq, State.withCounters_lane]
        exact if_congr (and_iff_left ⟨hfree, hq⟩).symm rfl rfl

/-- Settles O16, by the three findings of a read. -/
theorem checkedRead : Obligations.CheckedRead := by
  intro n w s hs hwait a c
  obtain ⟨hbank, -⟩ := hs
  refine ⟨fun h => State.readWord_clean h, fun h => ?_, fun h => ?_⟩
  · refine ⟨_, State.readWord_single h, rfl, fun b => ?_⟩
    have hread := State.putCell_bankAt hbank n w.val ⟨(s.cell n w.val).value, []⟩ b
    exact hread
  · obtain ⟨heq, hrecord, hlane⟩ := State.doubleError_spec hwait
    exact ⟨_, State.readWord_double h, heq, hrecord, hlane⟩

end Sys2Proof.Machine
end

section
/-! SUPPORT. Words written into sets and selections (R23, R34, R42, R43), and the set commands (R24, R28, R32). -/

namespace Sys2Proof.Machine

variable {s t : State} {l : Lane} {n : SetNo}

/-! ## A data word into a set (R23) -/

theorem execBankDataWord_eq (hr : s.responses.length + 1 ≤ 32) (n : SetNo) (w : WordNo) (v : Word) :
    exec (.bankDataWord n w v) s =
      .next ((s.writeBankWord n w.val v).1.report (Tally.count ⟨0, 0⟩ (s.writeBankWord n w.val v).2)) :=
  congrArg Host.Outcome.next (State.manageWrite_eq hr _)

theorem State.writeBankWord_refused (h : (s.record n).hold ≠ .none ∨ (s.record n).state = .live) (w : Nat) (v : Word) :
    s.writeBankWord n w v = (s, .refused .state) := by
  unfold State.writeBankWord
  by_cases hh : (s.record n).hold ≠ .none
  · exact if_pos hh
  · rw [if_neg hh, if_pos (h.resolve_left hh)]

theorem SetState.afterDataWord_eq {st : SetState} (h : st ≠ .live) : st.afterDataWord = .loading := by
  cases st with
  | live => exact absurd rfl h
  | free | loading | ready | quarantined => rfl

theorem State.writeBankWord_stored (hh : (s.record n).hold = .none) (hl : (s.record n).state ≠ .live) (w : Nat) (v : Word) :
    s.writeBankWord n w v = ((s.writeWord n w v).setSetState n .loading, .stored) := by
  unfold State.writeBankWord
  rw [if_neg (not_not.mpr hh), if_neg hl, State.setSetState, State.onRecord, State.onRecord]
  have hafter : (s.writeWord n w v).bank.records[n.val].state.afterDataWord = .loading := SetState.afterDataWord_eq hl
  simp only [hafter]

/-- Settles O11, by the owner's outcome and the report of it. -/
theorem bankDataWord : Obligations.BankDataWord := by
  intro n w v s hr hs
  obtain ⟨hbank, -⟩ := hs
  refine ⟨fun h => ?_, fun hh hl => ?_⟩
  · rw [execBankDataWord_eq hr, State.writeBankWord_refused h, State.report_refused, State.reported_refused]
  · rw [execBankDataWord_eq hr, State.writeBankWord_stored hh hl, State.report_stored]
    refine ⟨_, rfl, rfl, fun m => ?_, fun a => ?_⟩
    · rw [State.setSetState_record, State.writeWord_record, State.writeWord_record]
    · exact State.putCell_bankAt hbank n w.val _ a

/-! ## A name written (R34, R42, R43) -/

theorem execMapEntryWrite_eq (hr : s.responses.length + 1 ≤ 32) (l : Lane) (a : Fin 512) (v : Word) :
    exec (.mapEntryWrite l a v) s =
      .next ((s.writeMap l a.val v).1.report (Tally.count ⟨0, 0⟩ (s.writeMap l a.val v).2)) :=
  congrArg Host.Outcome.next (State.manageWrite_eq hr _)

theorem execFallbackWrite_eq (hr : s.responses.length + 1 ≤ 32) (l : Lane) (v : Word) :
    exec (.fallbackWrite l v) s =
      .next ((s.writeFallback l v).1.report (Tally.count ⟨0, 0⟩ (s.writeFallback l v).2)) :=
  congrArg Host.Outcome.next (State.manageWrite_eq hr _)

theorem nameOfWord_range {v : Word} (h : 48 ≤ v.toNat) (h255 : v.toNat ≠ 255) : nameOfWord v = none := by
  rw [nameOfWord, if_neg h255, setOfNat_eq_none_iff.mpr (by omega)]

theorem nameOfWord_eq {v : Word} {new : Option SetNo} (h : v.toNat = (new.map Fin.val).getD 255) :
    nameOfWord v = some new := by
  cases new with
  | none => exact if_pos h
  | some n =>
    have hv : v.toNat = n.val := h
    rw [nameOfWord, hv, if_neg (by omega), setOfNat_val]

theorem State.conflicts_some (s : State) (l : Lane) (n : SetNo) :
    s.conflicts l (some n) = decide ((s.record n).owner = some l.other) := rfl

theorem State.not_conflicts_of {new : Option SetNo} (h : ∀ n ∈ new, (s.record n).owner ≠ some l.other) :
    ¬s.conflicts l new = true := by
  cases new with
  | none => exact nofun
  | some n => rw [State.conflicts_some, decide_eq_true_eq]; exact h n rfl

theorem State.writeMap_stored {v : Word} {new : Option SetNo} (hv : nameOfWord v = some new)
    (hc : ¬s.conflicts l new = true) (a : Nat) :
    s.writeMap l a v =
      ((s.rename l (s.mapEntry l a) new).onSelection l fun x => { x with map := Memory.write none x.map a new }, .stored) := by
  unfold State.writeMap
  rw [hv]
  exact if_neg hc

theorem State.writeFallback_stored {v : Word} {new : Option SetNo} (hv : nameOfWord v = some new)
    (hc : ¬s.conflicts l new = true) :
    s.writeFallback l v =
      ((s.rename l (s.lane l).selection.fallback new).onSelection l fun x => { x with fallback := new }, .stored) := by
  unfold State.writeFallback
  rw [hv]
  exact if_neg hc

/-- Settles O12, by the owner's outcome, the report of it and the upkeep of the records. -/
theorem mapAndFallbackWrites : Obligations.MapAndFallbackWrites := by
  intro l a v s hr hs
  have hmap : Memory.wf (none : Option SetNo) (s.lane l).selection.map = true := ((s.storesCanonical_iff l).mp hs).2.1
  have hrefused : ∀ e : Result, s.writeMap l a.val v = (s, .refused e) ∧ s.writeFallback l v = (s, .refused e) →
      exec (.mapEntryWrite l a v) s = .next (s.reported 1 0) ∧ exec (.fallbackWrite l v) s = .next (s.reported 1 0) := by
    rintro e ⟨h1, h2⟩
    rw [execMapEntryWrite_eq hr, execFallbackWrite_eq hr, h1, h2, State.report_refused, State.reported_refused]
    exact ⟨rfl, rfl⟩
  refine ⟨fun h48 h255 => hrefused .range ?_, fun n hn howner => hrefused .conflict ?_, fun new hv hnew => ?_⟩
  · rw [State.writeMap, State.writeFallback, nameOfWord_range h48 h255]
    exact ⟨rfl, rfl⟩
  · rw [State.writeMap, State.writeFallback, nameOfWord_eq (new := some n) hn]
    have hconflict : s.conflicts l (some n) = true := by rw [State.conflicts_some, howner, decide_eq_true rfl]
    exact ⟨if_pos hconflict, if_pos hconflict⟩
  · have hname := nameOfWord_eq hv
    have hconflict := State.not_conflicts_of hnew
    rw [execMapEntryWrite_eq hr, execFallbackWrite_eq hr, State.writeMap_stored hname hconflict,
      State.writeFallback_stored hname hconflict, State.report_stored, State.report_stored]
    refine ⟨⟨_, rfl, ?_, fun b => ?_, fun n => State.rename_record _ _ n⟩, ⟨_, rfl, ?_, fun n => State.rename_record _ _ n⟩⟩
    · obtain ⟨records, e⟩ := State.rename_eq (s := s) (l := l) (s.mapEntry l a.val) new
      rw [e]
      cases l <;> rfl
    · obtain ⟨records, e⟩ := State.rename_eq (s := s) (l := l) (s.mapEntry l a.val) new
      rw [e, State.mapEntry, State.onSelection_lane, State.withBank_lane]
      exact Memory.read_write hmap _ _ _
    · obtain ⟨records, e⟩ := State.rename_eq (s := s) (l := l) (s.lane l).selection.fallback new
      rw [e]
      cases l <;> rfl

/-! ## The set commands (R24, R28, R32) -/

theorem execCommitSet_eq (h : s.accepts 1) {imm : BitVec 9} {t : State} {r : Reply} (hrun : s.commitSet imm = (t, r)) :
    exec (.commitSet imm) s = .next (t.answered 5 r.result.code r.words) :=
  congrArg Host.Outcome.next (State.command_bare_answered h 5#6 imm rfl rfl hrun)

theorem execFreeSet_eq (h : s.accepts 1) {imm : BitVec 9} {t : State} {r : Reply} (hrun : s.freeSet imm = (t, r)) :
    exec (.freeSet imm) s = .next (t.answered 6 r.result.code r.words) :=
  congrArg Host.Outcome.next (State.command_bare_answered h 6#6 imm rfl rfl hrun)

theorem execUnfreezeSet_eq (h : s.accepts 1) {imm : BitVec 9} {t : State} {r : Reply} (hrun : s.unfreezeSet imm = (t, r)) :
    exec (.unfreezeSet imm) s = .next (t.answered 7 r.result.code r.words) :=
  congrArg Host.Outcome.next (State.command_bare_answered h 7#6 imm rfl rfl hrun)

theorem setOfImm_none {imm : BitVec 9} (h : 48 ≤ imm.toNat) : setOfImm imm = none := setOfNat_eq_none_iff.mpr h

theorem setOfImm_some {imm : BitVec 9} (h : imm.toNat = n.val) : setOfImm imm = some n := by
  rw [setOfImm, h, setOfNat_val]

theorem State.commitSet_known {imm : BitVec 9} (h : imm.toNat = n.val) : s.commitSet imm = s.commitKnown n := by
  rw [State.commitSet, setOfImm_some h]

/-- COMMIT SET refuses a set that is neither READY nor LOADING, or that a COPY is filling (R24). -/
theorem State.commitKnown_state (h : (s.record n).state = .free ∨ (s.record n).state = .live
    ∨ (s.record n).state = .quarantined ∨ (s.record n).state = .loading ∧ (s.record n).hold = .destination) :
    s.commitKnown n = (s, .bare .state) := by
  unfold State.commitKnown
  rcases h with e | e | e | ⟨e, hh⟩ <;> rw [e]
  exact if_pos hh

theorem State.commitKnown_ready (h : (s.record n).state = .ready) : s.commitKnown n = (s, .bare .ok) := by
  rw [State.commitKnown, h]

theorem State.freeSet_refused {imm : BitVec 9} (hn : imm.toNat = n.val)
    (h : (s.record n).state = .live ∨ (s.record n).hold ≠ .none) : s.freeSet imm = (s, .bare .state) := by
  rw [State.freeSet, setOfImm_some hn]
  exact if_pos h

theorem State.freeSet_freed {imm : BitVec 9} (hn : imm.toNat = n.val) (hl : (s.record n).state ≠ .live)
    (hh : (s.record n).hold = .none) : s.freeSet imm = (s.zeroSet n, .bare .ok) := by
  rw [State.freeSet, setOfImm_some hn]
  exact if_neg fun h => h.elim hl fun hne => hne hh

theorem State.zeroSet_record (s : State) (n m : SetNo) :
    (s.zeroSet n).record m = if m = n then { s.record n with state := .free, frozen := false } else s.record m := by
  rw [State.zeroSet, State.onRecord_record, State.writeWords_record, State.writeWords_record]

theorem State.zeroSet_bankAt (h : s.bankWf) (n : SetNo) (a : Nat) :
    (s.zeroSet n).bankAt a =
      if n.val * 64 ≤ a ∧ a < n.val * 64 + 50 then { value := 0, flipped := [] } else s.bankAt a := by
  rw [State.zeroSet, State.onRecord_bankAt]
  exact State.writeZeros_bankAt h n 50 a

/-- Writes of words touch the bank alone. -/
theorem State.writeWords_eq (s : State) (n : SetNo) (w : Nat) (vs : List Word) :
    s.writeWords n w vs = { s with bank := (s.writeWords n w vs).bank } := by
  obtain ⟨-, h1, h2, h3, h4, h5, h6, h7, h8, h9, h10, h11⟩ := State.writeWords_outside (s := s) n w vs
  exact State.eq_of_parts h1 h2 h3 h4 rfl h5 h6 h7 h8 h9 h10 h11

theorem State.zeroSet_eq (s : State) (n : SetNo) : s.zeroSet n = { s with bank := (s.zeroSet n).bank } := by
  unfold State.zeroSet
  rw [State.writeWords_eq]
  rfl

theorem State.unfreezeSet_known {imm : BitVec 9} (hn : imm.toNat = n.val) :
    s.unfreezeSet imm =
      if (s.record n).frozen then (s.onRecord n fun r => { r with frozen := false }, .bare .ok) else (s, .bare .state) := by
  rw [State.unfreezeSet, setOfImm_some hn]

/-- Settles O14, by each command's own rule. -/
theorem setCommands : Obligations.SetCommands := by
  intro imm s h hs
  obtain ⟨hbank, -⟩ := hs
  refine ⟨fun h48 => ⟨?_, ?_, ?_⟩, fun n hn => ⟨fun hstate => ?_, fun hready => ?_, fun href => ?_, fun hl hh => ?_,
    fun hf => ?_, fun hf => ?_⟩⟩
  · exact execCommitSet_eq h (r := .bare .range) (by rw [State.commitSet, setOfImm_none h48])
  · exact execFreeSet_eq h (r := .bare .range) (by rw [State.freeSet, setOfImm_none h48])
  · exact execUnfreezeSet_eq h (r := .bare .range) (by rw [State.unfreezeSet, setOfImm_none h48])
  · exact execCommitSet_eq h (r := .bare .state) ((State.commitSet_known hn).trans (State.commitKnown_state hstate))
  · exact execCommitSet_eq h (r := .bare .ok) ((State.commitSet_known hn).trans (State.commitKnown_ready hready))
  · exact execFreeSet_eq h (r := .bare .state) (State.freeSet_refused hn href)
  · have hrun := State.freeSet_freed hn hl hh
    have heq := s.zeroSet_eq n
    have hrecord := s.zeroSet_record n
    have hwords := State.zeroSet_bankAt hbank n
    generalize s.zeroSet n = z at hrun heq hrecord hwords
    exact ⟨_, execFreeSet_eq h (r := .bare .ok) hrun, congrArg (State.answered · 6 0 []) heq, hrecord, hwords⟩
  · exact execUnfreezeSet_eq h (r := .bare .ok) ((State.unfreezeSet_known hn).trans (if_pos hf))
  · exact execUnfreezeSet_eq h (r := .bare .state) ((State.unfreezeSet_known hn).trans (if_neg (by rw [hf]; decide)))

end Sys2Proof.Machine
end

section
/-! SUPPORT. A lane's departure from RUNNING by a command or a fault (R113, R117 to R119). -/

namespace Sys2Proof.Machine

variable {s : State} {l : Lane}

theorem State.moveLane_running (hm : (s.lane l).control.mode = .running) (m : LaneMode) :
    s.moveLane l m = s.leaveRunning l 1 m := if_pos hm

/-- The words of the bank and the parts outside it stand at a departure. -/
theorem State.leaveRunning_eq (s : State) (l : Lane) (d : Nat) (m : LaneMode) :
    s.leaveRunning l d m =
      { s.leaveRunning l d m with
        bank := { s.bank with records := (s.leaveRunning l d m).bank.records }
        pending := s.pending, cond := s.cond, decoder := s.decoder, responses := s.responses
        transfer := s.transfer, counters := s.counters, link := s.link, ports := s.ports } := by
  obtain ⟨h1, h2, h3, h4, h5, h6, h7, h8⟩ := s.leaveRunning_outside l d m
  refine State.eq_of_parts h1 h2 rfl rfl ?_ h3 h4 h7 rfl h8 h5 h6
  show _ = Bank.mk _ _
  rw [← State.leaveRunning_words s l d m]

/-- A departure that a command's answer follows. -/
theorem State.answered_departure (s : State) (l : Lane) (d : Nat) (m : LaneMode) (code result : Nat) :
    let t := (s.leaveRunning l d m).answered code result []
    let u := s.answered code result []
    t = { t with
            bank := { s.bank with records := t.bank.records }
            pending := u.pending, cond := u.cond, decoder := u.decoder, responses := u.responses
            transfer := u.transfer, counters := u.counters, link := u.link, ports := u.ports }
      ∧ t.lane l = (u.lane l).departed m ∧ t.lane l.other = u.lane l.other
      ∧ (∀ n : SetNo, t.record n = s.recordReleased l n)
      ∧ t.notices = u.notices.afterDeparture l (s.lane l) d := by
  have heq := s.leaveRunning_eq l d m
  have hlane : ∀ (v : State) (k : Lane), (v.answered code result []).lane k = v.lane k := fun v k =>
    State.lane_congr k rfl rfl
  dsimp only
  rw [hlane, hlane, hlane, hlane, State.leaveRunning_lane, State.leaveRunning_other]
  refine ⟨?_, rfl, rfl, fun n => s.leaveRunning_record l n d m, s.leaveRunning_notices l d m⟩
  generalize s.leaveRunning l d m = v at heq
  conv_lhs => rw [heq]
  rfl

/-- Settles O8: LANE STOP and LANE OFF, and the fault behind its counter and notice, are departures. -/
theorem departureFromRunning : Obligations.DepartureFromRunning := by
  intro l s hm leaves
  have hoff : (s.lane l).control.mode ≠ .off := by rw [hm]; decide
  have hstandby : (s.lane l).control.mode ≠ .standby := by rw [hm]; decide
  have hstop : s.laneStop l = (s.leaveRunning l 1 .standby, .bare .ok) := by
    rw [State.laneStop, if_pos (by rw [hm]; rfl), State.moveLane_running hm]
  have hlaneOff : s.laneOff l = (s.leaveRunning l 1 .off, .bare .ok) := by
    rw [State.laneOff, State.moveLane_running hm]
  refine ⟨fun h => ⟨execLaneEnable_eq h (State.laneEnable_state hoff), execLaneStart_eq h (State.laneStart_state hstandby)⟩,
    fun h => ⟨_, execLaneStop_eq h hstop, ?_⟩, fun h => ⟨_, execLaneOff_eq h hlaneOff, ?_⟩, fun hrun => ?_⟩
  · exact State.answered_departure s l 1 .standby 10 0
  · exact State.answered_departure s l 1 .off 11 0
  · refine ⟨s.faultLane l, if_pos ⟨hm, Nat.succ_le_succ hrun⟩, ?_⟩
    have hnoticed := ((s.onCounters l fun c => { c with laneFault := raised c.laneFault 1 }).notify .laneFault (some l)
      0).leaveRunning_eq l 3 .fault
    refine ⟨hnoticed, State.leaveRunning_lane _ _ 3 .fault, State.leaveRunning_other _ _ 3 .fault, fun n => ?_, ?_⟩
    · refine (State.leaveRunning_record _ l n 3 .fault).trans ?_
      unfold State.recordReleased
      rw [State.notify_lane, State.onCounters_lane]
      rfl
    · refine (State.leaveRunning_notices _ l 3 .fault).trans ?_
      rw [State.notify_lane, State.onCounters_lane]
      rfl

end Sys2Proof.Machine
end

section
/-! SUPPORT. The divergence rollback as an event (R92), and the start and the abort of a transfer (R166, R167, R175). -/

namespace Sys2Proof.Machine

variable {s t : State} {l : Lane} {n : SetNo}

/-! ## The divergence rollback (R33, R75, R92) -/

theorem execDivergenceRollback_eq (hc : (s.lane l).selection.current = some n) (hd : (s.lane l).adapt.divergence = 63) :
    execDivergenceRollback l s = if s.rollbackAllowed l n = true then .next (s.raiseDivergence l n) else .next s := by
  have hdue : Config.divergenceLimit ≤ (s.lane l).adapt.divergence + 1 := by rw [hd]
  unfold execDivergenceRollback
  rw [hc]
  exact if_congr (and_iff_left hdue) rfl rfl

theorem State.raiseDivergence_due {sh : Shadow} (hd : (s.lane l).adapt.divergence = 63)
    (hsh : (s.lane l).adapt.shadow = some sh) : s.raiseDivergence l n = s.rollback l n sh.taps := by
  unfold State.raiseDivergence
  rw [if_pos (by rw [hd]), hsh]

/-- A rollback freezes its set. -/
theorem State.rollback_record (s : State) (l : Lane) (n : SetNo) (taps : List Word) (m : SetNo) :
    (s.rollback l n taps).record m = if m = n then { s.record n with frozen := true } else s.record m := by
  refine (State.onRecord_record (s.writeWords n Config.firstTap taps) n m fun r => { r with frozen := true }).trans ?_
  rw [State.writeWords_record, State.writeWords_record]

theorem State.rollback_eq (s : State) (l : Lane) (n : SetNo) (taps : List Word) :
    s.rollback l n taps =
      (State.onAdapt { s with bank := (s.rollback l n taps).bank } l fun x => { x with divergence := 0 }).notify .diverged
        (some l) n.val := by
  have h := s.writeWords_eq n Config.firstTap taps
  unfold State.rollback
  generalize s.writeWords n Config.firstTap taps = v at h
  rw [h]
  cases l <;> rfl

/-- Settles O37, by the gate of R75 and the rollback from the shadow. -/
theorem divergenceRollback : Obligations.DivergenceRollback := by
  intro l n sh s hs hc hd hsh hlen allowed
  obtain ⟨hbank, -⟩ := hs
  have hallowed : s.rollbackAllowed l n = true ↔ allowed := by
    rw [State.rollbackAllowed_iff, State.setAdapts_iff]
    exact and_congr_right fun _ => and_congr_right fun _ => and_iff_right hc
  have hrow : exec (.divergenceRollback l) s = execDivergenceRollback l s := rfl
  rw [hrow, execDivergenceRollback_eq hc hd]
  refine ⟨fun hnot => if_neg (mt hallowed.mp hnot), fun h => ?_⟩
  rw [if_pos (hallowed.mpr h), State.raiseDivergence_due hd hsh]
  refine ⟨_, rfl, s.rollback_eq l n sh.taps, s.rollback_record l n sh.taps, fun a => ?_⟩
  have hread := State.writeWords_bankAt hbank n Config.firstTap sh.taps a
  rw [hlen] at hread
  exact hread

/-! ## TRANSFER ABORT (R174, R175) -/

theorem execTransferAbort_eq (h : s.accepts 1) {t : State} {r : Reply} (hrun : s.transferAbort = (t, r)) :
    exec .transferAbort s = .next (t.answered 16 r.result.code r.words) :=
  congrArg Host.Outcome.next (State.command_bare_answered h 16#6 0 rfl rfl hrun)

/-- Settles O29: an abort is the end of a transfer with outcome ABORTED. -/
theorem transferAbort : Obligations.TransferAbort := by
  intro s h
  refine ⟨fun hbusy => ?_, fun hidle => ?_⟩
  · have hend := s.endTransfer_eq .aborted (.inr nofun)
    refine ⟨_, execTransferAbort_eq h (r := .bare .ok) (if_pos (Transfer.busy_iff.mpr hbusy)), ?_, fun m => ?_⟩
    · rw [hend]; rfl
    · rw [hend]; exact State.releaseHolds_record s m
  · refine execTransferAbort_eq h (r := .bare .state) (if_neg ?_)
    rw [Transfer.busy_iff]
    rintro (e | e) <;> rcases hidle with e2 | e2 <;> cases e.symm.trans e2

/-! ## TRANSFER START (R166, R167) -/

/-- The busy policy of R167: a LOADING source ends the transfer under FAIL and keeps it WAITING under WAIT. -/
theorem State.applyBusy_eq (s : State) (n : SetNo) :
    s.applyBusy n =
      if (s.record n).state = .loading ∧ s.transfer.waitBusy = false then s.endTransfer .notReady
      else { s with transfer := { s.transfer with
        state := if (s.record n).state = .loading then .waiting else s.transfer.state } } := by
  unfold State.applyBusy
  by_cases hl : (s.record n).state = .loading
  · cases hw : s.transfer.waitBusy <;> simp [hl]
  · simp [hl]

/-- What a COPY or DUMP that has begun comes to, by its source's state and its busy policy. -/
theorem State.applyBusy_started (hn : (s.record n).state = (t.record n).state) {x : Transfer} (hx : t.transfer = x)
    (hactive : x.state = .active) (ht : t = { s with transfer := x, bank := { s.bank with records := t.bank.records } })
    (code : Nat) :
    if (s.record n).state = .loading ∧ x.waitBusy = false then
      (t.applyBusy n).answered code 0 [] = State.answered
          { s with
            transfer := { x with state := .done, outcome := some .notReady }
            bank := { s.bank with records := ((t.applyBusy n).answered code 0 []).bank.records }
            notices := s.notices.add .transferDone none 3 } code 0 []
        ∧ ∀ m : SetNo, ((t.applyBusy n).answered code 0 []).record m = { t.record m with hold := .none }
    else
      (t.applyBusy n).answered code 0 [] = State.answered
          { s with
            transfer := { x with state := if (s.record n).state = .loading then .waiting else .active }
            bank := { s.bank with records := ((t.applyBusy n).answered code 0 []).bank.records } } code 0 []
        ∧ ∀ m : SetNo, ((t.applyBusy n).answered code 0 []).record m = t.record m := by
  rw [State.applyBusy_eq, ← hn, hx]
  split
  · rw [State.endTransfer_eq t .notReady (.inr nofun)]
    refine ⟨?_, fun m => State.releaseHolds_record t m⟩
    subst hx
    rw [ht]
    rfl
  · refine ⟨?_, fun m => rfl⟩
    rw [hactive, ht]
    rfl

theorem State.transferStart_copy {a b : Word} {d : SetNo} (h : transferPlan (transferArgs a) b = some (.copy n d))
    (hb : ¬s.transfer.busy = true) (hn : (s.record n).state ≠ .free) (hq : (s.record n).state ≠ .quarantined) (hd : d ≠ n)
    (hload : (s.record d).state ≠ .loading) (hlive : (s.record d).state ≠ .live) :
    s.transferStart a b =
      ((((State.holdSource { s with transfer := Transfer.begin (transferArgs a) .copy n Config.setWords (some d) }
        n).holdDestination d).applyBusy n), .bare .ok) := by
  rw [State.transferStart, h]
  refine (if_neg hb).trans (if_neg ?_)
  rintro (e | e | e | e | e)
  · exact hn e
  · exact hq e
  · exact hd e
  · exact hload e
  · exact hlive e

theorem State.transferStart_dump {a b : Word} {count : Nat} (h : transferPlan (transferArgs a) b = some (.dump n count))
    (hb : ¬s.transfer.busy = true) (hn : (s.record n).state ≠ .free) :
    s.transferStart a b =
      ((State.holdSource { s with transfer := Transfer.begin (transferArgs a) .dump n count none } n).applyBusy n,
        .bare .ok) := by
  rw [State.transferStart, h]
  exact (if_neg hb).trans (if_neg hn)

theorem State.transferStart_sweep {a b : Word} {count : Nat} (h : transferPlan (transferArgs a) b = some (.sweep n count))
    (hb : ¬s.transfer.busy = true) :
    s.transferStart a b =
      ({ s with transfer := Transfer.begin (transferArgs a) .sweep n count none }, .bare .ok) := by
  rw [State.transferStart, h]
  exact if_neg hb

/-- The records of the sets once a transfer holds its source. -/
theorem State.holdSource_record (s : State) (x : Transfer) (n m : SetNo) :
    (State.holdSource { s with transfer := x } n).record m =
      if m = n then { s.record m with hold := .source } else s.record m := by
  refine (State.onRecord_record _ n m _).trans ?_
  split
  · rename_i e; rw [e]; rfl
  · rfl

/-- The records of the sets once a COPY holds its source and its destination. -/
theorem State.holdDestination_record (s : State) (x : Transfer) {n d : SetNo} (hd : d ≠ n) (m : SetNo) :
    ((State.holdSource { s with transfer := x } n).holdDestination d).record m =
      if m = d then { s.record m with state := .loading, hold := .destination }
      else if m = n then { s.record m with hold := .source } else s.record m := by
  refine (State.onRecord_record _ d m _).trans ?_
  rw [State.holdSource_record, State.holdSource_record, if_neg hd]
  split
  · rename_i e; rw [e]
  · rfl

/-- Settles O28, by the checks passed, the holds taken and the busy policy. -/
theorem transferStartAccepted : Obligations.TransferStartAccepted := by
  intro a b n s h hn hactive hwaiting fresh started
  have hb : ¬s.transfer.busy = true := by
    rw [Transfer.busy_iff]
    rintro (e | e)
    · exact hactive e
    · exact hwaiting e
  refine ⟨fun d hm hd hne hfree hq hload hlive => ?_, fun hm h1 h50 hfree => ?_, fun hm h1 => ?_⟩
  · have hplan : transferPlan (transferArgs a) b = some (.copy n d) := by
      rw [transferPlan_copy hm hn, hd, setOfNat_val, Option.map_some]
    refine ⟨_, execTransferStart_eq h (r := .bare .ok)
      (State.transferStart_copy hplan hb hfree hq hne hload hlive), ?_⟩
    have hrecord := State.holdDestination_record s (Transfer.begin (transferArgs a) .copy n Config.setWords (some d)) hne
    have hstarted := State.applyBusy_started (s := s) (n := n) (t := (State.holdSource
        { s with transfer := Transfer.begin (transferArgs a) .copy n Config.setWords (some d) } n).holdDestination d)
      (by rw [hrecord, if_neg hne.symm, if_pos rfl]) rfl rfl rfl 15
    simp only [hrecord] at hstarted
    exact hstarted
  · have hplan : transferPlan (transferArgs a) b = some (.dump n b.toNat) := by
      rw [transferPlan_dump hm hn, if_neg (by omega)]
    refine ⟨_, execTransferStart_eq h (r := .bare .ok) (State.transferStart_dump hplan hb hfree), ?_⟩
    have hrecord := State.holdSource_record s (Transfer.begin (transferArgs a) .dump n b.toNat none) n
    have hstarted := State.applyBusy_started (s := s) (n := n) (t := State.holdSource
        { s with transfer := Transfer.begin (transferArgs a) .dump n b.toNat none } n)
      (by rw [hrecord, if_pos rfl]) rfl rfl rfl 15
    simp only [hrecord] at hstarted
    exact hstarted
  · have hplan : transferPlan (transferArgs a) b = some (.sweep n b.toNat) := by
      rw [transferPlan_sweep hm hn, if_neg (by omega)]
    exact execTransferStart_eq h (r := .bare .ok) (State.transferStart_sweep hplan hb)

end Sys2Proof.Machine
end

section
/-! SUPPORT. Checked reads of words of a set in order (R24, R35, R36, R51, R154), said once for the commit, READ, the
shadow capture and the word movement. -/

namespace Sys2Proof.Machine

variable {s t u : State} {l k : Lane} {n m : SetNo} {w : Nat} {ws : List Nat}

/-! ## Counts and notices of read words -/

/-- The value that a checked read gives of a stored word. -/
def Cell.readValue (c : Cell) : Option Word := if 2 ≤ c.flipped.length then none else some c.value

theorem raisedBy_raisedBy (c i j : Nat) : raisedBy (raisedBy c i) j = raisedBy c (i + j) := by
  unfold raisedBy
  split_ifs <;> omega

theorem singles_cons (c : Cell) (cs : List Cell) : singles (c :: cs) = singles [c] + singles cs := by
  unfold singles
  rw [← List.length_append, ← List.filter_append, List.singleton_append]

theorem doubles_cons (c : Cell) (cs : List Cell) : doubles (c :: cs) = doubles [c] + doubles cs := by
  unfold doubles
  rw [← List.length_append, ← List.filter_append, List.singleton_append]

theorem singles_one (c : Cell) : singles [c] = if c.flipped.length = 1 then 1 else 0 := by
  by_cases h : c.flipped.length = 1 <;> simp [singles, h]

theorem doubles_one (c : Cell) : doubles [c] = if 2 ≤ c.flipped.length then 1 else 0 := by
  by_cases h : 2 ≤ c.flipped.length <;> simp [doubles, h]

theorem doubles_pos {cs : List Cell} : 0 < doubles cs ↔ ∃ c ∈ cs, 2 ≤ c.flipped.length := by
  simp [doubles, List.length_pos_iff_exists_mem]

theorem doubles_eq_zero {cs : List Cell} : doubles cs = 0 ↔ ∀ c ∈ cs, c.flipped.length ≤ 1 := by
  rw [← Nat.le_zero, ← Nat.not_lt, doubles_pos]
  constructor
  · intro h c hc
    exact Nat.le_of_lt_succ (Nat.lt_of_not_le fun hd => h ⟨c, hc, hd⟩)
  · rintro h ⟨c, hc, hd⟩
    exact absurd (h c hc) (by omega)

theorem NoticeQueue.afterReads_cons (q : NoticeQueue) (n : SetNo) (free : Bool) (c : Cell) (cs : List Cell) :
    q.afterReads n free (c :: cs) = (q.afterReads n free [c]).afterReads n free cs := rfl

/-! ## The reads -/

/-- The part-wide counters after reads of stored words. -/
def PartCounters.afterReads (x : PartCounters) (cs : List Cell) : PartCounters :=
  { x with
    storageCorrection := raisedBy x.storageCorrection (singles cs)
    storageError := raisedBy x.storageError (doubles cs) }

theorem PartCounters.afterReads_cons (x : PartCounters) (c : Cell) (cs : List Cell) :
    x.afterReads (c :: cs) = (x.afterReads [c]).afterReads cs := by
  unfold PartCounters.afterReads
  rw [singles_cons, doubles_cons c cs, raisedBy_raisedBy, raisedBy_raisedBy]

/-- The set is one that a double error quarantines. -/
abbrev State.Quarantines (s : State) (n : SetNo) : Prop := (s.record n).state ≠ .free ∧ (s.record n).state ≠ .quarantined

/-- From `s` to `t` the words `ws` of set `n` have been read, by a reader that no transfer waits for. -/
structure State.AfterReads (s : State) (n : SetNo) (ws : List Nat) (t : State) : Prop where
  wf : t.bankWf
  eq : t = { s with
    bank := t.bank, lane0 := t.lane0, lane1 := t.lane1
    notices := s.notices.afterReads n (decide ((s.record n).state = .free)) (ws.map (s.cell n))
    counters := s.counters.afterReads (ws.map (s.cell n)) }
  lane : ∀ l, t.lane l =
    if (s.lane l).selection.current = some n ∧ 0 < doubles (ws.map (s.cell n)) ∧ s.Quarantines n then (s.lane l).withoutSet
    else s.lane l
  record : ∀ m, t.record m =
    if m = n ∧ 0 < doubles (ws.map (s.cell n)) ∧ (s.record n).state ≠ .free then { s.record n with state := .quarantined }
    else s.record m
  word : ∀ a, t.bankAt a = if ∃ w ∈ ws, a = n.val * 64 + w then (s.bankAt a).afterRead else s.bankAt a

theorem State.AfterReads.nil (hs : s.bankWf) : s.AfterReads n [] s where
  wf := hs
  eq := rfl
  lane _ := (if_neg fun h => absurd h.2.1 (Nat.lt_irrefl 0)).symm
  record _ := (if_neg fun h => absurd h.2.1 (Nat.lt_irrefl 0)).symm
  word _ := (if_neg fun ⟨_, hw, _⟩ => nomatch hw).symm

theorem State.AfterReads.transfer (h : s.AfterReads n ws t) : t.transfer = s.transfer := by rw [h.eq]

/-- A word read that is not one of those to come leaves those to come as they are. -/
theorem State.AfterReads.cell (h : s.AfterReads n [w] t) {v : Nat} (hv : v ≠ w) : t.cell n v = s.cell n v := by
  rw [← State.bankAt_cell, h.word, if_neg, State.bankAt_cell]
  rintro ⟨w', hw', e⟩
  rw [List.mem_singleton.mp hw'] at e
  omega

/-- The set is quarantined by a read only when the read finds a double error; what it was before is then of no moment. -/
theorem State.AfterReads.quarantines_iff (h : s.AfterReads n ws t) :
    t.Quarantines n ↔ s.Quarantines n ∧ doubles (ws.map (s.cell n)) = 0 := by
  unfold State.Quarantines
  rw [h.record]
  split
  · rename_i hc
    exact iff_of_false (fun h => h.2 rfl) fun h => absurd hc.2.1 (by omega)
  · rename_i hc
    refine ⟨fun h => ⟨h, Nat.eq_zero_of_not_pos fun hd => hc ⟨rfl, hd, h.1⟩⟩, fun h => h.1⟩

theorem State.AfterReads.free_iff (h : s.AfterReads n ws t) :
    (t.record n).state = .free ↔ (s.record n).state = .free := by
  rw [h.record]
  split
  · rename_i hc
    exact iff_of_false (fun h => nomatch h) hc.2.2
  · exact Iff.rfl

/-- One read, then the others. -/
theorem State.AfterReads.cons (h1 : s.AfterReads n [w] t) (h2 : t.AfterReads n ws u) (hw : w ∉ ws) :
    s.AfterReads n (w :: ws) u := by
  have hcells : ws.map (t.cell n) = ws.map (s.cell n) :=
    List.map_congr_left fun v hv => h1.cell fun e => hw (e ▸ hv)
  have hquarantines := h1.quarantines_iff
  have hfree := h1.free_iff
  obtain ⟨-, eq1, lane1, record1, word1⟩ := h1
  obtain ⟨wf2, eq2, lane2, record2, word2⟩ := h2
  rw [hcells] at eq2 lane2 record2
  have hsum : doubles ((w :: ws).map (s.cell n)) = doubles ([w].map (s.cell n)) + doubles (ws.map (s.cell n)) :=
    doubles_cons _ _
  refine ⟨wf2, ?_, fun l => ?_, fun m => ?_, fun a => ?_⟩
  · have part1 {α : Type} (f : State → α) := congrArg f eq1
    have part2 {α : Type} (f : State → α) := congrArg f eq2
    refine State.eq_of_parts ((part2 State.pending).trans (part1 State.pending))
      ((part2 State.cond).trans (part1 State.cond)) rfl rfl rfl
      ((part2 State.decoder).trans (part1 State.decoder)) ((part2 State.responses).trans (part1 State.responses))
      ((part2 State.transfer).trans (part1 State.transfer)) ?_ ?_ ((part2 State.link).trans (part1 State.link))
      ((part2 State.ports).trans (part1 State.ports))
    · rw [part2 State.notices, part1 State.notices, decide_eq_decide.mpr hfree]
      rfl
    · rw [part2 State.counters, part1 State.counters]
      exact (PartCounters.afterReads_cons _ _ _).symm
  · rw [lane2, hsum]
    by_cases hc : (s.lane l).selection.current = some n ∧ 0 < doubles ([w].map (s.cell n)) ∧ s.Quarantines n
    · obtain ⟨hcur, hd, hq⟩ := hc
      have hone : t.lane l = (s.lane l).withoutSet := (lane1 l).trans (if_pos ⟨hcur, hd, hq⟩)
      rw [hone]
      exact (if_neg fun h => nomatch h.1).trans (if_pos ⟨hcur, Nat.add_pos_left hd _, hq⟩).symm
    · rw [(lane1 l).trans (if_neg hc)]
      refine if_congr ⟨fun ⟨hcur, hd, hq⟩ => ⟨hcur, Nat.add_pos_right _ hd, (hquarantines.mp hq).1⟩,
        fun ⟨hcur, hd, hq⟩ => ?_⟩ rfl rfl
      have h0 : doubles ([w].map (s.cell n)) = 0 := Nat.eq_zero_of_not_pos fun h0 => hc ⟨hcur, h0, hq⟩
      exact ⟨hcur, by omega, hquarantines.mpr ⟨hq, h0⟩⟩
  · rw [record2, hsum]
    by_cases hc : 0 < doubles ([w].map (s.cell n)) ∧ (s.record n).state ≠ .free
    · obtain ⟨hd, hf⟩ := hc
      have hone : t.record n = { s.record n with state := .quarantined } := (record1 n).trans (if_pos ⟨rfl, hd, hf⟩)
      rw [hone]
      by_cases e : m = n
      · rw [(record1 m).trans (if_pos ⟨e, hd, hf⟩)]
        exact (ite_self _).trans (if_pos ⟨e, Nat.add_pos_left hd _, hf⟩).symm
      · rw [(record1 m).trans (if_neg fun h => e h.1)]
        exact (if_neg fun h => e h.1).trans (if_neg fun h => e h.1).symm
    · have hsame (m : SetNo) : t.record m = s.record m := (record1 m).trans (if_neg fun h => hc h.2)
      rw [hsame, hsame]
      refine if_congr (and_congr_right fun _ => ⟨fun h => ⟨Nat.add_pos_right _ h.1, h.2⟩, fun ⟨hd, hf⟩ => ?_⟩) rfl rfl
      exact ⟨by have : ¬_ := fun h => hc ⟨h, hf⟩; omega, hf⟩
  · rw [word2]
    by_cases ha : a = n.val * 64 + w
    · rw [(word1 a).trans (if_pos ⟨w, List.mem_singleton_self w, ha⟩)]
      refine (if_neg ?_).trans (if_pos ⟨w, List.mem_cons_self .., ha⟩).symm
      rintro ⟨v, hv, e⟩
      exact hw (by rwa [show w = v by omega])
    · rw [(word1 a).trans (if_neg fun ⟨v, hv, e⟩ => ha (List.mem_singleton.mp hv ▸ e))]
      exact if_congr (by rw [List.exists_mem_cons_iff]; exact (or_iff_right ha).symm) rfl rfl

/-! ## One read, and reads in order -/

/-- A read that finds no double error: the word is corrected, and the transfer is not asked. -/
theorem State.readWord_found (hs : s.bankWf) (h : (s.cell n w).flipped.length ≤ 1) :
    s.readWord n w = ((s.readWord n w).1, some (s.cell n w).value) ∧ s.AfterReads n [w] (s.readWord n w).1 := by
  have hd : doubles ([w].map (s.cell n)) = 0 := by
    rw [List.map_singleton, doubles_one, if_neg (by omega)]
  have hnone : ¬0 < doubles ([w].map (s.cell n)) := by omega
  rcases Nat.le_one_iff_eq_zero_or_eq_one.mp h with h0 | h1
  · have hread := State.readWord_clean (List.length_eq_zero_iff.mp h0)
    rw [hread]
    refine ⟨rfl, hs, ?_, fun l => (if_neg fun hc => hnone hc.2.1).symm, fun m => (if_neg fun hc => hnone hc.2.1).symm,
      fun a => ?_⟩
    · simp [NoticeQueue.afterReads, PartCounters.afterReads, singles_one, doubles_one, raisedBy, h0]
    · rw [eq_comm, ite_eq_right_iff]
      rintro ⟨v, hv, e⟩
      rw [List.mem_singleton.mp hv] at e
      subst e
      rw [State.bankAt_cell, Cell.afterRead, if_neg (by omega)]
  · have hread := State.readWord_single h1
    rw [hread]
    refine ⟨rfl, State.putCell_wf hs n w _, ?_, fun l => ?_, fun m => ?_, fun a => ?_⟩
    · rw [State.correctWord_eq]
      simp [NoticeQueue.afterReads, PartCounters.afterReads, singles_one, doubles_one, raisedBy, raised, h1]
    · rw [State.correctWord_lane, if_neg fun hc => hnone hc.2.1]
    · exact (if_neg fun hc => hnone hc.2.1).symm
    · refine (State.putCell_bankAt hs n w ⟨(s.cell n w).value, []⟩ a).trans ?_
      simp only [List.mem_singleton, exists_eq_left]
      by_cases ha : a = n.val * 64 + w
      · rw [if_pos ha, if_pos ha, ha, State.bankAt_cell, Cell.afterRead, if_pos h1]
      · rw [if_neg ha, if_neg ha]

/-- A read that finds a double error, in a set that no transfer waits on. -/
theorem State.doubleError_afterReads (hs : s.bankWf) (h : 2 ≤ (s.cell n w).flipped.length)
    (hwait : ¬(s.transfer.state = .waiting ∧ s.transfer.current = some n)) :
    s.AfterReads n [w] (s.doubleError n) := by
  have hd : 0 < doubles ([w].map (s.cell n)) := by rw [List.map_singleton, doubles_one, if_pos h]; omega
  obtain ⟨heq, hrecord, hlane⟩ := State.doubleError_spec hwait
  have hwords : (s.doubleError n).bank.words = s.bank.words := congrArg (·.bank.words) heq
  refine ⟨?_, ?_, fun l => ?_, fun m => ?_, fun a => ?_⟩
  · unfold State.bankWf
    rwa [hwords]
  · have h1 : (s.cell n w).flipped.length ≠ 1 := by omega
    refine heq.trans (State.eq_of_parts rfl rfl rfl rfl ?_ rfl rfl rfl ?_ ?_ rfl rfl)
    · show _ = (s.doubleError n).bank
      rw [heq]
    · simp only [List.map_singleton, NoticeQueue.afterReads, if_neg h1, h, true_and, decide_eq_false_iff_not]
      exact (ite_not _ _ _).symm
    · simp [PartCounters.afterReads, singles_one, doubles_one, raisedBy, raised, h, h1]
  · rw [hlane]
    exact if_congr (and_congr_right fun _ => (and_iff_right hd).symm) rfl rfl
  · rw [hrecord]
    exact if_congr (and_congr_right fun _ => (and_iff_right hd).symm) rfl rfl
  · have hsame : (s.doubleError n).bankAt a = s.bankAt a := by unfold State.bankAt; rw [hwords]
    rw [hsame, eq_comm, ite_eq_right_iff]
    rintro ⟨v, hv, e⟩
    rw [List.mem_singleton.mp hv] at e
    subst e
    rw [State.bankAt_cell, Cell.afterRead, if_neg (by omega)]

/-- A checked read of a word of a set that no transfer waits on. -/
theorem State.readWord_spec (hs : s.bankWf) (hwait : ¬(s.transfer.state = .waiting ∧ s.transfer.current = some n)) (w : Nat) :
    s.readWord n w = ((s.readWord n w).1, (s.cell n w).readValue) ∧ s.AfterReads n [w] (s.readWord n w).1 := by
  unfold Cell.readValue
  by_cases h : 2 ≤ (s.cell n w).flipped.length
  · rw [State.readWord_double h, if_pos h]
    exact ⟨rfl, State.doubleError_afterReads hs h hwait⟩
  · rw [if_neg h]
    exact State.readWord_found hs (by omega)

theorem State.readAll_cons (s : State) (n : SetNo) (w : Nat) (ws : List Nat) :
    s.readAll n (w :: ws) =
      (((s.readWord n w).1.readAll n ws).1, (s.readWord n w).2 :: ((s.readWord n w).1.readAll n ws).2) := rfl

theorem State.AfterReads.readValues (h : s.AfterReads n [w] t) (hw : w ∉ ws) :
    (ws.map fun v => (t.cell n v).readValue) = ws.map fun v => (s.cell n v).readValue :=
  List.map_congr_left fun v hv => by rw [h.cell fun e => hw (e ▸ hv)]

/-- Checked reads of words of a set that no transfer waits on, or that hold no double error. -/
theorem State.readAll_spec (hs : s.bankWf) (hd : ws.Nodup)
    (h : ¬(s.transfer.state = .waiting ∧ s.transfer.current = some n) ∨ ∀ w ∈ ws, (s.cell n w).flipped.length ≤ 1) :
    (s.readAll n ws).2 = ws.map (fun w => (s.cell n w).readValue) ∧ s.AfterReads n ws (s.readAll n ws).1 := by
  induction ws generalizing s with
  | nil => exact ⟨rfl, .nil hs⟩
  | cons w ws ih =>
    obtain ⟨hw, hd⟩ := List.nodup_cons.mp hd
    have hread : s.readWord n w = ((s.readWord n w).1, (s.cell n w).readValue) ∧ s.AfterReads n [w] (s.readWord n w).1 :=
      h.elim (fun h => State.readWord_spec hs h w) fun h => by
        have hone := h w (List.mem_cons_self ..)
        unfold Cell.readValue
        rw [if_neg (by omega)]
        exact State.readWord_found hs hone
    obtain ⟨hvalue, hafter⟩ := hread
    have hrest : ¬((s.readWord n w).1.transfer.state = .waiting ∧ (s.readWord n w).1.transfer.current = some n)
        ∨ ∀ v ∈ ws, ((s.readWord n w).1.cell n v).flipped.length ≤ 1 := by
      rw [hafter.transfer]
      refine h.imp_right fun h v hv => ?_
      rw [hafter.cell fun e => hw (e ▸ hv)]
      exact h v (List.mem_cons_of_mem _ hv)
    obtain ⟨hvalues, hall⟩ := ih hafter.wf hd hrest
    rw [State.readAll_cons, hvalues, hafter.readValues hw, hvalue]
    exact ⟨rfl, hafter.cons hall hw⟩

/-! ## Words in a row -/

theorem State.cells_eq (s : State) (n : SetNo) (w k : Nat) :
    s.cells n w k = ((List.range k).map (· + w)).map (s.cell n) := by
  unfold State.cells
  rw [List.map_map]
  exact List.map_congr_left fun i _ => by rw [Nat.add_assoc, State.bankAt_cell, Nat.add_comm w i]; rfl

theorem exists_row_iff {a w k : Nat} :
    (∃ v ∈ (List.range k).map (· + w), a = n.val * 64 + v) ↔ n.val * 64 + w ≤ a ∧ a < n.val * 64 + w + k := by
  simp only [List.mem_map, List.mem_range, exists_exists_and_eq_and]
  exact ⟨fun ⟨i, hi, e⟩ => by omega, fun h => ⟨a - (n.val * 64 + w), by omega, by omega⟩⟩

theorem row_nodup (w k : Nat) : ((List.range k).map (· + w)).Nodup :=
  List.nodup_range.map fun _ _ h => Nat.add_right_cancel h

theorem any_isNone_readValue (cs : List Cell) : (cs.map Cell.readValue).any (·.isNone) = decide (0 < doubles cs) := by
  rw [List.any_map, Bool.eq_iff_iff, List.any_eq_true, decide_eq_true_iff, doubles_pos]
  refine exists_congr fun c => and_congr_right fun _ => ?_
  show (Cell.readValue c).isNone = true ↔ _
  unfold Cell.readValue
  split_ifs with h <;> simp [h]

end Sys2Proof.Machine
end

section
/-! SUPPORT. The commit of a LOADING set and READ in BANK, through the checked reads of their words (R24, R25, R154). -/

namespace Sys2Proof.Machine

variable {s t u : State} {l k : Lane} {n m : SetNo} {w : Nat} {ws : List Nat}

/-! ## The commit (R24, R25) -/

theorem allWords_eq : allWords = (List.range 50).map (· + 0) := (List.map_id _).symm

theorem Cell.afterRead_value (c : Cell) : c.afterRead.value = c.value := by
  unfold Cell.afterRead
  split <;> rfl

/-- The commit in the words of section 2.1: the reads of the 50 words decide it. -/
theorem State.commitLoading_eq (h : (s.readAll n allWords).2 = allWords.map fun w => (s.cell n w).readValue) :
    s.commitLoading n =
      if 0 < doubles (s.cells n 0 50) then ((s.readAll n allWords).1, .bare .dataError)
      else ((s.readAll n allWords).1.committed n, .bare .ok) := by
  have hany : (s.readAll n allWords).2.any (·.isNone) = decide (0 < doubles (s.cells n 0 50)) := by
    rw [h, State.cells_eq, ← allWords_eq, ← any_isNone_readValue, List.map_map]
    rfl
  unfold State.commitLoading
  clear h
  generalize s.readAll n allWords = p at hany
  obtain ⟨s1, found⟩ := p
  exact if_congr (by rw [hany]; exact decide_eq_true_iff) rfl rfl

/-- The set's words, and no other, have been read. -/
def State.RowRead (s : State) (n : SetNo) (w k : Nat) (t : State) : Prop :=
  ∀ a, t.bankAt a = if n.val * 64 + w ≤ a ∧ a < n.val * 64 + w + k then (s.bankAt a).afterRead else s.bankAt a

theorem State.AfterReads.row {k : Nat} (h : s.AfterReads n ((List.range k).map (· + w)) t) : s.RowRead n w k t :=
  fun a => (h.word a).trans (if_congr exists_row_iff rfl rfl)

theorem State.RowRead.value {k : Nat} (h : s.RowRead n w k t) (a : Nat) : (t.bankAt a).value = (s.bankAt a).value := by
  rw [h]
  split
  · exact Cell.afterRead_value _
  · rfl

theorem State.RowRead.wordInt {k : Nat} (h : s.RowRead n w k t) (m : SetNo) (v : Nat) : t.wordInt m v = s.wordInt m v :=
  congrArg BitVec.toInt (h.value (m.val * 64 + v))

/-- The words of a set that the commit clamping has written back: in their ranges, with valid check information. -/
theorem State.clampSet_word (h : s.bankWf) (n : SetNo) (w : WordNo) :
    ((s.clampSet n).bankAt (n.val * 64 + w.val)).flipped = []
      ∧ ((s.clampSet n).bankAt (n.val * 64 + w.val)).value.toInt =
          inRange (commitRange (s.wordInt n 8) w.val) (s.wordInt n w.val) := by
  have hw := w.isLt
  rw [State.clampSet_bankAt h, if_pos (by omega), Nat.add_sub_cancel_left]
  exact ⟨rfl, commitClamp_toInt _ _ _⟩

theorem State.clampSet_elsewhere (h : s.bankWf) {a : Nat} (ha : ¬(n.val * 64 ≤ a ∧ a < n.val * 64 + 50)) :
    (s.clampSet n).bankAt a = s.bankAt a := by
  rw [State.clampSet_bankAt h, if_neg ha]

theorem State.committed_bankAt (s : State) (n : SetNo) (a : Nat) : (s.committed n).bankAt a = (s.clampSet n).bankAt a := by
  unfold State.bankAt
  rw [State.committed, State.sourceReady_words, State.onRecord_words]

theorem State.committed_record (s : State) (n m : SetNo) :
    (s.committed n).record m = if m = n then { s.record n with state := .ready, frozen := false } else s.record m := by
  rw [State.committed, State.sourceReady_record, State.onRecord_record, State.clampSet_record, State.clampSet_record]

theorem State.clampSet_bank (s : State) (n : SetNo) : s.clampSet n = { s with bank := (s.clampSet n).bank } :=
  State.writeWords_eq s n _ _

theorem State.committed_eq (s : State) (n : SetNo) :
    s.committed n = { s with bank := (s.committed n).bank, transfer := (s.sourceReady n).transfer } := by
  obtain ⟨b, hclamp⟩ : ∃ b, s.clampSet n = { s with bank := b } := ⟨_, s.clampSet_bank n⟩
  unfold State.committed
  rw [hclamp]
  unfold State.sourceReady
  by_cases h : s.transfer.state = .waiting ∧ s.transfer.current = some n
  · rw [if_pos h, if_pos (by exact h)]; rfl
  · rw [if_neg h, if_neg (by exact h)]; rfl

theorem State.sourceReady_idle (h : ¬(s.transfer.state = .waiting ∧ s.transfer.current = some n)) : s.sourceReady n = s :=
  if_neg h

/-- A step that changes the bank alone, after one that is known. -/
theorem State.bank_change {q : NoticeQueue} {x : PartCounters} (h : t = { u with bank := t.bank })
    (hu : u = { s with bank := u.bank, lane0 := u.lane0, lane1 := u.lane1, notices := q, counters := x }) :
    t = { s with bank := t.bank, lane0 := t.lane0, lane1 := t.lane1, notices := q, counters := x } := by
  have h0 := congrArg State.lane0 h
  have h1 := congrArg State.lane1 h
  rw [hu] at h
  exact h.trans (State.eq_of_parts rfl rfl h0.symm h1.symm rfl rfl rfl rfl rfl rfl rfl rfl)

/-- The words after a commit that found no double error. -/
theorem State.committed_words (hwf : t.bankWf) (h : s.RowRead n 0 50 t) :
    (∀ a, ¬(n.val * 64 ≤ a ∧ a < n.val * 64 + 50) → (t.committed n).bankAt a = s.bankAt a)
      ∧ ∀ w : WordNo, ((t.committed n).bankAt (n.val * 64 + w.val)).flipped = []
          ∧ ((t.committed n).bankAt (n.val * 64 + w.val)).value.toInt =
              inRange (commitRange (s.wordInt n 8) w.val) (s.wordInt n w.val) := by
  refine ⟨fun a ha => ?_, fun w => ?_⟩
  · rw [State.committed_bankAt, State.clampSet_elsewhere hwf ha, h, if_neg (by simpa using ha)]
  · rw [State.committed_bankAt, ← h.wordInt n 8, ← h.wordInt n w.val]
    exact State.clampSet_word hwf n w

theorem State.RowRead.set (h : s.RowRead n 0 50 t) (w : WordNo) :
    t.bankAt (n.val * 64 + w.val) = (s.bankAt (n.val * 64 + w.val)).afterRead :=
  (h _).trans (if_pos (by have := w.isLt; omega))

theorem State.RowRead.elsewhere (h : s.RowRead n 0 50 t) {a : Nat} (ha : ¬(n.val * 64 ≤ a ∧ a < n.val * 64 + 50)) :
    t.bankAt a = s.bankAt a :=
  (h a).trans (if_neg (by simpa using ha))

/-- COMMIT SET of a LOADING set under no hold DESTINATION. -/
theorem State.commitSet_loading {imm : BitVec 9} (himm : imm.toNat = n.val) (hn : (s.record n).state = .loading)
    (hh : (s.record n).hold ≠ .destination) : s.commitSet imm = s.commitLoading n := by
  rw [State.commitSet_known himm, State.commitKnown, hn]
  exact if_neg hh

/-- Settles O13, by the reads of the 50 words and what the commit makes of them. -/
theorem commitSetOfALoadingSet : Obligations.CommitSetOfALoadingSet := by
  intro imm n s ha hs himm hn hh hwait cs bad
  have hcs : cs = allWords.map (s.cell n) := by rw [allWords_eq]; exact State.cells_eq s n 0 50
  have hnodup : allWords.Nodup := List.nodup_range
  obtain ⟨hvalues, hread⟩ := State.readAll_spec hs.1 hnodup (.inl hwait)
  have hcommit := State.commitLoading_eq hvalues
  have hrow : s.RowRead n 0 50 (s.readAll n allWords).1 := State.AfterReads.row (by rw [← allWords_eq]; exact hread)
  have hexec := fun t r h => execCommitSet_eq ha (t := t) (r := r) ((State.commitSet_loading himm hn hh).trans h)
  have hfree : (s.record n).state ≠ .free := by rw [hn]; decide
  generalize (s.readAll n allWords).1 = u at hread hcommit hrow
  obtain ⟨hwf, heq, hlane, hrecord, -⟩ := hread
  rw [decide_eq_false hfree, ← hcs] at heq
  rw [← hcs] at hlane hrecord
  by_cases hbad : 0 < doubles cs
  · rw [if_pos hbad] at hcommit
    refine ⟨_, hexec _ _ hcommit, ?_, fun l => ?_, fun m => ?_, fun a ha => hrow.elsewhere ha, fun w => ?_⟩
    · rw [if_pos hbad]
      exact congrArg (State.answered · 5 7 []) heq
    · refine (hlane l).trans (if_congr ⟨fun h => ⟨hbad, h.1⟩, fun h => ⟨h.2, hbad, hfree, ?_⟩⟩ rfl rfl)
      rw [hn]; decide
    · refine (hrecord m).trans ?_
      rw [if_pos hbad]
      exact if_congr (and_iff_left ⟨hbad, hfree⟩) rfl rfl
    · rw [if_pos hbad]
      exact hrow.set w
  · rw [if_neg hbad] at hcommit
    have hidle : u.committed n = { u with bank := (u.committed n).bank } :=
      (State.committed_eq u n).trans (by rw [State.sourceReady_idle (s := u) (by rw [heq]; exact hwait)])
    have hu : ∀ m, u.record m = s.record m := fun m => (hrecord m).trans (if_neg fun h => hbad h.2.1)
    obtain ⟨hout, hin⟩ := State.committed_words hwf hrow
    have hcrecord := State.committed_record u n
    generalize u.committed n = c at hcommit hidle hout hin hcrecord
    refine ⟨_, hexec _ _ hcommit, ?_, fun l => ?_, fun m => ?_, fun a ha => hout a ha, fun w => ?_⟩
    · rw [if_neg hbad]
      exact congrArg (State.answered · 5 0 []) (State.bank_change hidle heq)
    · have hclane : c.lane l = u.lane l := by rw [hidle]; cases l <;> rfl
      refine (hclane.trans (hlane l)).trans ?_
      rw [if_neg fun h => hbad h.2.1]
      exact (if_neg fun h => hbad h.1).symm
    · refine (hcrecord m).trans ?_
      rw [if_neg hbad, hu, hu]
    · rw [if_neg hbad]
      exact hin w

end Sys2Proof.Machine
end

section
/-! SUPPORT. READ in BANK, through the checked reads of its words (R153, R154, R155). -/

namespace Sys2Proof.Machine

variable {s t u : State} {l k : Lane} {n m : SetNo} {w : Nat} {ws : List Nat}

/-- The pointer outside a patch window after a READ of `k` words; in one it stands still (R155). -/
def Decoder.afterRead (x : Decoder) (k : Nat) : Decoder :=
  { x with pointer := if x.origin = none then { x.pointer with addr := x.pointer.addr + k } else x.pointer }

theorem State.advanceRead_decoder (s : State) (k : Nat) :
    s.advanceRead k = { s with decoder := s.decoder.afterRead k } := by
  rw [State.advanceRead_eq]
  unfold Decoder.afterRead
  split <;> rfl

/-- READ in BANK serves the words up to the end of the pointer's set by checked reads. -/
theorem State.readCommand_bank {imm : BitVec 9} (h1 : 1 ≤ imm.toNat) (h16 : imm.toNat ≤ 16)
    (hb : s.decoder.pointer.region = .bank) (ha : s.decoder.pointer.addr = n.val * 64 + w) (hw : w ≤ 50) :
    s.readCount imm.toNat = min imm.toNat (50 - w)
      ∧ s.readCommand imm =
          let r := s.readAll n ((List.range (min imm.toNat (50 - w))).map (· + w))
          (r.1.advanceRead (min imm.toNat (50 - w)), ⟨readResult r.2, r.2.map (·.getD 0)⟩) := by
  have hdiv : (n.val * 64 + w) / 64 = n.val := by omega
  have hmod : (n.val * 64 + w) % 64 = w := by omega
  have hcount : s.readCount imm.toNat = min imm.toNat (50 - w) := by
    have hstop : s.decoder.pointer.stop = n.val * 64 + 50 := by
      unfold Pointer.stop
      rw [hb]
      show s.decoder.pointer.addr / 64 * 64 + 50 = _
      rw [ha, hdiv]
    unfold State.readCount
    rw [hstop, ha, Nat.add_sub_add_left]
  refine ⟨hcount, ?_⟩
  have hset : setOfNat (s.decoder.pointer.addr / Config.setStride) = some n := by
    rw [ha, show (n.val * 64 + w) / Config.setStride = n.val from hdiv, setOfNat_val]
  have hword : s.decoder.pointer.addr % Config.setStride = w := by rw [ha]; exact hmod
  unfold State.readCommand
  rw [if_neg (by omega), hcount]
  dsimp only
  rw [if_pos hb, State.readBank, hset]
  dsimp only
  rw [hword]

theorem readResult_values (cs : List Cell) :
    (readResult (cs.map Cell.readValue)).code = if 0 < doubles cs then 7 else 0 := by
  unfold readResult
  rw [any_isNone_readValue]
  by_cases h : 0 < doubles cs <;> simp only [h, decide_true, decide_false, if_true, if_false] <;> rfl

theorem readValue_getD (cs : List Cell) :
    (cs.map Cell.readValue).map (·.getD 0) = cs.map fun c => if 2 ≤ c.flipped.length then 0 else c.value := by
  rw [List.map_map]
  refine List.map_congr_left fun c _ => ?_
  show (Cell.readValue c).getD 0 = _
  unfold Cell.readValue
  split <;> rfl

/-- READ in BANK answers with the values that the reads find. -/
theorem execRead_bank (h : s.accepts 1) {imm : BitVec 9} (h1 : 1 ≤ imm.toNat) (h16 : imm.toNat ≤ 16)
    (hb : s.decoder.pointer.region = .bank) (ha : s.decoder.pointer.addr = n.val * 64 + w) (hw : w ≤ 50)
    (hroom : s.responses.length + 1 + min imm.toNat (50 - w) ≤ 32)
    (hread : s.readAll n ((List.range (min imm.toNat (50 - w))).map (· + w)) =
      (t, (s.cells n w (min imm.toNat (50 - w))).map Cell.readValue)) :
    exec (.read imm) s =
      .next (State.answered { t with decoder := t.decoder.afterRead (min imm.toNat (50 - w)) } 2
        (if 0 < doubles (s.cells n w (min imm.toNat (50 - w))) then 7 else 0)
        ((s.cells n w (min imm.toNat (50 - w))).map fun c => if 2 ≤ c.flipped.length then 0 else c.value)) := by
  obtain ⟨hcount, hcommand⟩ := State.readCommand_bank h1 h16 hb ha hw
  rw [hread] at hcommand
  have hneed : s.dataNeed ⟨2#6, .zero, imm⟩ = s.readCount imm.toNat := (s.dataNeed_read .zero imm).trans (if_neg (by omega))
  have hfits : s.dataNeed ⟨2#6, .zero, imm⟩ ≤ s.roomAvailable 0 false := by
    rw [hneed, hcount, State.roomAvailable_alone]; omega
  rw [execRead_eq h, State.execCommand_served _ _ _ _ _ hfits, State.runCommand_read, hcommand, State.respond_eq]
  dsimp only
  rw [State.advanceRead_decoder, readResult_values, readValue_getD]
  rfl

/-- Settles O20, by the reads of the words up to the end of the pointer's set. -/
theorem readInTheBank : Obligations.ReadInTheBank := by
  intro imm n w s ha hs h1 h16 hb haddr hw hwait k cs free hroom
  obtain ⟨hvalues, hread⟩ := State.readAll_spec hs.1 (row_nodup w k) (.inl hwait)
  have hcs : ((List.range k).map (· + w)).map (s.cell n) = cs := (State.cells_eq s n w k).symm
  have hfound : s.readAll n ((List.range k).map (· + w)) =
      ((s.readAll n ((List.range k).map (· + w))).1, cs.map Cell.readValue) :=
    Prod.ext rfl (hvalues.trans (by rw [← hcs]; simp only [List.map_map]; rfl))
  have hexec := execRead_bank ha h1 h16 hb haddr hw hroom hfound
  generalize (s.readAll n ((List.range k).map (· + w))).1 = u at hread hexec
  have hrow : s.RowRead n w k u := hread.row
  obtain ⟨-, heq, hlane, hrecord, -⟩ := hread
  rw [hcs] at heq hlane hrecord
  have part {α : Type} (f : State → α) := congrArg f heq
  have hdecoder : u.decoder = s.decoder := part State.decoder
  rw [hdecoder] at hexec
  have hpointer : s.decoder.afterRead k = { s.decoder with
      pointer :=
        if s.decoder.origin = none then { s.decoder.pointer with addr := n.val * 64 + w + k } else s.decoder.pointer } := by
    unfold Decoder.afterRead
    rw [haddr]
  refine ⟨_, hexec, ?_, fun l => ?_, fun m => ?_, hrow⟩
  · refine congrArg (State.answered · 2 _ _) ?_
    rw [← hpointer]
    exact part fun x => { x with decoder := s.decoder.afterRead k }
  · refine (State.lane_congr l rfl rfl).trans ((hlane l).trans (if_congr ?_ rfl rfl))
    simp only [free, decide_eq_false_iff_not, State.Quarantines]
  · refine (hrecord m).trans (if_congr ?_ rfl rfl)
    simp only [free, decide_eq_false_iff_not]

end Sys2Proof.Machine
end

section
/-! SUPPORT. How a waiting transfer learns of its source: the checked reads of a LOADING set that it waits on (R168, R174;
log entry 12). -/

namespace Sys2Proof.Machine

variable {s t u : State} {l k : Lane} {n m : SetNo} {w : Nat} {ws : List Nat}

/-- A transfer waits on the set, which is LOADING and no lane's current set. -/
structure State.SourceWaits (s : State) (n : SetNo) : Prop where
  waiting : s.transfer.state = .waiting
  source : s.transfer.current = some n
  loading : (s.record n).state = .loading
  unserved : ∀ l, (s.lane l).selection.current ≠ some n

/-- The transfer after its source has been read, with a double error or without one. -/
def Transfer.afterSource (x : Transfer) (bad : Bool) : Transfer :=
  if bad = false then x
  else if x.mode = .copy then { x with state := .done, outcome := some .notReady }
  else { x with state := .active }

theorem Transfer.afterSource_copy {x : Transfer} (h : x.mode = .copy) :
    x.afterSource true = { x with state := .done, outcome := some .notReady } := if_pos h

theorem Transfer.afterSource_dump {x : Transfer} (h : x.mode ≠ .copy) : x.afterSource true = { x with state := .active } :=
  if_neg h

/-- The records after the waiting transfer's source has been read, with a double error or without one. -/
def State.sourceRecord (s : State) (n : SetNo) (bad : Bool) (m : SetNo) : SetRecord :=
  { s.record m with
    state := if m = n ∧ bad = true then .quarantined else (s.record m).state
    hold := if decide (bad = true ∧ s.transfer.mode = .copy) then .none else (s.record m).hold }

/-- The notices after reads of the waiting transfer's source. -/
def State.sourceNotices (s : State) (n : SetNo) (cs : List Cell) : NoticeQueue :=
  if s.transfer.mode = .copy then s.notices.afterSourceReads n cs else s.notices.afterReads n false cs

theorem State.sourceRecord_good (s : State) (n m : SetNo) : s.sourceRecord n false m = s.record m := by
  simp [State.sourceRecord]

theorem State.sourceRecord_dump (h : s.transfer.mode ≠ .copy) (n m : SetNo) :
    s.sourceRecord n true m = if m = n then { s.record n with state := .quarantined } else s.record m := by
  unfold State.sourceRecord
  rw [decide_eq_false fun hc => h hc.2]
  by_cases e : m = n
  · subst e
    simp
  · simp [e]

theorem State.sourceRecord_copy (h : s.transfer.mode = .copy) (n m : SetNo) :
    s.sourceRecord n true m =
      { s.record m with state := if m = n then .quarantined else (s.record m).state, hold := .none } := by
  simp [State.sourceRecord, h]

/-- The quarantine of a set that a transfer waits on makes a DUMP ACTIVE and ends a COPY NOT READY (R168, R174). -/
theorem State.quarantine_source (hw : s.transfer.state = .waiting) (hc : s.transfer.current = some n) :
    (s.quarantine n).transfer = s.transfer.afterSource true
      ∧ (∀ m, (s.quarantine n).record m = s.sourceRecord n true m)
      ∧ (s.quarantine n).bank.words = s.bank.words
      ∧ (s.quarantine n).notices =
          if s.transfer.mode = .copy then (s.notices.add .setQuarantined none n.val).add .transferDone none 3
          else s.notices.add .setQuarantined none n.val := by
  obtain ⟨x, hx, htransfer, hrecord, hwords, hnotices⟩ : ∃ x : State, s.quarantine n = x.sourceQuarantined n
      ∧ x.transfer = s.transfer
      ∧ (∀ m, x.record m = if m = n then { s.record n with state := .quarantined } else s.record m)
      ∧ x.bank.words = s.bank.words ∧ x.notices = s.notices.add .setQuarantined none n.val := by
    refine ⟨_, rfl, ?_, fun m => ?_, ?_, ?_⟩
    · simp only [State.dropCurrentIf_outside]; rfl
    · unfold State.record
      simp only [State.dropCurrentIf_outside]
      exact State.setSetState_record s n m _
    · simp only [State.dropCurrentIf_outside]; rfl
    · simp only [State.dropCurrentIf_outside]; rfl
  have hwaits : x.transfer.state = .waiting ∧ x.transfer.current = some n := by rw [htransfer]; exact ⟨hw, hc⟩
  rw [hx, State.sourceQuarantined, if_pos hwaits, htransfer]
  by_cases hmode : s.transfer.mode = .copy
  · rw [if_pos hmode, if_pos hmode, Transfer.afterSource_copy hmode, State.endTransfer_eq _ _ (.inr (by decide)), htransfer]
    refine ⟨rfl, fun m => ?_, hwords, by rw [hnotices]; rfl⟩
    refine (State.releaseHolds_record (s := x) (m := m)).trans ?_
    rw [State.sourceRecord_copy hmode, hrecord]
    by_cases e : m = n
    · rw [if_pos e, if_pos e, e]
    · rw [if_neg e, if_neg e]
  · rw [if_neg hmode, if_neg hmode, Transfer.afterSource_dump hmode]
    exact ⟨rfl, fun m => (hrecord m).trans (State.sourceRecord_dump hmode n m).symm, hwords, hnotices⟩

/-! ## Reads of the source -/

/-- From `s` to `t` the words `ws` of the set that a transfer waits on have been read. -/
structure State.AfterSourceReads (s : State) (n : SetNo) (ws : List Nat) (t : State) : Prop where
  wf : t.bankWf
  eq : t = { s with
    bank := t.bank
    notices := s.sourceNotices n (ws.map (s.cell n))
    counters := s.counters.afterReads (ws.map (s.cell n))
    transfer := s.transfer.afterSource (decide (0 < doubles (ws.map (s.cell n)))) }
  record : ∀ m, t.record m = s.sourceRecord n (decide (0 < doubles (ws.map (s.cell n)))) m
  word : ∀ a, t.bankAt a = if ∃ w ∈ ws, a = n.val * 64 + w then (s.bankAt a).afterRead else s.bankAt a

theorem State.AfterSourceReads.nil (hs : s.bankWf) : s.AfterSourceReads n [] s where
  wf := hs
  eq := State.eq_of_parts rfl rfl rfl rfl rfl rfl rfl rfl (ite_self _).symm rfl rfl rfl
  record m := (s.sourceRecord_good n m).symm
  word _ := (if_neg fun ⟨_, hw, _⟩ => nomatch hw).symm

/-- A read that finds no double error leaves the transfer waiting. -/
theorem State.SourceWaits.afterReads (h : s.SourceWaits n) (hr : s.AfterReads n ws t)
    (hd : doubles (ws.map (s.cell n)) = 0) :
    t.SourceWaits n ∧ (∀ m, t.record m = s.record m) ∧ ∀ l, t.lane l = s.lane l := by
  have hnone : ¬0 < doubles (ws.map (s.cell n)) := by omega
  have hrecord m : t.record m = s.record m := (hr.record m).trans (if_neg fun hc => hnone hc.2.1)
  have hlane l : t.lane l = s.lane l := (hr.lane l).trans (if_neg fun hc => hnone hc.2.1)
  obtain ⟨hw, hc, hl, hu⟩ := h
  refine ⟨⟨by rwa [hr.transfer], by rwa [hr.transfer], by rwa [hrecord], fun l => ?_⟩, hrecord, hlane⟩
  rw [hlane]
  exact hu l

/-- A read that finds a double error in the source (R36, R168). -/
theorem State.SourceWaits.doubleError (h : s.SourceWaits n) :
    s.doubleError n = { s with
        bank := (s.doubleError n).bank
        notices :=
          if s.transfer.mode = .copy then (s.notices.add .setQuarantined none n.val).add .transferDone none 3
          else s.notices.add .setQuarantined none n.val
        counters := { s.counters with storageError := raised s.counters.storageError 1 }
        transfer := s.transfer.afterSource true }
      ∧ (∀ m, (s.doubleError n).record m = s.sourceRecord n true m)
      ∧ (s.doubleError n).bank.words = s.bank.words := by
  obtain ⟨hw, hc, hl, hu⟩ := h
  obtain ⟨hpending, hcond, hdecoder, hresponses, hlink, hports⟩ := s.doubleError_outside n
  rw [State.doubleError_quarantines (s := s) (by rw [hl]; decide) (by rw [hl]; decide)] at *
  obtain ⟨htransfer, hrecord, hwords, hnotices⟩ := State.quarantine_source
    (s := { s with counters := { s.counters with storageError := raised s.counters.storageError 1 } }) hw hc
  obtain ⟨-, -, -, -, -, -, hcounters⟩ := State.quarantine_outside
    (s := { s with counters := { s.counters with storageError := raised s.counters.storageError 1 } }) (n := n)
  have hlane k := State.quarantine_lane_eq
    (s := { s with counters := { s.counters with storageError := raised s.counters.storageError 1 } }) (n := n) (k := k)
  exact ⟨State.eq_of_parts hpending hcond ((hlane .zero).trans (if_neg (hu .zero))) ((hlane .one).trans (if_neg (hu .one)))
    rfl hdecoder hresponses htransfer hnotices hcounters hlink hports, hrecord, hwords⟩

/-- One read that finds no double error, then the others. -/
theorem State.AfterSourceReads.cons (h1 : s.AfterReads n [w] t) (hd : doubles ([w].map (s.cell n)) = 0)
    (hs : s.SourceWaits n) (h2 : t.AfterSourceReads n ws u) (hw : w ∉ ws) : s.AfterSourceReads n (w :: ws) u := by
  have hcells : ws.map (t.cell n) = ws.map (s.cell n) :=
    List.map_congr_left fun v hv => h1.cell fun e => hw (e ▸ hv)
  obtain ⟨-, hrecord, hlane⟩ := hs.afterReads h1 hd
  have htransfer := h1.transfer
  have hloading := hs.loading
  obtain ⟨-, eq1, -, -, word1⟩ := h1
  obtain ⟨wf2, eq2, record2, word2⟩ := h2
  rw [hcells] at eq2 record2
  have hsum : doubles ((w :: ws).map (s.cell n)) = doubles (ws.map (s.cell n)) := by
    rw [List.map_cons, doubles_cons, ← List.map_singleton, hd, Nat.zero_add]
  have hsmall : ¬2 ≤ (s.cell n w).flipped.length := by
    rw [List.map_singleton, doubles_one] at hd
    exact fun h => absurd ((if_pos h).symm.trans hd) (by decide)
  refine ⟨wf2, ?_, fun m => ?_, fun a => ?_⟩
  · have part1 {α : Type} (f : State → α) := congrArg f eq1
    have part2 {α : Type} (f : State → α) := congrArg f eq2
    refine State.eq_of_parts ((part2 State.pending).trans (part1 State.pending))
      ((part2 State.cond).trans (part1 State.cond)) ((part2 State.lane0).trans (hlane .zero))
      ((part2 State.lane1).trans (hlane .one)) rfl
      ((part2 State.decoder).trans (part1 State.decoder)) ((part2 State.responses).trans (part1 State.responses))
      ((part2 State.transfer).trans ?_) ((part2 State.notices).trans ?_) ((part2 State.counters).trans ?_)
      ((part2 State.link).trans (part1 State.link)) ((part2 State.ports).trans (part1 State.ports))
    · rw [hsum]
      exact congrArg (Transfer.afterSource · _) htransfer
    · have hone : t.notices = s.notices.afterReads n false [s.cell n w] :=
        (part1 State.notices).trans (by rw [hloading]; rfl)
      show t.sourceNotices n (ws.map (s.cell n)) = s.sourceNotices n (s.cell n w :: ws.map (s.cell n))
      unfold State.sourceNotices
      rw [htransfer, hone, NoticeQueue.afterSourceReads, if_neg hsmall]
      rfl
    · show t.counters.afterReads (ws.map (s.cell n)) = s.counters.afterReads (s.cell n w :: ws.map (s.cell n))
      rw [PartCounters.afterReads_cons]
      exact congrArg (PartCounters.afterReads · _) (part1 State.counters)
  · rw [record2, hsum, State.sourceRecord, hrecord, htransfer]
    rfl
  · rw [word2]
    by_cases ha : a = n.val * 64 + w
    · rw [(word1 a).trans (if_pos ⟨w, List.mem_singleton_self w, ha⟩)]
      refine (if_neg ?_).trans (if_pos ⟨w, List.mem_cons_self .., ha⟩).symm
      rintro ⟨v, hv, e⟩
      exact hw (by rwa [show w = v by omega])
    · rw [(word1 a).trans (if_neg fun ⟨v, hv, e⟩ => ha (List.mem_singleton.mp hv ▸ e))]
      exact if_congr (by rw [List.exists_mem_cons_iff]; exact (or_iff_right ha).symm) rfl rfl

/-- The first read that finds a double error, then the others: the transfer waits no more. -/
theorem State.AfterSourceReads.cons_double (h : 2 ≤ (s.cell n w).flipped.length) (hs : s.SourceWaits n)
    (h2 : (s.doubleError n).AfterReads n ws u) : s.AfterSourceReads n (w :: ws) u := by
  obtain ⟨eq1, record1, words1⟩ := hs.doubleError
  have hsame (a : Nat) : (s.doubleError n).bankAt a = s.bankAt a := by unfold State.bankAt; rw [words1]
  generalize s.doubleError n = t at *
  have hcells : ws.map (t.cell n) = ws.map (s.cell n) := List.map_congr_left fun v _ => hsame _
  have hquarantined : (t.record n).state = .quarantined := by
    rw [record1]
    exact if_pos ⟨rfl, rfl⟩
  have hpos : decide (0 < doubles ((w :: ws).map (s.cell n))) = true := by
    rw [decide_eq_true_iff, doubles_pos]
    exact ⟨_, List.mem_cons_self .., h⟩
  have hone : (s.cell n w).flipped.length ≠ 1 := by omega
  obtain ⟨wf2, eq2, lane2, record2, word2⟩ := h2
  rw [hcells, hquarantined] at eq2
  have hlane l : u.lane l = t.lane l := (lane2 l).trans (if_neg fun hc => hc.2.2.2 hquarantined)
  refine ⟨wf2, ?_, fun m => ?_, fun a => ?_⟩
  · have part1 {α : Type} (f : State → α) := congrArg f eq1
    have part2 {α : Type} (f : State → α) := congrArg f eq2
    refine State.eq_of_parts ((part2 State.pending).trans (part1 State.pending))
      ((part2 State.cond).trans (part1 State.cond)) ((hlane .zero).trans (part1 State.lane0))
      ((hlane .one).trans (part1 State.lane1)) rfl
      ((part2 State.decoder).trans (part1 State.decoder)) ((part2 State.responses).trans (part1 State.responses))
      ((part2 State.transfer).trans ?_) ((part2 State.notices).trans ?_) ((part2 State.counters).trans ?_)
      ((part2 State.link).trans (part1 State.link)) ((part2 State.ports).trans (part1 State.ports))
    · rw [hpos]
      exact part1 State.transfer
    · show t.notices.afterReads n false (ws.map (s.cell n)) = s.sourceNotices n (s.cell n w :: ws.map (s.cell n))
      have hnotices := part1 State.notices
      unfold State.sourceNotices
      dsimp only at hnotices
      by_cases hmode : s.transfer.mode = .copy
      · rw [if_pos hmode] at hnotices
        rw [hnotices, if_pos hmode, NoticeQueue.afterSourceReads, if_pos h]
      · rw [if_neg hmode] at hnotices
        rw [hnotices, if_neg hmode, NoticeQueue.afterReads_cons s.notices, NoticeQueue.afterReads, if_neg hone,
          if_pos ⟨h, rfl⟩]
        rfl
    · show t.counters.afterReads (ws.map (s.cell n)) = s.counters.afterReads (s.cell n w :: ws.map (s.cell n))
      rw [PartCounters.afterReads_cons]
      refine congrArg (PartCounters.afterReads · _) ((part1 State.counters).trans ?_)
      simp [PartCounters.afterReads, singles_one, doubles_one, raisedBy, raised, h, hone]
  · rw [hpos, ← record1, record2]
    by_cases hc : m = n ∧ 0 < doubles (ws.map (t.cell n)) ∧ (t.record n).state ≠ .free
    · rw [if_pos hc, hc.1, ← hquarantined]
    · rw [if_neg hc]
  · rw [word2, hsame]
    by_cases ha : a = n.val * 64 + w
    · have hread : (s.bankAt a).afterRead = s.bankAt a := by rw [ha, State.bankAt_cell]; exact if_neg hone
      rw [hread, ite_self, ite_self]
    · exact if_congr (by rw [List.exists_mem_cons_iff]; exact (or_iff_right ha).symm) rfl rfl

/-- The values and the state that checked reads of a waiting transfer's source give. -/
theorem State.readAll_source (hwf : s.bankWf) (hs : s.SourceWaits n) (hd : ws.Nodup) :
    (s.readAll n ws).2 = ws.map (fun w => (s.cell n w).readValue) ∧ s.AfterSourceReads n ws (s.readAll n ws).1 := by
  induction ws generalizing s with
  | nil => exact ⟨rfl, .nil hwf⟩
  | cons w ws ih =>
    obtain ⟨hw, hd⟩ := List.nodup_cons.mp hd
    rw [State.readAll_cons, List.map_cons]
    by_cases h : 2 ≤ (s.cell n w).flipped.length
    · obtain ⟨eq1, -, words1⟩ := hs.doubleError
      have hidle : ¬((s.doubleError n).transfer.state = .waiting ∧ (s.doubleError n).transfer.current = some n) := by
        rw [eq1]
        intro hc
        by_cases hmode : s.transfer.mode = .copy
        · rw [Transfer.afterSource_copy hmode] at hc
          exact nomatch hc.1
        · rw [Transfer.afterSource_dump hmode] at hc
          exact nomatch hc.1
      have hwf' : (s.doubleError n).bankWf := by
        unfold State.bankWf
        rwa [words1]
      have hcell (v : Nat) : (s.doubleError n).cell n v = s.cell n v := by unfold State.cell; rw [words1]
      obtain ⟨hvalues, hall⟩ := State.readAll_spec hwf' hd (.inl hidle)
      rw [State.readWord_double h]
      refine ⟨?_, .cons_double h hs hall⟩
      dsimp only
      rw [hvalues]
      simp only [hcell]
      exact congrArg (· :: _) (if_pos h).symm
    · obtain ⟨hvalue, hafter⟩ := State.readWord_found hwf (n := n) (w := w) (by omega)
      have hnone : doubles ([w].map (s.cell n)) = 0 := by
        rw [List.map_singleton, doubles_one, if_neg h]
      obtain ⟨hwaits, -, -⟩ := hs.afterReads hafter hnone
      obtain ⟨hvalues, hall⟩ := ih hafter.wf hwaits hd
      refine ⟨?_, .cons hafter hnone hs hall hw⟩
      rw [hvalues, hafter.readValues hw, hvalue]
      exact congrArg (· :: _) (if_neg h).symm

end Sys2Proof.Machine
end

section
/-! SUPPORT. How a transfer leaves WAITING (R168, R174; log entries 6, 12, 13). -/

namespace Sys2Proof.Machine

variable {s t u : State} {l k : Lane} {n m : SetNo} {w : Nat} {ws : List Nat}

theorem State.AfterSourceReads.row {k : Nat} (h : s.AfterSourceReads n ((List.range k).map (· + w)) t) :
    s.RowRead n w k t :=
  fun a => (h.word a).trans (if_congr exists_row_iff rfl rfl)

theorem readValue_one (c : Cell) : c.readValue = if decide (0 < doubles [c]) = true then none else some c.value := by
  unfold Cell.readValue
  rw [doubles_one]
  by_cases h : 2 ≤ c.flipped.length <;> simp [h]

/-- One checked read of the source. -/
theorem State.SourceWaits.readWord (hwf : s.bankWf) (hs : s.SourceWaits n) (w : Nat) :
    s.readWord n w = ((s.readWord n w).1, (s.cell n w).readValue) ∧ s.AfterSourceReads n [w] (s.readWord n w).1 := by
  obtain ⟨hvalues, hread⟩ := State.readAll_source hwf hs (List.nodup_singleton w)
  exact ⟨Prod.ext rfl (List.head_eq_of_cons_eq hvalues), hread⟩

/-- The source when a commit of it answers. -/
theorem State.SourceWaits.commit (ha : s.accepts 1) (hwf : s.bankWf) (hs : s.SourceWaits n) {imm : BitVec 9}
    (himm : imm.toNat = n.val) (hh : (s.record n).hold ≠ .destination) :
    let cs := s.cells n 0 50
    let bad := decide (0 < doubles cs)
    ∃ t, exec (.commitSet imm) s = .next t
      ∧ t = State.answered
          { s with
            bank := t.bank, notices := s.sourceNotices n cs, counters := s.counters.afterReads cs
            transfer := if bad then s.transfer.afterSource true else { s.transfer with state := .active } }
          5 (if bad then 7 else 0) []
      ∧ (∀ m : SetNo, t.record m =
          if bad = false ∧ m = n then { s.record n with state := .ready, frozen := false } else s.sourceRecord n bad m)
      ∧ (∀ a : Nat, ¬(n.val * 64 ≤ a ∧ a < n.val * 64 + 50) → t.bankAt a = s.bankAt a)
      ∧ ∀ w : WordNo,
          if bad then t.bankAt (n.val * 64 + w.val) = (s.bankAt (n.val * 64 + w.val)).afterRead
          else (t.bankAt (n.val * 64 + w.val)).flipped = []
            ∧ t.wordInt n w.val = inRange (commitRange (s.wordInt n 8) w.val) (s.wordInt n w.val) := by
  intro cs bad
  have hcs : cs = allWords.map (s.cell n) := by rw [allWords_eq]; exact State.cells_eq s n 0 50
  obtain ⟨hvalues, hread⟩ := State.readAll_source hwf hs (ws := allWords) List.nodup_range
  have hcommit := State.commitLoading_eq hvalues
  have hrow : s.RowRead n 0 50 (s.readAll n allWords).1 := State.AfterSourceReads.row (by rw [← allWords_eq]; exact hread)
  have hexec := fun t r h => execCommitSet_eq ha (t := t) (r := r) ((State.commitSet_loading himm hs.loading hh).trans h)
  generalize (s.readAll n allWords).1 = u at hread hcommit hrow
  obtain ⟨hwfu, heq, hrecord, -⟩ := hread
  rw [← hcs] at heq hrecord
  by_cases hbad : 0 < doubles cs
  · have hb : bad = true := decide_eq_true hbad
    rw [if_pos hbad] at hcommit
    rw [decide_eq_true hbad] at heq hrecord
    rw [hb]
    exact ⟨_, hexec _ _ hcommit, congrArg (State.answered · 5 7 []) heq, hrecord, fun a ha => hrow.elsewhere ha,
      fun w => hrow.set w⟩
  · have hb : bad = false := decide_eq_false hbad
    rw [if_neg hbad] at hcommit
    rw [decide_eq_false hbad] at heq hrecord
    have part {α : Type} (f : State → α) := congrArg f heq
    have htransfer : u.transfer = s.transfer := part State.transfer
    have hready : (u.sourceReady n).transfer = { s.transfer with state := .active } := by
      unfold State.sourceReady
      rw [htransfer, if_pos ⟨hs.waiting, hs.source⟩]
    have hc := State.committed_eq u n
    obtain ⟨hout, hin⟩ := State.committed_words hwfu hrow
    have hcrecord := State.committed_record u n
    rw [hready] at hc
    generalize u.committed n = c at hcommit hc hout hin hcrecord
    rw [hb]
    refine ⟨_, hexec _ _ hcommit, congrArg (State.answered · 5 0 []) (hc.trans ?_), fun m => ?_, hout, hin⟩
    · exact State.eq_of_parts (part State.pending) (part State.cond) (part State.lane0) (part State.lane1) rfl
        (part State.decoder) (part State.responses) rfl (part State.notices) (part State.counters) (part State.link)
        (part State.ports)
    · refine (hcrecord m).trans ?_
      rw [hrecord, hrecord, s.sourceRecord_good, s.sourceRecord_good]
      exact if_congr (and_iff_right rfl).symm rfl rfl

/-- The source when a READ of its words answers. -/
theorem State.SourceWaits.read (ha : s.accepts 1) (hwf : s.bankWf) (hs : s.SourceWaits n) {imm : BitVec 9}
    (h1 : 1 ≤ imm.toNat) (h16 : imm.toNat ≤ 16) (hw : w ≤ 50) (hb : s.decoder.pointer.region = .bank)
    (haddr : s.decoder.pointer.addr = n.val * 64 + w) :
    let k := min imm.toNat (50 - w)
    let cs := s.cells n w k
    let bad := decide (0 < doubles cs)
    s.responses.length + 1 + k ≤ 32 →
    ∃ t, exec (.read imm) s = .next t
      ∧ t = State.answered
          { s with
            bank := t.bank, notices := s.sourceNotices n cs, counters := s.counters.afterReads cs
            transfer := s.transfer.afterSource bad
            decoder := s.decoder.afterRead k }
          2 (if bad then 7 else 0) (cs.map fun c => if 2 ≤ c.flipped.length then 0 else c.value)
      ∧ (∀ m : SetNo, t.record m = s.sourceRecord n bad m) ∧ s.RowRead n w k t := by
  intro k cs bad hroom
  obtain ⟨hvalues, hread⟩ := State.readAll_source hwf hs (row_nodup w k)
  have hcs : ((List.range k).map (· + w)).map (s.cell n) = cs := (State.cells_eq s n w k).symm
  have hfound : s.readAll n ((List.range k).map (· + w)) =
      ((s.readAll n ((List.range k).map (· + w))).1, cs.map Cell.readValue) :=
    Prod.ext rfl (hvalues.trans (by rw [← hcs]; simp only [List.map_map]; rfl))
  have hexec := execRead_bank ha h1 h16 hb haddr hw hroom hfound
  generalize (s.readAll n ((List.range k).map (· + w))).1 = u at hread hexec
  have hrow : s.RowRead n w k u := hread.row
  obtain ⟨-, heq, hrecord, -⟩ := hread
  rw [hcs] at heq hrecord
  have part {α : Type} (f : State → α) := congrArg f heq
  have hdecoder : u.decoder = s.decoder := part State.decoder
  rw [hdecoder] at hexec
  refine ⟨_, hexec, ?_, hrecord, hrow⟩
  simp only [bad, decide_eq_true_iff]
  exact congrArg (State.answered · 2 _ _) (part fun x => { x with decoder := s.decoder.afterRead k })

/-- Settles O35, way by way: the timeout, the READY source, the QUARANTINED one, and the reads, the commit and the READ
that find which of the two it is. -/
theorem waitingTransfer : Obligations.WaitingTransfer := by
  intro n s hw hc stopsCopy after noticesOf countersOf recordOf
  refine ⟨fun hcount => ⟨_, (execTransferTimeout_due hw hcount).trans (congrArg _ (State.countWait_ends hw hcount)), rfl,
    fun m => s.releaseHolds_record m⟩, if_pos ⟨hw, hc⟩, ?_, fun hload hs hun => ?_⟩
  · rintro t hload rfl
    obtain ⟨htransfer, hrecord, -, -⟩ := State.quarantine_source hw hc
    refine ⟨fun hmode => ⟨?_, fun m => ?_⟩, fun hmode => ⟨?_, fun m => ?_⟩⟩
    · rw [htransfer, Transfer.afterSource_dump hmode]
    · rw [hrecord, State.sourceRecord_dump hmode]
    · rw [htransfer, Transfer.afterSource_copy hmode]
    · rw [hrecord, State.sourceRecord_copy hmode]
  · have hwaits : s.SourceWaits n := ⟨hw, hc, hload, hun⟩
    refine ⟨fun w => ?_, fun imm ha himm hh => hwaits.commit ha hs.1 himm hh, fun imm w ha h1 h16 hw50 hb haddr => ?_⟩
    · obtain ⟨hread, -, heq, hrecord, hword⟩ := hwaits.readWord hs.1 w.val
      refine ⟨_, hread.trans (Prod.ext rfl ?_), heq, hrecord, fun a => ?_⟩
      · exact readValue_one _
      · refine (hword a).trans (if_congr ?_ rfl rfl)
        simp
    · intro k cs bad hroom
      have hanswer := hwaits.read ha hs.1 h1 h16 hw50 hb haddr hroom
      unfold Decoder.afterRead at hanswer
      rw [haddr] at hanswer
      exact hanswer

end Sys2Proof.Machine
end

section
/-! SUPPORT. A word movement: what the read gives, where the word goes, and how the transfer goes on or ends (R169, R170,
R171, R174). -/

namespace Sys2Proof.Machine

variable {s t u : State} {l k : Lane} {n m d : SetNo} {w : Nat} {v : Word}

/-! ## The read of a word movement -/

/-- A read that finds no double error leaves the records, and writes the word back when it corrected it. -/
theorem State.readWord_kept (hs : s.bankWf) (h : (s.cell n w).flipped.length ≤ 1) :
    ∃ t, s.readWord n w = (t, some (s.cell n w).value)
      ∧ t = { s with
          bank := { s.bank with words := t.bank.words }
          notices := if (s.cell n w).flipped = [] then s.notices else s.notices.add .storageCorrected none n.val
          counters :=
            { s.counters with
              storageCorrection :=
                if (s.cell n w).flipped = [] then s.counters.storageCorrection
                else min 65535 (s.counters.storageCorrection + 1) } }
      ∧ t.bankWf
      ∧ ∀ a, t.bankAt a = if a = n.val * 64 + w then { s.cell n w with flipped := [] } else s.bankAt a := by
  by_cases h0 : (s.cell n w).flipped = []
  · refine ⟨s, State.readWord_clean h0, ?_, hs, fun a => ?_⟩
    · rw [if_pos h0, if_pos h0]
    · rw [eq_comm, ite_eq_right_iff]
      rintro rfl
      rw [← h0]
      rfl
  · have h1 : (s.cell n w).flipped.length = 1 := by
      have := List.length_pos_iff.mpr h0
      omega
    refine ⟨_, State.readWord_single h1, ?_, State.putCell_wf hs n w ⟨(s.cell n w).value, []⟩,
      State.putCell_bankAt hs n w ⟨(s.cell n w).value, []⟩⟩
    rw [State.correctWord_eq, if_neg h0, if_neg h0]
    rfl

/-! ## Delivery and the current word's advance -/

theorem State.deliver_copy (hm : s.transfer.mode = .copy) (hd : s.transfer.destination = some d) (v : Word) :
    s.deliver v = s.writeWord d s.transfer.word v := by
  simp only [State.deliver, hm, hd]

theorem State.deliver_queue (hm : s.transfer.mode ≠ .copy) (v : Word) :
    s.deliver v = { s with responses := s.responses ++ [⟨.transfer, v⟩] } := by
  unfold State.deliver
  cases h : s.transfer.mode
  · exact absurd h hm
  · rfl
  · rfl

theorem State.advanceWord_more (hm : s.transfer.mode = .copy) (hw : s.transfer.word < 49) :
    s.advanceWord = { s with transfer := { s.transfer with word := s.transfer.word + 1 } } := by
  unfold State.advanceWord
  simp only [hm]
  exact if_neg (show ¬50 ≤ s.transfer.word + 1 by omega)

theorem State.advanceWord_last (hm : s.transfer.mode = .copy) (hw : s.transfer.word = 49) :
    s.advanceWord = State.endTransfer { s with transfer := { s.transfer with word := 50 } } .complete := by
  unfold State.advanceWord
  simp only [hm, hw]
  rfl

theorem State.advanceWord_queue (hm : s.transfer.mode ≠ .copy) :
    s.advanceWord = { s with transfer :=
      { s.transfer with
        word := s.transfer.word + 1
        phase := if s.transfer.announced ≤ s.transfer.word + 1 then .trailer else s.transfer.phase } } := by
  unfold State.advanceWord
  cases h : s.transfer.mode
  · exact absurd h hm
  all_goals
    dsimp only
    split
    · rfl
    · rfl

/-- A COPY's word that is not its last goes into the destination, and the current word advances (R169, R170). -/
theorem State.moved_copy (hs : s.bankWf) (hm : s.transfer.mode = .copy) (hd : s.transfer.destination = some d)
    (hw : s.transfer.word < 49) (v : Word) :
    ∃ t, (s.deliver v).advanceWord = t
      ∧ t = { s with
          bank := { s.bank with words := t.bank.words }, transfer := { s.transfer with word := s.transfer.word + 1 } }
      ∧ ∀ a, t.bankAt a = if a = d.val * 64 + s.transfer.word then { value := v, flipped := [] } else s.bankAt a := by
  refine ⟨_, rfl, ?_, fun a => ?_⟩
  · rw [State.deliver_copy hm hd, State.advanceWord_more (by exact hm) (by exact hw)]
    rfl
  · rw [State.deliver_copy hm hd, State.advanceWord_more (by exact hm) (by exact hw)]
    exact State.putCell_bankAt hs d s.transfer.word ⟨v, []⟩ a

/-- What the end of a COPY that is COMPLETE leaves in the bank (R29, R174). -/
theorem State.completed_record (s : State) (d m : SetNo) :
    (s.releaseHolds.completeCopy d).record m =
      if m = d then { s.record d with state := .ready, frozen := false, hold := .none }
      else { s.record m with hold := .none } := by
  rw [State.completeCopy_record, State.releaseHolds_record, State.releaseHolds_record]

theorem State.completed_bankAt (h : t.bank.words = s.bank.words) (d : SetNo) (a : Nat) :
    (t.releaseHolds.completeCopy d).bankAt a = (s.clampSet d).bankAt a := by
  unfold State.bankAt
  rw [State.completeCopy_words, State.clampSet_words (s := s) (t := t.releaseHolds) h]

/-- A COPY's last word goes into the destination, which is committed and READY; the transfer ends COMPLETE (R29, R174). -/
theorem State.moved_last (hs : s.bankWf) (hm : s.transfer.mode = .copy) (hd : s.transfer.destination = some d)
    (hw : s.transfer.word = 49) (v : Word) :
    ∃ t, (s.deliver v).advanceWord = t
      ∧ t = { s with
          bank := t.bank, notices := s.notices.add .transferDone none 0
          transfer := { s.transfer with state := .done, outcome := some .complete, word := 50 } }
      ∧ (∀ m : SetNo, t.record m =
          if m = d then { s.record d with state := .ready, frozen := false, hold := .none }
          else { s.record m with hold := .none })
      ∧ (∀ a : Nat, ¬(d.val * 64 ≤ a ∧ a < d.val * 64 + 50) → t.bankAt a = s.bankAt a)
      ∧ ∀ x : WordNo, (t.bankAt (d.val * 64 + x.val)).flipped = []
          ∧ t.wordInt d x.val =
              inRange (commitRange (s.wordInt d 8) x.val) (if x.val = 49 then v.toInt else s.wordInt d x.val) := by
  have hwrite : s.deliver v = s.writeWord d 49 v := by rw [State.deliver_copy hm hd, hw]
  have hlast : (s.deliver v).advanceWord =
      State.endTransfer { s.writeWord d 49 v with transfer := { s.transfer with word := 50 } } .complete := by
    rw [hwrite, State.advanceWord_last (by exact hm) (by exact hw)]
    rfl
  have hread a : (s.writeWord d 49 v).bankAt a = if a = d.val * 64 + 49 then ⟨v, []⟩ else s.bankAt a :=
    State.putCell_bankAt hs d 49 ⟨v, []⟩ a
  have hint (x : Nat) : (s.writeWord d 49 v).wordInt d x = if x = 49 then v.toInt else s.wordInt d x := by
    unfold State.wordInt
    rw [← State.bankAt_cell, hread]
    by_cases e : x = 49
    · rw [if_pos e, if_pos (by omega)]
    · rw [if_neg e, if_neg (by omega), State.bankAt_cell]
  have hend := State.endTransfer_copy (s := { s.writeWord d 49 v with transfer := { s.transfer with word := 50 } })
    (d := d) hm hd
  have hrecord := State.completed_record { s.writeWord d 49 v with transfer := { s.transfer with word := 50 } } d
  have hbank := State.completed_bankAt (s := s.writeWord d 49 v)
    (t := { s.writeWord d 49 v with transfer := { s.transfer with word := 50 } }) rfl d
  generalize (State.releaseHolds { s.writeWord d 49 v with transfer := { s.transfer with word := 50 } }).completeCopy d = c
    at hend hrecord hbank
  refine ⟨_, hlast.trans hend, rfl, hrecord, fun a ha => ?_, fun x => ?_⟩
  · exact (hbank a).trans ((State.clampSet_elsewhere (State.writeWord_wf hs d 49 v) ha).trans
      ((hread a).trans (if_neg (by omega))))
  · obtain ⟨hclean, hvalue⟩ := State.clampSet_word (State.writeWord_wf hs d 49 v) d x
    rw [← hbank] at hclean hvalue
    rw [hint, hint, if_neg (by decide)] at hvalue
    exact ⟨hclean, hvalue⟩

end Sys2Proof.Machine
end

section
/-! SUPPORT. The word movements of COPY, DUMP and SWEEP, case by case (R169, R170, R171, R174; log entries 6, 12, 13). -/

namespace Sys2Proof.Machine

variable {s t u : State} {l k : Lane} {n m d : SetNo} {w : Nat} {v : Word}

/-- The transfer whose word movement has lowered the remaining count. -/
def State.issued (s : State) : State :=
  { s with transfer := { s.transfer with remaining := s.transfer.remaining - 1 } }

theorem State.moveWord_found (h : s.issued.readWord n s.transfer.word = (t, some v)) :
    s.moveWord n = (t.deliver v).advanceWord := by
  unfold State.issued at h
  unfold State.moveWord
  dsimp only
  rw [h]

theorem State.moveWord_lost (h : s.issued.readWord n s.transfer.word = (t, none)) :
    s.moveWord n =
      if s.transfer.skipBad then (t.countBadWord.deliver 0).advanceWord else t.endTransfer .dataError := by
  unfold State.issued at h
  unfold State.moveWord
  dsimp only
  rw [h]

theorem execWordMovement_moves (h : s.due = some (.word n)) : exec .wordMovement s = .next (s.moveWord n) := by
  show execWordMovement s = _
  unfold execWordMovement
  rw [h]

theorem State.due_word_copy (ha : s.transfer.state = .active) (hm : s.transfer.mode = .copy)
    (hc : s.transfer.current = some n) : s.due = some (.word n) := by
  rw [State.due_copy ha hm, hc]
  rfl

theorem State.due_word_block (ha : s.transfer.state = .active) (hm : s.transfer.mode ≠ .copy)
    (hc : s.transfer.current = some n) (hp : s.transfer.phase = .words) (h24 : s.transferWords < 24)
    (h32 : s.responses.length < 32) : s.due = some (.word n) := by
  obtain ⟨-, -, hdue, -⟩ := State.due_block ha hm
  rw [hdue hp, if_pos ((State.admitsTransferWord_iff _).mpr ⟨h24, h32⟩), hc]
  rfl

/-- A word that a DUMP or SWEEP delivers (R169, R171). -/
theorem State.moved_queue (hm : s.transfer.mode ≠ .copy) (v : Word) :
    (s.deliver v).advanceWord =
      { s with
        responses := s.responses ++ [⟨.transfer, v⟩]
        transfer :=
          { s.transfer with
            word := s.transfer.word + 1
            phase := if s.transfer.announced ≤ s.transfer.word + 1 then .trailer else s.transfer.phase } } := by
  rw [State.deliver_queue hm, State.advanceWord_queue (by exact hm)]

/-- Settles O30, by where the word goes. -/
theorem wordMovementDelivers : Obligations.WordMovementDelivers := by
  intro n w s hs hactive hcurrent hword c hc read
  obtain ⟨r, hread, heqr, hwf, hwords⟩ := State.readWord_kept (s := s.issued) (n := n) (w := w.val) hs.1 hc
  have hmove := State.moveWord_found (by rw [hword]; exact hread)
  have part {α : Type} (f : State → α) := congrArg f heqr
  have htransfer : r.transfer = { s.transfer with remaining := s.transfer.remaining - 1, word := w.val } :=
    (part State.transfer).trans (by rw [← hword]; rfl)
  refine ⟨fun d hm hd hdn hw => ?_, fun hm hp h24 h32 => ?_⟩
  · obtain ⟨t, hmoved, heq, hat⟩ := State.moved_copy (d := d) hwf (by rw [htransfer]; exact hm)
      (by rw [htransfer]; exact hd) (by rw [htransfer]; exact hw) (s.issued.cell n w.val).value
    refine ⟨t, (execWordMovement_moves (State.due_word_copy hactive hm hcurrent)).trans
      (congrArg _ (hmove.trans hmoved)), heq.trans ?_, fun a => (hat a).trans ?_⟩
    · rw [htransfer, heqr]
      rfl
    · rw [htransfer, hwords]
      rfl
  · rw [State.moved_queue (by rw [htransfer]; exact hm), htransfer] at hmove
    refine ⟨_, (execWordMovement_moves (State.due_word_block hactive hm hcurrent hp h24 h32)).trans (congrArg _ hmove),
      ?_, hwords⟩
    rw [← hp]
    exact State.eq_of_parts (part State.pending) (part State.cond) (part State.lane0) (part State.lane1)
      (part State.bank) (part State.decoder) (congrArg (· ++ _) (part State.responses)) rfl (part State.notices)
      (part State.counters) (part State.link) (part State.ports)

/-- Settles O31, by the end of the COPY over the state its last read leaves. -/
theorem copyCompletes : Obligations.CopyCompletes := by
  intro n d s hs hactive hm hcurrent hword hd hdn c hc last
  obtain ⟨r, hread, heqr, hwf, hwords⟩ := State.readWord_kept (s := s.issued) (n := n) (w := 49) hs.1 hc
  have hmove := State.moveWord_found (by rw [hword]; exact hread)
  have part {α : Type} (f : State → α) := congrArg f heqr
  have htransfer : r.transfer = { s.transfer with remaining := s.transfer.remaining - 1 } := part State.transfer
  obtain ⟨t, hmoved, heq, hrecord, hout, hin⟩ := State.moved_last (d := d) hwf (by rw [htransfer]; exact hm)
    (by rw [htransfer]; exact hd) (by rw [htransfer]; exact hword) (s.issued.cell n 49).value
  have hsame (m : SetNo) : r.record m = s.record m := part (State.record · m)
  have hne : d.val ≠ n.val := fun h => hdn (Fin.ext h)
  have hint (x : Nat) (hx : x < 50) : r.wordInt d x = s.wordInt d x := by
    refine congrArg (fun c : Cell => c.value.toInt) ((hwords (d.val * 64 + x)).trans (if_neg ?_))
    omega
  refine ⟨t, (execWordMovement_moves (State.due_word_copy hactive hm hcurrent)).trans
    (congrArg _ (hmove.trans hmoved)), heq.trans ?_, fun m => ?_, fun a ha => (hout a ha).trans (hwords a), fun w => ?_⟩
  · rw [htransfer]
    exact State.eq_of_parts (part State.pending) (part State.cond) (part State.lane0) (part State.lane1)
      rfl (part State.decoder) (part State.responses) rfl (congrArg (NoticeQueue.add · .transferDone none 0) (part State.notices))
      (part State.counters) (part State.link) (part State.ports)
  · rw [hrecord, hsame, hsame]
  · obtain ⟨hclean, hvalue⟩ := hin w
    rw [hint 8 (by omega), hint w.val w.isLt] at hvalue
    exact ⟨hclean, hvalue⟩

/-! ## A double error (R36, R169) -/

/-- What the read of a word movement leaves when it finds a double error in a set that is not FREE. -/
structure State.LostWord (s : State) (n : SetNo) (r : State) : Prop where
  eq : r = { s with
    bank := { s.bank with records := r.bank.records }
    lane0 := r.lane0, lane1 := r.lane1
    notices := s.notices.add .setQuarantined none n.val
    counters := { s.counters with storageError := min 65535 (s.counters.storageError + 1) }
    transfer := { s.transfer with remaining := s.transfer.remaining - 1 } }
  lane : ∀ l, r.lane l =
    if (s.lane l).selection.current = some n ∧ (s.record n).state ≠ .quarantined then (s.lane l).withoutSet else s.lane l
  record : ∀ m, r.record m =
    { s.record m with state := if m = n then .quarantined else (s.record m).state }

theorem State.issued_lost (hactive : s.transfer.state = .active) (hfree : (s.record n).state ≠ .free) :
    s.LostWord n (s.issued.doubleError n) := by
  have hidle : ¬(s.issued.transfer.state = .waiting ∧ s.issued.transfer.current = some n) := by
    rintro ⟨h, -⟩
    exact nomatch hactive.symm.trans h
  obtain ⟨heq, hrecord, hlane⟩ := State.doubleError_spec hidle
  generalize s.issued.doubleError n = r at *
  have hfree' : (s.issued.record n).state ≠ .free := hfree
  rw [if_neg hfree'] at heq
  refine ⟨heq, fun l => ?_, fun m => (hrecord m).trans ?_⟩
  · have hlane' : s.issued.lane l = s.lane l := State.lane_congr l rfl rfl
    refine (hlane l).trans ?_
    rw [hlane']
    exact if_congr (and_congr_right fun _ => and_iff_right hfree) rfl rfl
  · by_cases e : m = n
    · subst e
      exact (if_pos ⟨rfl, hfree⟩).trans (by rw [if_pos rfl]; rfl)
    · exact (if_neg fun h => e h.1).trans (by rw [if_neg e]; rfl)

/-- Under STOP the transfer ends DATA ERROR at the failed word. -/
theorem State.LostWord.stop {r : State} (h : s.LostWord n r) :
    ∃ t, r.endTransfer .dataError = t
      ∧ t = { s with
          bank := { s.bank with records := t.bank.records }
          lane0 := t.lane0, lane1 := t.lane1
          notices := (s.notices.add .setQuarantined none n.val).add .transferDone none 1
          counters := { s.counters with storageError := min 65535 (s.counters.storageError + 1) }
          transfer :=
            { s.transfer with
              remaining := s.transfer.remaining - 1, state := .done, outcome := some .dataError } }
      ∧ (∀ l, t.lane l = r.lane l)
      ∧ ∀ m, t.record m = { r.record m with hold := .none } := by
  have part {α : Type} (f : State → α) := congrArg f h.eq
  refine ⟨_, State.endTransfer_eq r .dataError (.inr (by decide)), ?_, fun l => State.lane_congr l rfl rfl,
    fun m => r.releaseHolds_record m⟩
  exact State.eq_of_parts (part State.pending) (part State.cond) rfl rfl
    (congrArg (fun b : Bank => { r.releaseHolds.bank with words := b.words }) (part State.bank)) (part State.decoder)
    (part State.responses) (congrArg (fun x : Transfer => { x with state := .done, outcome := some .dataError })
      (part State.transfer)) (congrArg (NoticeQueue.add · .transferDone none 1) (part State.notices))
    (part State.counters) (part State.link) (part State.ports)

/-- Under SKIP the word is counted, before 0 is delivered. -/
theorem State.LostWord.skip {r : State} (h : s.LostWord n r) (hword : s.transfer.word = w) :
    r.countBadWord = { s with
      bank := { s.bank with records := r.countBadWord.bank.records }
      lane0 := r.countBadWord.lane0, lane1 := r.countBadWord.lane1
      notices := s.notices.add .setQuarantined none n.val
      counters := { s.counters with storageError := min 65535 (s.counters.storageError + 1) }
      transfer :=
        { s.transfer with
          remaining := s.transfer.remaining - 1, word := w
          badWords := min 65535 (s.transfer.badWords + 1), setBadWords := s.transfer.setBadWords + 1 } } := by
  have part {α : Type} (f : State → α) := congrArg f h.eq
  refine State.eq_of_parts (part State.pending) (part State.cond) rfl rfl (part State.bank) (part State.decoder)
    (part State.responses) ((part fun x => x.countBadWord.transfer).trans ?_) (part State.notices) (part State.counters)
    (part State.link) (part State.ports)
  rw [← hword]
  rfl

/-- Settles O32: under STOP by the end of the transfer, under SKIP by where the 0 goes. -/
theorem wordMovementDoubleError : Obligations.WordMovementDoubleError := by
  intro n w s hactive hcurrent hword hfree hbad found skipped report lost quarantined
  have hlost := State.issued_lost (n := n) hactive hfree
  have hmove := State.moveWord_lost (s := s) (n := n) (t := s.issued.doubleError n)
    (by rw [hword]; exact State.readWord_double hbad)
  generalize s.issued.doubleError n = r at hlost hmove
  obtain ⟨stopped, hend, hstopped, hstopLane, hstopRecord⟩ := hlost.stop
  have hskipped := hlost.skip hword
  have hlane (l : Lane) : r.countBadWord.lane l = r.lane l := State.lane_congr l rfl rfl
  have hrecord (m : SetNo) : r.countBadWord.record m = r.record m := rfl
  generalize r.countBadWord = y at hmove hskipped hlane hrecord
  have part {α : Type} (f : State → α) := congrArg f hskipped
  have htransfer := part State.transfer
  dsimp only at htransfer
  refine ⟨fun hm hp h24 h32 => ?_, fun d hm hd hdn hs => ?_⟩
  · have hexec := execWordMovement_moves (State.due_word_block hactive hm hcurrent hp h24 h32)
    by_cases hskip : s.transfer.skipBad = true
    · rw [if_pos hskip, State.moved_queue (by rw [htransfer]; exact hm)] at hmove
      refine ⟨_, hexec.trans (congrArg _ hmove), ?_, fun l => ?_, fun m => ?_⟩
      · rw [if_pos hskip, if_pos hskip, if_pos hskip, htransfer, hp]
        exact State.eq_of_parts (part State.pending) (part State.cond) rfl rfl (part State.bank) (part State.decoder)
          (congrArg (· ++ _) (part State.responses)) rfl (part State.notices) (part State.counters) (part State.link)
          (part State.ports)
      · exact (State.lane_congr l rfl rfl).trans ((hlane l).trans (hlost.lane l))
      · refine (hrecord m).trans ?_
        rw [hlost.record, if_pos hskip]
    · rw [if_neg hskip, hend] at hmove
      refine ⟨stopped, hexec.trans (congrArg _ hmove), ?_, fun l => (hstopLane l).trans (hlost.lane l), fun m => ?_⟩
      · rw [if_neg hskip, if_neg hskip, if_neg hskip]
        exact hstopped
      · rw [hstopRecord, hlost.record, if_neg hskip]
  · have hexec := execWordMovement_moves (State.due_word_copy hactive hm hcurrent)
    have hwf : y.bankWf := (congrArg (fun b : Bank => Memory.wf Cell.zero b.words = true) (part State.bank)).mpr hs.1
    have hat (a : Nat) : y.bankAt a = s.bankAt a := part (State.bankAt · a)
    intro ends
    by_cases hskip : s.transfer.skipBad = true
    · have hstop : ¬s.transfer.skipBad = false := by rw [hskip]; decide
      rw [if_pos hskip] at hmove
      by_cases hw : w.val = 49
      · obtain ⟨t, hmoved, heq, htrecord, hout, hin⟩ := State.moved_last (d := d) hwf (by rw [htransfer]; exact hm)
          (by rw [htransfer]; exact hd) (by rw [htransfer]; exact hw) 0
        have hends : ends := .inr hw
        refine ⟨t, hexec.trans (congrArg _ (hmove.trans hmoved)), ?_, fun l => ?_, fun m => ?_, fun h => absurd h hstop,
          fun _ h => absurd hw (by omega), fun _ _ => ⟨fun a ha => (hout a ha).trans (hat a), fun v => ?_⟩⟩
        · rw [if_neg hstop, if_pos hw, if_neg hstop, if_pos hw]
          refine heq.trans ?_
          rw [htransfer]
          exact State.eq_of_parts (part State.pending) (part State.cond) (congrArg State.lane0 heq).symm
            (congrArg State.lane1 heq).symm rfl (part State.decoder) (part State.responses) (by simp only [skipped, found, hw])
            (congrArg (NoticeQueue.add · .transferDone none 0) (part State.notices)) (part State.counters)
            (part State.link) (part State.ports)
        · have htlane : t.lane l = y.lane l := by rw [heq]; cases l <;> rfl
          exact htlane.trans ((hlane l).trans (hlost.lane l))
        · rw [htrecord, hrecord, hrecord, hlost.record, hlost.record, if_neg hdn]
          by_cases e : m = d
          · rw [if_pos e]
            exact (if_pos ⟨e, hskip, hw⟩).symm
          · rw [if_neg e, if_pos hends]
            exact (if_neg fun h => e h.1).symm
        · obtain ⟨hclean, hvalue⟩ := hin v
          have hint (x : Nat) : y.wordInt d x = s.wordInt d x :=
            congrArg (fun c : Cell => c.value.toInt) (hat (d.val * 64 + x))
          rw [hint, hint] at hvalue
          exact ⟨hclean, hvalue⟩
      · have hw49 : w.val < 49 := by have := w.isLt; omega
        have hends : ¬ends := fun h => h.elim hstop hw
        obtain ⟨t, hmoved, heq, hread⟩ := State.moved_copy (d := d) hwf (by rw [htransfer]; exact hm)
          (by rw [htransfer]; exact hd) (by rw [htransfer]; exact hw49) 0
        refine ⟨t, hexec.trans (congrArg _ (hmove.trans hmoved)), ?_, fun l => ?_, fun m => ?_, fun h => absurd h hstop,
          fun _ _ a => ?_, fun _ h => absurd h hw⟩
        · rw [if_neg hstop, if_neg hw, if_neg hstop, if_neg hw]
          refine heq.trans ?_
          rw [htransfer]
          exact State.eq_of_parts (part State.pending) (part State.cond) (congrArg State.lane0 heq).symm
            (congrArg State.lane1 heq).symm (congrArg State.bank heq).symm (part State.decoder) (part State.responses) rfl
            (part State.notices) (part State.counters) (part State.link) (part State.ports)
        · have htlane : t.lane l = y.lane l := by rw [heq]; cases l <;> rfl
          exact htlane.trans ((hlane l).trans (hlost.lane l))
        · have htrecord : t.record m = y.record m := by rw [heq]; rfl
          rw [htrecord, hrecord, hlost.record, if_neg hends]
          exact (if_neg fun h => hw h.2.2).symm
        · rw [hread, hat, htransfer]
    · have hstop : s.transfer.skipBad = false := Bool.not_eq_true _ ▸ hskip
      have spart {α : Type} (f : State → α) := congrArg f hstopped
      have hends : ends := .inl hstop
      rw [if_neg hskip, hend] at hmove
      refine ⟨stopped, hexec.trans (congrArg _ hmove), ?_, fun l => (hstopLane l).trans (hlost.lane l), fun m => ?_,
        fun _ a => spart (State.bankAt · a), fun h => absurd h hskip, fun h => absurd h hskip⟩
      · rw [if_pos hstop, if_pos hstop]
        exact hstopped.trans (State.eq_of_parts rfl rfl rfl rfl (spart State.bank).symm rfl rfl rfl rfl rfl rfl rfl)
      · rw [if_neg fun h => hskip h.2.1, if_pos hends, hstopRecord, hlost.record]

end Sys2Proof.Machine
end

section
/-! SUPPORT. The resolution of a servo frame's set and the entry of a set into service, with its shadow capture (R45 to
R51, R89). -/

namespace Sys2Proof.Machine

variable {s t u : State} {l k : Lane} {n m : SetNo} {w : Nat} {ws : List Nat} {r : Route} {b : Fin 4}

/-! ## Reads up to a double error, as reads in order -/

theorem State.readUntilDouble_good (hs : s.bankWf) (hd : ws.Nodup) (h : ∀ w ∈ ws, (s.cell n w).flipped.length ≤ 1) :
    s.readUntilDouble n ws = ((s.readAll n ws).1, some (ws.map fun w => (s.cell n w).value)) := by
  induction ws generalizing s with
  | nil => rfl
  | cons w ws ih =>
    obtain ⟨hw, hd⟩ := List.nodup_cons.mp hd
    obtain ⟨hread, hafter⟩ := State.readWord_found hs (h w (List.mem_cons_self ..))
    have hcell (v : Nat) (hv : v ∈ ws) : (s.readWord n w).1.cell n v = s.cell n v := hafter.cell fun e => hw (e ▸ hv)
    have hrest := ih hafter.wf hd fun v hv => by rw [hcell v hv]; exact h v (List.mem_cons_of_mem _ hv)
    rw [State.readUntilDouble_cons_some hread, hrest, List.map_congr_left fun v hv => by rw [hcell v hv]]
    rfl

theorem State.readUntilDouble_bad {post : List Nat} (hs : s.bankWf) (hd : (ws ++ w :: post).Nodup)
    (h : ∀ v ∈ ws, (s.cell n v).flipped.length ≤ 1) (hw : 2 ≤ (s.cell n w).flipped.length) :
    s.readUntilDouble n (ws ++ w :: post) = ((s.readAll n (ws ++ [w])).1, none) := by
  induction ws generalizing s with
  | nil =>
    refine (State.readUntilDouble_cons_none (State.readWord_double hw) post).trans ?_
    rw [List.nil_append, State.readAll_cons, State.readWord_double hw]
    rfl
  | cons v ws ih =>
    obtain ⟨hv, hd⟩ := List.nodup_cons.mp hd
    obtain ⟨hread, hafter⟩ := State.readWord_found hs (h v (List.mem_cons_self ..))
    have hcell (x : Nat) (hx : x ∈ ws ++ w :: post) : (s.readWord n v).1.cell n x = s.cell n x :=
      hafter.cell fun e => hv (e ▸ hx)
    have hrest := ih hafter.wf hd
      (fun x hx => by rw [hcell x (List.mem_append_left _ hx)]; exact h x (List.mem_cons_of_mem _ hx))
      (by rw [hcell w (by simp)]; exact hw)
    rw [List.cons_append, State.readUntilDouble_cons_some hread, hrest]
    rfl

/-! ## The applied band and the resolution (R45 to R48) -/

/-- The state with a lane's applied band brought up to date. -/
def State.banded (s : State) (l : Lane) (b : Fin 4) : State :=
  s.setLane l { s.lane l with selection := { (s.lane l).selection with band := b } }

theorem State.applyBand_eq (s : State) (l : Lane) (active : Bool) :
    s.applyBand l active = s.banded l (if active then (s.lane l).selection.band else s.cond.band) := by
  unfold State.applyBand State.banded
  cases active
  · rfl
  · exact (s.setLane_self l).symm

theorem State.banded_lane (s : State) (l : Lane) (b : Fin 4) :
    (s.banded l b).lane l = { s.lane l with selection := { (s.lane l).selection with band := b } } :=
  State.setLane_lane ..

theorem State.banded_mapEntry (s : State) (l : Lane) (b : Fin 4) (a : Nat) :
    (s.banded l b).mapEntry l a = s.mapEntry l a := by
  unfold State.mapEntry
  rw [State.banded_lane]

theorem State.usable_iff : s.usable l n = true ↔
    (s.record n).state = .ready ∨ (s.record n).state = .live ∧ (s.lane l).selection.current = some n := by
  simp [State.usable]

theorem State.banded_usable (s : State) (l : Lane) (b : Fin 4) (n : SetNo) :
    (s.banded l b).usable l n = s.usable l n := by
  rw [Bool.eq_iff_iff, State.usable_iff, State.usable_iff, State.banded_lane]
  exact Iff.rfl

theorem State.usableName_some (h : s.usable l n = true) : s.usableName l (some n) = some n :=
  Option.filter_eq_some_iff.mpr ⟨rfl, h⟩

theorem State.usableName_none {o : Option SetNo} (h : ∀ m, o = some m → ¬s.usable l m = true) :
    s.usableName l o = none :=
  Option.filter_eq_none_iff.mpr h

theorem State.resolve_primary {a : Nat} (he : s.mapEntry l a = some n) (h : s.usable l n = true) :
    s.resolve l a = some (n, .primary) := by
  unfold State.resolve
  rw [he, State.usableName_some h]

theorem State.resolve_fallback {a : Nat} (he : ∀ m, s.mapEntry l a = some m → ¬s.usable l m = true)
    (hf : (s.lane l).selection.fallback = some n) (h : s.usable l n = true) :
    s.resolve l a = some (n, .fallback) := by
  unfold State.resolve
  rw [State.usableName_none he, hf, State.usableName_some h]

theorem State.resolve_none {a : Nat} (he : ∀ m, s.mapEntry l a = some m → ¬s.usable l m = true)
    (hf : ∀ m, (s.lane l).selection.fallback = some m → ¬s.usable l m = true) : s.resolve l a = none := by
  unfold State.resolve
  rw [State.usableName_none he, State.usableName_none hf]

/-! ## A state that differs in one lane -/

theorem State.eq_setLane_of_parts {z : LaneState} (h : t = { s with lane0 := t.lane0, lane1 := t.lane1 }) (hl : t.lane l = z)
    (ho : t.lane l.other = s.lane l.other) : t = s.setLane l z := by
  subst hl
  rw [h]
  cases l
  · exact congrArg (fun y : LaneState => { s with lane0 := t.lane0, lane1 := y }) ho
  · exact congrArg (fun y : LaneState => { s with lane0 := y, lane1 := t.lane1 }) ho

theorem State.retireCurrent_eq (s : State) (l : Lane) :
    s.retireCurrent l = { s with bank := { s.bank with records := (s.retireCurrent l).bank.records } } := by
  unfold State.retireCurrent
  split
  · split <;> rfl
  · rfl

/-- The entry of a set into service, over a lane whose applied band has been brought up to date. -/
theorem State.banded_entered_eq (s : State) (l : Lane) (b : Fin 4) (n : SetNo) (r : Route) :
    (s.banded l b).entered l n r =
      ({ s with bank := { s.bank with records := ((s.banded l b).entered l n r).bank.records } } : State).setLane l
        { s.lane l with
          selection := { (s.lane l).selection with band := b, current := some n, route := r }
          filter := { (s.lane l).filter with held := 0 } } := by
  have hretire := (s.banded l b).retireCurrent_eq l
  obtain ⟨records, hretire⟩ : ∃ records, (s.banded l b).retireCurrent l =
      { s.banded l b with bank := { s.bank with records := records } } := ⟨_, hretire⟩
  unfold State.entered
  rw [hretire]
  cases l <;> rfl

/-- The records once another set has entered service (R26, R27). -/
theorem State.banded_entered_record (hc : (s.lane l).selection.current ≠ some n) (b : Fin 4) (r : Route) (m : SetNo) :
    ((s.banded l b).entered l n r).record m =
      if m = n then { s.record n with state := .live }
      else if (s.lane l).selection.current = some m ∧ (s.record m).state = .live then { s.record m with state := .ready }
      else s.record m := by
  have hreleased (m : SetNo) : (s.banded l b).recordReleased l m = s.recordReleased l m := by
    unfold State.recordReleased
    rw [State.banded_lane]
    rfl
  have hkept : s.recordReleased l n = s.record n := if_neg fun h => hc h.1
  rw [State.entered_record, hreleased, hreleased, hkept]
  rfl

/-- The lane gives up its current set (R50). -/
theorem State.banded_release (s : State) (l : Lane) (b : Fin 4) :
    (s.banded l b).releaseCurrent l =
        ({ s with bank := { s.bank with records := ((s.banded l b).releaseCurrent l).bank.records } } : State).setLane l
          { (s.lane l).withoutSet with
            selection := { (s.lane l).selection with band := b, current := none, route := .none } }
      ∧ ∀ m, ((s.banded l b).releaseCurrent l).record m =
          if (s.lane l).selection.current = some m ∧ (s.record m).state = .live then { s.record m with state := .ready }
          else s.record m := by
  constructor
  · obtain ⟨records, hretire⟩ : ∃ records, (s.banded l b).retireCurrent l =
        { s.banded l b with bank := { s.bank with records := records } } := ⟨_, (s.banded l b).retireCurrent_eq l⟩
    rw [State.releaseCurrent_eq, hretire]
    cases l <;> rfl
  · intro m
    rw [State.releaseCurrent_record, State.banded_lane]
    rfl

end Sys2Proof.Machine
end

section
/-! SUPPORT. The shadow capture of a set that has entered service (R51, R89; log entry 6). -/

namespace Sys2Proof.Machine

variable {s t u : State} {l k : Lane} {n m : SetNo} {w : Nat} {ws : List Nat} {r : Route} {b : Fin 4}

/-- From `u` to `t` lane `l` has read the first words of set `n`'s taps, and its own part is now `z`. -/
structure State.Captured (u : State) (l : Lane) (n : SetNo) (cs : List Cell) (z : LaneState) (t : State) : Prop where
  eq : t = ({ u with
    bank := t.bank, notices := u.notices.afterReads n false cs, counters := u.counters.afterReads cs } : State).setLane l z
  record : ∀ m, t.record m = if m = n ∧ 0 < doubles cs then { u.record n with state := .quarantined } else u.record m

/-- A capture whose taps hold no double error. -/
theorem State.captureShadow_good (hs : u.bankWf) (hlive : (u.record n).state = .live)
    (h : ∀ j < 40, (u.bankAt (n.val * 64 + 10 + j)).flipped.length ≤ 1) :
    u.Captured l n (u.cells n 10 40)
        { u.lane l with
          adapt := { (u.lane l).adapt with shadow := some ⟨n, (u.cells n 10 40).map Cell.value⟩, divergence := 0 } }
        (u.captureShadow l n)
      ∧ u.RowRead n 10 40 (u.captureShadow l n)
      ∧ doubles (u.cells n 10 40) = 0 := by
  have hgood : ∀ w ∈ tapWords, (u.cell n w).flipped.length ≤ 1 := by
    intro w hw
    obtain ⟨j, hj, rfl⟩ := List.mem_map.mp hw
    have hone := h j (List.mem_range.mp hj)
    rwa [Nat.add_assoc, Nat.add_comm 10 j, State.bankAt_cell] at hone
  have hnodup : tapWords.Nodup := row_nodup 10 40
  obtain ⟨-, hread⟩ := State.readAll_spec hs hnodup (.inr hgood)
  have hcs : tapWords.map (u.cell n) = u.cells n 10 40 := (State.cells_eq u n 10 40).symm
  have hnone : doubles (u.cells n 10 40) = 0 := by
    rw [← hcs, doubles_eq_zero]
    intro c hc
    obtain ⟨w, hw, rfl⟩ := List.mem_map.mp hc
    exact hgood w hw
  have hcapture : u.captureShadow l n = (u.readAll n tapWords).1.onAdapt l fun x =>
      { x with shadow := some ⟨n, (u.cells n 10 40).map Cell.value⟩, divergence := 0 } := by
    unfold State.captureShadow
    rw [State.readUntilDouble_good hs hnodup hgood, ← hcs, List.map_map]
    rfl
  have hrow : u.RowRead n 10 40 (u.readAll n tapWords).1 := State.AfterReads.row hread
  generalize (u.readAll n tapWords).1 = v at hread hcapture hrow
  obtain ⟨-, heq, hlane, hrecord, -⟩ := hread
  rw [hcs, hlive] at heq
  rw [hcs] at hlane hrecord
  have part {α : Type} (f : State → α) := congrArg f heq
  have hl (k : Lane) : v.lane k = u.lane k := (hlane k).trans (if_neg fun hc => absurd hc.2.1 (by omega))
  rw [hcapture]
  refine ⟨⟨State.eq_setLane_of_parts ?_ ?_ ?_, fun m => (hrecord m).trans ?_⟩, hrow, hnone⟩
  · exact State.eq_of_parts (part State.pending) (part State.cond) rfl rfl rfl (part State.decoder) (part State.responses)
      (part State.transfer) (part State.notices) (part State.counters) (part State.link) (part State.ports)
  · rw [State.onAdapt_lane, hl]
  · rw [State.onAdapt_other]
    exact hl l.other
  · rw [if_neg fun hc => absurd hc.2.1 (by omega), if_neg fun hc => absurd hc.2 (by omega)]

/-- A capture that ends at a double error in tap `k`. -/
theorem State.captureShadow_bad {k : Nat} (hs : u.bankWf) (hlive : (u.record n).state = .live)
    (hcur : (u.lane l).selection.current = some n) (hother : (u.lane l.other).selection.current ≠ some n)
    (hwait : ¬(u.transfer.state = .waiting ∧ u.transfer.current = some n)) (hk : k < 40)
    (h : ∀ j < k, (u.bankAt (n.val * 64 + 10 + j)).flipped.length ≤ 1)
    (hbad : 2 ≤ (u.bankAt (n.val * 64 + 10 + k)).flipped.length) :
    u.Captured l n (u.cells n 10 (k + 1)) (u.lane l).withoutSet (u.captureShadow l n)
      ∧ u.RowRead n 10 k (u.captureShadow l n)
      ∧ 0 < doubles (u.cells n 10 (k + 1)) := by
  obtain ⟨j, hj⟩ : ∃ j, 40 = k + 1 + j := ⟨40 - (k + 1), by omega⟩
  have htaps : tapWords = (List.range k).map (· + 10) ++ (k + 10) :: ((List.range j).map (k + 1 + ·)).map (· + 10) := by
    show (List.range 40).map (· + 10) = _
    rw [hj, List.range_add, List.range_succ]
    simp
  have hrange : (List.range k).map (· + 10) ++ [k + 10] = (List.range (k + 1)).map (· + 10) := by
    rw [List.range_succ, List.map_append]
    rfl
  have hnodup : ((List.range k).map (· + 10) ++ (k + 10) :: ((List.range j).map (k + 1 + ·)).map (· + 10)).Nodup := by
    rw [← htaps]
    exact row_nodup 10 40
  have hgood : ∀ w ∈ (List.range k).map (· + 10), (u.cell n w).flipped.length ≤ 1 := by
    intro w hw
    obtain ⟨i, hi, rfl⟩ := List.mem_map.mp hw
    have hone := h i (List.mem_range.mp hi)
    rwa [Nat.add_assoc, Nat.add_comm 10 i, State.bankAt_cell] at hone
  have hdouble : 2 ≤ (u.cell n (k + 10)).flipped.length := by
    rwa [Nat.add_assoc, Nat.add_comm 10 k, State.bankAt_cell] at hbad
  have hcapture : u.captureShadow l n = (u.readAll n ((List.range (k + 1)).map (· + 10))).1 := by
    unfold State.captureShadow
    rw [htaps, State.readUntilDouble_bad hs hnodup hgood hdouble, hrange]
  obtain ⟨-, hread⟩ := State.readAll_spec hs (row_nodup 10 (k + 1)) (.inl hwait)
  have hcs : ((List.range (k + 1)).map (· + 10)).map (u.cell n) = u.cells n 10 (k + 1) := (State.cells_eq u n 10 (k + 1)).symm
  have hpos : 0 < doubles (u.cells n 10 (k + 1)) := by
    rw [← hcs, doubles_pos]
    exact ⟨_, List.mem_map_of_mem (List.mem_map_of_mem List.self_mem_range_succ), hdouble⟩
  have hrow : u.RowRead n 10 (k + 1) (u.readAll n ((List.range (k + 1)).map (· + 10))).1 := State.AfterReads.row hread
  rw [hcapture]
  generalize (u.readAll n ((List.range (k + 1)).map (· + 10))).1 = v at hread hrow
  obtain ⟨-, heq, hlane, hrecord, -⟩ := hread
  rw [hcs, hlive] at heq
  rw [hcs] at hlane hrecord
  have hfree : (u.record n).state ≠ .free := by rw [hlive]; decide
  have hquarantined : (u.record n).state ≠ .quarantined := by rw [hlive]; decide
  have part {α : Type} (f : State → α) := congrArg f heq
  refine ⟨⟨State.eq_setLane_of_parts ?_ ?_ ?_, fun m => (hrecord m).trans ?_⟩, fun a => (hrow a).trans ?_, hpos⟩
  · exact State.eq_of_parts (part State.pending) (part State.cond) rfl rfl rfl (part State.decoder) (part State.responses)
      (part State.transfer) (part State.notices) (part State.counters) (part State.link) (part State.ports)
  · exact (hlane l).trans (if_pos ⟨hcur, hpos, hfree, hquarantined⟩)
  · exact (hlane l.other).trans (if_neg fun hc => hother hc.1)
  · exact if_congr (and_congr_right fun _ => and_iff_left hfree) rfl rfl
  · by_cases ha : a = n.val * 64 + 10 + k
    · rw [if_pos (by omega), if_neg (by omega), ha, Cell.afterRead, if_neg (by omega)]
    · exact if_congr (by omega) rfl rfl

end Sys2Proof.Machine
end

section
/-! SUPPORT. The selector's part of a servo frame, outcome by outcome (R46 to R51, R89). -/

namespace Sys2Proof.Machine

variable {s t u : State} {l : Lane} {n m : SetNo} {r : Route} {b : Fin 4}

theorem State.selectFrame_idle {f : ServoFields}
    (hm : (s.lane f.lane).control.mode ≠ .running) :
    s.selectFrame f =
      (s.banded f.lane (if f.writeActive then (s.lane f.lane).selection.band else s.cond.band), none) := by
  unfold State.selectFrame
  rw [State.applyBand_eq]
  dsimp only
  rw [State.banded_lane]
  exact if_neg hm

theorem State.selectFrame_running {f : ServoFields} (hb : b = if f.writeActive then (s.lane f.lane).selection.band else s.cond.band)
    (hm : (s.lane f.lane).control.mode = .running) :
    s.selectFrame f =
      ((s.banded f.lane b).select f.lane ((s.banded f.lane b).resolve f.lane (keyAddr f.head f.zone b)),
        (s.banded f.lane b).resolve f.lane (keyAddr f.head f.zone b)) := by
  unfold State.selectFrame
  rw [State.applyBand_eq, ← hb]
  dsimp only
  rw [State.banded_lane]
  exact if_pos hm

/-- The selector takes another set into service. -/
theorem State.banded_select_other (hc : (s.lane l).selection.current ≠ some n) (b : Fin 4) (r : Route) :
    (s.banded l b).select l (some (n, r)) = ((s.banded l b).entered l n r).captureShadow l n
      ∧ (s.banded l b).entered l n r =
        ({ s with bank := { s.bank with records := ((s.banded l b).entered l n r).bank.records } } : State).setLane l
          { s.lane l with
            selection := { (s.lane l).selection with band := b, current := some n, route := r }
            filter := { (s.lane l).filter with held := 0 } }
      ∧ (∀ m, ((s.banded l b).entered l n r).record m =
        if m = n then { s.record n with state := .live }
        else if (s.lane l).selection.current = some m ∧ (s.record m).state = .live then { s.record m with state := .ready }
        else s.record m)
      ∧ ∀ a, ((s.banded l b).entered l n r).bankAt a = s.bankAt a := by
  have hu := s.banded_entered_eq l b n r
  refine ⟨if_neg (by rw [State.banded_lane]; exact hc), hu, State.banded_entered_record hc b r, fun a => ?_⟩
  rw [hu]
  rfl

/-- Another set enters service with every tap clean. -/
theorem State.captureShadow_clean {z : LaneState} {records : Vector SetRecord 48}
    (hu : u = ({ s with bank := { s.bank with records := records } } : State).setLane l z)
    (h : ∀ j < 40, (s.bankAt (n.val * 64 + 10 + j)).flipped = []) :
    u.captureShadow l n = ({ s with bank := { s.bank with records := records } } : State).setLane l
      { z with
        adapt :=
          { z.adapt with
            divergence := 0
            shadow := some { set := n, taps := (List.range 40).map fun j => (s.bankAt (n.val * 64 + 10 + j)).value } } } := by
  have hcell (v : Nat) : u.cell n v = s.cell n v := by
    rw [hu]
    rfl
  have hclean : ∀ w ∈ tapWords, (u.cell n w).flipped = [] := by
    intro w hw
    obtain ⟨j, hj, rfl⟩ := List.mem_map.mp hw
    have hone := h j (List.mem_range.mp hj)
    rw [hcell]
    rwa [Nat.add_assoc, Nat.add_comm 10 j, State.bankAt_cell] at hone
  have htaps : (tapWords.map fun w => (u.cell n w).value) =
      (List.range 40).map fun j => (s.bankAt (n.val * 64 + 10 + j)).value := by
    rw [tapWords, List.map_map]
    refine List.map_congr_left fun j _ => ?_
    show (u.cell n (j + 10)).value = _
    rw [hcell, Nat.add_assoc, Nat.add_comm 10 j, State.bankAt_cell]
  unfold State.captureShadow
  rw [State.readUntilDouble_clean hclean, htaps, hu]
  dsimp only
  cases l <;> rfl

/-- What the capture after an entry into service does, seen from the state before the frame. -/
theorem State.Captured.of_entered {z y : LaneState} {records : Vector SetRecord 48} {cs : List Cell}
    (hu : u = ({ s with bank := { s.bank with records := records } } : State).setLane l z) (h : u.Captured l n cs y t) :
    t = ({ s with
      bank := t.bank, notices := s.notices.afterReads n false cs, counters := s.counters.afterReads cs } : State).setLane l y := by
  have hn : u.notices = s.notices := by rw [hu]; exact State.setLane_notices ..
  have hc : u.counters = s.counters := by rw [hu]; exact State.setLane_counters ..
  refine h.eq.trans ?_
  rw [hn, hc, hu]
  cases l <;> rfl

/-- Settles O45: the band first, then the lane without a set, with the set it has, and with another one. -/
theorem setResolution : Obligations.SetResolution := by
  intro f s hs l x band entry usable retired chosen
  refine ⟨fun hm => State.selectFrame_idle hm, fun hm => ?_⟩
  have hrun := State.selectFrame_running (b := band) rfl hm
  have hchosen : ∀ found, (s.banded l band).resolve l (keyAddr f.head f.zone band) = found → chosen found := by
    intro found hfound
    rw [hfound] at hrun
    refine ⟨_, hrun, ?_, ?_⟩
    · rintro rfl
      exact s.banded_release l band
    · rintro n r rfl
      have hlane := s.banded_lane l band
      refine ⟨fun hc => ?_, fun hc hclean => ?_, fun k hk hgood hbad hc hother hwait => ?_⟩
      · have hselect : (s.banded l band).select l (some (n, r)) = (s.banded l band).onSelection l fun x => { x with route := r } :=
          if_pos (by rw [hlane]; exact hc)
        rw [hselect, State.onSelection, hlane]
        exact State.setLane_setLane ..
      · obtain ⟨hselect, hu, hrecord, -⟩ := State.banded_select_other hc band r
        rw [hselect]
        generalize (s.banded l band).entered l n r = u at hu hrecord
        have hcaptured := State.captureShadow_clean hu hclean
        generalize u.captureShadow l n = t at hcaptured
        have hbank : t.bank.records = u.bank.records := by rw [hcaptured]; rfl
        refine ⟨?_, fun m => ?_⟩
        · rw [hbank]
          exact hcaptured
        · have hkept : t.record m = u.record m := by rw [hcaptured]; rfl
          exact hkept.trans (hrecord m)
      · obtain ⟨hselect, hu, hrecord, hbankAt⟩ := State.banded_select_other hc band r
        rw [hselect]
        generalize (s.banded l band).entered l n r = u at hu hrecord hbankAt
        have hwf : u.bankWf := by rw [hu]; exact hs.1
        have hlive : (u.record n).state = .live := by rw [hrecord, if_pos rfl]
        have hul := (congrArg (State.lane · l) hu).trans (State.setLane_lane ..)
        have huo : u.lane l.other = s.lane l.other := by rw [hu]; exact (State.setLane_other ..).trans (State.lane_congr _ rfl rfl)
        have hut : u.transfer = s.transfer := by rw [hu]; rfl
        have hcells (a j : Nat) : u.cells n a j = s.cells n a j := List.map_congr_left fun i _ => hbankAt _
        have hrow (t : State) (h : u.RowRead n 10 k t) (a : Nat) : t.bankAt a =
            if n.val * 64 + 10 ≤ a ∧ a < n.val * 64 + 10 + k then (s.bankAt a).afterRead else s.bankAt a := by
          rw [h, hbankAt]
        have hgood' : ∀ j < k, (u.bankAt (n.val * 64 + 10 + j)).flipped.length ≤ 1 := fun j hj => by
          rw [hbankAt]
          exact hgood j hj
        by_cases hk40 : k < 40
        · obtain ⟨hcaptured, hread, hpos⟩ := State.captureShadow_bad (l := l) hwf hlive (by rw [hul])
            (by rw [huo]; exact hother) (by rw [hut]; exact hwait) hk40 hgood' (by rw [hbankAt]; exact hbad hk40)
          rw [hcells] at hcaptured hpos
          have hmin : min 40 (k + 1) = k + 1 := by omega
          rw [hmin]
          intro cs
          rw [if_pos hk40, if_pos hk40, if_pos hk40]
          refine ⟨(hcaptured.of_entered hu).trans (by rw [hul]; rfl), fun m => ?_, hrow _ hread⟩
          rw [hcaptured.record, hrecord, hrecord, if_pos rfl]
          by_cases e : m = n
          · rw [if_pos ⟨e, hpos⟩, if_pos e]
          · rw [if_neg fun h => e h.1, if_neg e, if_neg e]
        · obtain rfl : k = 40 := by omega
          obtain ⟨hcaptured, hread, hnone⟩ := State.captureShadow_good (l := l) hwf hlive hgood'
          rw [hcells] at hcaptured hnone
          have hmin : min 40 (40 + 1) = 40 := by decide
          rw [hmin]
          intro cs
          rw [if_neg hk40, if_neg hk40, if_neg hk40]
          refine ⟨(hcaptured.of_entered hu).trans (by rw [hul]; rfl), fun m => ?_, hrow _ hread⟩
          exact (hcaptured.record m).trans ((if_neg fun h => absurd h.2 (by omega)).trans (hrecord m))
  have husable (n : SetNo) : (s.banded l band).usable l n = true ↔ usable n := by
    rw [State.banded_usable]
    exact State.usable_iff
  have hentry : (s.banded l band).mapEntry l (keyAddr f.head f.zone band) = entry := s.banded_mapEntry l band _
  have hfallback : ((s.banded l band).lane l).selection.fallback = x.selection.fallback := by rw [State.banded_lane]
  refine ⟨fun n he hn => hchosen _ (State.resolve_primary (hentry.trans he) ((husable n).mpr hn)),
    fun n he hf hn => hchosen _ (State.resolve_fallback (fun m hm => mt (husable m).mp (he m (hentry.symm.trans hm)))
      (hfallback.trans hf) ((husable n).mpr hn)),
    fun he hf => hchosen _ (State.resolve_none (fun m hm => mt (husable m).mp (he m (hentry.symm.trans hm)))
      fun m hm => mt (husable m).mp (hf m (hfallback.symm.trans hm)))⟩

end Sys2Proof.Machine
end
